-- ==== Sys2Proof/Word.lean ====
section
/-! DEFINITION. The words of the N9 and the plain records that messages carry. -/

namespace Sys2Proof

/-- A byte (R4). -/
abbrev Byte := BitVec 8
/-- A scalar register, CSR, pointer or 64-bit micro-word. -/
abbrev Word := BitVec 64
/-- A bundle word or near-bank micro-word (R61, R86). -/
abbrev Word32 := BitVec 32
/-- A vector register or accumulator row: 512 bytes (R130, R172). -/
abbrev Vec := BitVec 4096
/-- A mask register (R134). -/
abbrev Mask := BitVec 512

/-- A run of bytes as messages, digests and keys hold it. -/
abbrev Bytes := List (BitVec 8)

/-- The request header of Table 19.3 with the session that carries it (0 for a host command without one, R411).
`len` is LEN as sent, which R404 compares with the body. -/
structure Req where
  session  : Nat
  len      : Nat
  rtag     : BitVec 32
  ctx      : BitVec 16
  queue    : BitVec 8
  reserved : BitVec 40
  deriving DecidableEq, Repr

/-- Supply states of Table 18.1. -/
inductive SupplyState where
  | normal | limited | sag | fail
  deriving DecidableEq, Repr

/-- What is wrong with an arriving flit (R369). -/
inductive FlitTrouble where
  | uncorrectable | aheadOfSeq | authentication | duplicate
  deriving DecidableEq, Repr

/-- States of the PCIe host link (R366). -/
inductive HostLinkState where
  | down | training | up | faulted
  deriving DecidableEq, Repr

/-- A transfer-data flit, as the receiving hub sees it after deciphering (Table 17.2, R372). -/
structure Flit where
  seq   : BitVec 64
  xfer  : BitVec 24
  dcore : BitVec 16
  win   : BitVec 8
  last  : Bool
  goff  : BitVec 32
  csum  : BitVec 32
  data  : Bytes
  deriving DecidableEq, Repr

/-- A window-open flit (R371, R374, R444). -/
structure WindowOpen where
  sender : Nat
  dcore  : BitVec 16
  win    : BitVec 8
  xfer   : BitVec 24
  ngran  : BitVec 32
  bar    : BitVec 64
  reopen : Bool
  deriving DecidableEq, Repr

/-- Kinds of service access (R118, R281). -/
inductive AccessKind where
  | load | store
  | aadd | amin | amax | aand | aor | axor | axchg | acas
  deriving DecidableEq, Repr

/-- A space-5 request of a peer as it arrives at the export window (R267, R367). -/
structure PeerRequest where
  sender : Nat
  id     : Nat
  kind   : AccessKind
  offset : Nat
  size   : Nat
  data   : BitVec 64
  data2  : BitVec 64
  deriving DecidableEq, Repr

end Sys2Proof
end

