-- ==== Sys2Proof/Machine/Store.lean ====
section
/-! DEFINITION. Stores as plain data. `SMap` is a list of keys and values with rising keys; `Mem` is a list of bytes by
address in one canonical form: addresses strictly rising, no entry equal to 0, which is what an unlisted address reads as
(R53, R24, log 1 and log 4). -/

namespace Sys2Proof

/-- An element put into a list, before the first element that may come after it. -/
def insertBy {α : Type} (le : α → α → Bool) (a : α) : List α → List α
  | [] => [a]
  | b :: l => if le a b then a :: b :: l else b :: insertBy le a l
/-- A list in an order, equal elements as they stood. -/
def sortBy {α : Type} (le : α → α → Bool) : List α → List α
  | [] => []
  | a :: l => insertBy le a (sortBy le l)

/-- A finite map from numbers, keys rising. -/
abbrev SMap (α : Type) := List (Nat × α)

/-- The value at a key. -/
def SMap.get? {α : Type} (m : SMap α) (k : Nat) : Option α :=
  match m with
  | [] => none
  | (j, v) :: r => if j == k then some v else SMap.get? r k

/-- The value at a key, or a default. -/
def SMap.getD {α : Type} (m : SMap α) (k : Nat) (d : α) : α := (SMap.get? m k).getD d

/-- The map with a value put at a key. -/
def SMap.put {α : Type} (m : SMap α) (k : Nat) (v : α) : SMap α :=
  match m with
  | [] => [(k, v)]
  | (j, w) :: r => if j < k then (j, w) :: SMap.put r k v else if j == k then (k, v) :: r else (k, v) :: (j, w) :: r

/-- The map without a key. -/
def SMap.del {α : Type} (m : SMap α) (k : Nat) : SMap α := m.filter fun c => c.1 != k

/-- The map with a value put at a key, or the key dropped when the value is the default that an absent key reads as. -/
def SMap.set {α : Type} [DecidableEq α] (d : α) (m : SMap α) (k : Nat) (v : α) : SMap α :=
  if v = d then SMap.del m k else SMap.put m k v

/-- Whether the key is present. -/
def SMap.has {α : Type} (m : SMap α) (k : Nat) : Bool := (SMap.get? m k).isSome

/-- Keys strictly rising from a bound. -/
def SMap.risingFrom {α : Type} (b : Nat) : SMap α → Bool
  | [] => true
  | (k, _) :: r => b ≤ k && SMap.risingFrom (k + 1) r

/-- Keys strictly rising. -/
def SMap.rising {α : Type} (m : SMap α) : Bool := SMap.risingFrom 0 m

/-- A byte store: (address, byte) pairs in canonical form. -/
abbrev Mem := List Host.Cell

/-- What an unlisted address reads as. -/
def memDefault : Byte := 0

/-- The byte at an address. -/
def Mem.get (m : Mem) (a : Nat) : Byte := SMap.getD m a memDefault

/-- The store with one byte written; writing the default removes the entry. -/
def Mem.set (m : Mem) (a : Nat) (b : Byte) : Mem := SMap.set memDefault m a b

/-- The canonical form: addresses strictly rising and no entry equal to the default. -/
def Mem.wf (m : Mem) : Bool := SMap.rising m && m.all fun c => c.2 != memDefault

/-- `n` bytes from an address. -/
def Mem.read (m : Mem) (a n : Nat) : Bytes := (List.range n).map fun k => Mem.get m (a + k)

/-- `Mem.read` in one walk along a list in canonical form, for evaluation. -/
def Mem.walk (m : Mem) (a n : Nat) : Bytes :=
  match n with
  | 0 => []
  | n + 1 =>
    let m' := m.dropWhile fun c => c.1 < a
    (match m' with
     | [] => memDefault
     | c :: _ => if c.1 == a then c.2 else memDefault) :: Mem.walk m' (a + 1) n

theorem SMap.get?_of_risingFrom {α : Type} (m : SMap α) : ∀ (b k : Nat), SMap.risingFrom b m = true → k < b → SMap.get? m k = none := by
  induction m with
  | nil => intros; rfl
  | cons c r ih =>
    obtain ⟨j, v⟩ := c
    intro b k h hk
    simp only [SMap.risingFrom, Bool.and_eq_true, decide_eq_true_eq] at h
    have : ¬ j = k := by omega
    simp only [SMap.get?, beq_iff_eq, this, if_false]
    exact ih (j + 1) k h.2 (by omega)

theorem SMap.get?_dropWhile {α : Type} (m : SMap α) (b k : Nat) (hm : SMap.risingFrom b m = true) :
    SMap.get? m k = match m.dropWhile (fun c => c.1 < k) with
      | [] => none
      | c :: _ => if c.1 == k then some c.2 else none := by
  induction m generalizing b with
  | nil => rfl
  | cons c r ih =>
    obtain ⟨j, v⟩ := c
    simp only [SMap.risingFrom, Bool.and_eq_true, decide_eq_true_eq] at hm
    by_cases h : j < k
    · have h2 : ¬ j = k := by omega
      simp [SMap.get?, h, h2, ih (j + 1) hm.2]
    · by_cases h2 : j = k
      · simp [SMap.get?, h2]
      · simp [SMap.get?, h, h2, SMap.get?_of_risingFrom r (j + 1) k hm.2 (by omega)]

theorem SMap.risingFrom_mono {α : Type} (m : SMap α) (a b : Nat) (h : a ≤ b) (hm : SMap.risingFrom b m = true) :
    SMap.risingFrom a m = true := by
  cases m with
  | nil => rfl
  | cons c r =>
    simp only [SMap.risingFrom, Bool.and_eq_true, decide_eq_true_eq] at hm ⊢
    exact ⟨by omega, hm.2⟩

theorem SMap.risingFrom_dropWhile {α : Type} (m : SMap α) (a b : Nat) (hm : SMap.risingFrom b m = true) :
    SMap.risingFrom b (m.dropWhile (fun c => c.1 < a)) = true := by
  induction m generalizing b with
  | nil => rfl
  | cons c r ih =>
    by_cases h : c.1 < a
    · have h2 := hm
      simp only [SMap.risingFrom, Bool.and_eq_true, decide_eq_true_eq] at h2
      simp only [List.dropWhile_cons, h, decide_true, if_true]
      exact ih b (SMap.risingFrom_mono r b (c.1 + 1) (by omega) h2.2)
    · simpa [List.dropWhile_cons, h] using hm

theorem SMap.get?_dropWhile_le {α : Type} (m : SMap α) (a k : Nat) (h : a ≤ k) :
    SMap.get? (m.dropWhile (fun c => c.1 < a)) k = SMap.get? m k := by
  induction m with
  | nil => rfl
  | cons c r ih =>
    obtain ⟨j, v⟩ := c
    by_cases hj : j < a
    · have : ¬ j = k := by omega
      simp [hj, SMap.get?, this, ih]
    · simp [hj]

theorem Mem.walk_eq (n : Nat) : ∀ (m m0 : Mem) (a b : Nat), SMap.risingFrom b m = true →
    (∀ k, a ≤ k → SMap.get? m k = SMap.get? m0 k) → Mem.walk m a n = Mem.read m0 a n := by
  induction n with
  | zero => intros; rfl
  | succ n ih =>
    intro m m0 a b hm h
    have h1 : ∀ k, a + 1 ≤ k → SMap.get? (m.dropWhile fun c => c.1 < a) k = SMap.get? m0 k := fun k hk => by
      rw [SMap.get?_dropWhile_le m a k (by omega)]; exact h k (by omega)
    have h2 := ih _ m0 (a + 1) b (SMap.risingFrom_dropWhile m a b hm) h1
    have hd : (match m.dropWhile (fun c => c.1 < a) with
        | [] => memDefault
        | c :: _ => if c.1 == a then c.2 else memDefault) = Mem.get m0 a := by
      rw [Mem.get, SMap.getD, ← h a (Nat.le_refl a), SMap.get?_dropWhile m b a hm]
      cases m.dropWhile (fun c => c.1 < a) with
      | nil => rfl
      | cons c r => by_cases hc : c.1 == a <;> simp [hc]
    simp only [Mem.walk]
    rw [h2, hd]
    simp [Mem.read, List.range_succ_eq_map, Function.comp_def, Nat.add_comm, Nat.add_left_comm]

/-- The same for a whole read. -/
def Mem.readFast (m : Mem) (a n : Nat) : Bytes :=
  if SMap.rising m then Mem.walk m a n else (List.range n).map fun k => Mem.get m (a + k)

@[csimp] theorem Mem.read_eq_readFast : @Mem.read = @Mem.readFast := by
  funext m a n
  by_cases h : SMap.rising m
  · simp only [Mem.readFast, h, if_true]
    exact (Mem.walk_eq n m m a 0 h fun _ _ => rfl).symm
  · simp only [Mem.readFast, h]; rfl

/-- A run of bytes written from an address. -/
def Mem.write (m : Mem) (a : Nat) (bs : Bytes) : Mem :=
  match bs with
  | [] => m
  | b :: r => Mem.write (Mem.set m a b) (a + 1) r

/-- Bytes written where the map is true. -/
def Mem.writeMapped (m : Mem) (a : Nat) (bs : Bytes) (map : List Bool) : Mem :=
  match bs, map with
  | b :: r, c :: cs => Mem.writeMapped (if c then Mem.set m a b else m) (a + 1) r cs
  | _, _ => m

/-- A run of one byte value. -/
def Mem.fill (m : Mem) (a n : Nat) (b : Byte) : Mem := Mem.write m a (List.replicate n b)

/-- The entries below, within and above a range: only those outside it. -/
def Mem.clear (m : Mem) (a n : Nat) : Mem := m.filter fun c => c.1 < a || a + n ≤ c.1

/-- The entries of a range, moved to address 0. -/
def Mem.slice (m : Mem) (a n : Nat) : Mem := (m.filter fun c => a ≤ c.1 && c.1 < a + n).map fun c => (c.1 - a, c.2)

/-- Little-endian value of bytes (R4). -/
def leNat (bs : Bytes) : Nat := bs.foldr (fun b n => n * 256 + b.toNat) 0

/-- The `n` little-endian bytes of a value (R4). -/
def natLe (n x : Nat) : Bytes :=
  match n with
  | 0 => []
  | n + 1 => BitVec.ofNat 8 x :: natLe n (x / 256)

/-- A little-endian number in a byte list at an offset. -/
def fieldLe (bs : Bytes) (off n : Nat) : Nat := leNat ((bs.drop off).take n)

/-- A little-endian signed number in a byte list. -/
def fieldLeS (bs : Bytes) (off n : Nat) : Int :=
  let x := fieldLe bs off n
  if 2 ^ (8 * n - 1) ≤ x then (x : Int) - 2 ^ (8 * n) else x

/-- The elements of `w` bits of a value, ascending (R130). -/
def unpackN (w n x : Nat) : List Nat :=
  match n with
  | 0 => []
  | n + 1 => x % 2 ^ w :: unpackN w n (x / 2 ^ w)

/-- The value of elements of `w` bits, ascending (R130). -/
def packN (w : Nat) (xs : List Nat) : Nat := xs.foldr (fun x acc => acc * 2 ^ w + x % 2 ^ w) 0

/-- Bits [hi:lo] of a number, as the manual writes bits(x, hi, lo). -/
def bitsN (x hi lo : Nat) : Nat := x / 2 ^ lo % 2 ^ (hi + 1 - lo)

/-- Vector of 512 bytes. -/
def vecOfBytes (bs : Bytes) : Vec := BitVec.ofNat 4096 (leNat bs)
/-- The 512 bytes of a vector. -/
def bytesOfVec (v : Vec) : Bytes := natLe 512 v.toNat

end Sys2Proof
end

