-- ==== Sys2Proof/Machine/Crypto.lean ====
section
/-! DEFINITION. The ciphers and digests that the spec names: SHA-256 and its HMAC and HKDF (R225, R400), AES-256 with XTS
(R217), GCM (R391) and key wrap (Table 18.6), and CRC-32C (Table 17.2), each as its own standard defines it. -/

namespace Sys2Proof

/-- Big-endian value of bytes. -/
def beNat (bs : Bytes) : Nat := bs.foldl (fun n b => n * 256 + b.toNat) 0
/-- The `n` big-endian bytes of a value. -/
def natBe (n x : Nat) : Bytes := (natLe n x).reverse
/-- Bytes combined by exclusive or. -/
def xorBytes (a b : Bytes) : Bytes := List.zipWith (· ^^^ ·) a b
/-- Pieces of `n` bytes, the last may be short. -/
def chunksOf (n : Nat) : Nat → Bytes → List Bytes
  | 0, _ => []
  | fuel + 1, bs => if bs.isEmpty then [] else bs.take n :: chunksOf n fuel (bs.drop n)
/-- All pieces of `n` bytes. -/
def chunks (n : Nat) (bs : Bytes) : List Bytes := chunksOf n bs.length bs
/-- The ASCII bytes of a text. -/
def ascii (t : String) : Bytes := t.toList.map fun c => BitVec.ofNat 8 c.toNat

/-! ### SHA-256 -/

/-- The first 32 bits of the fractional part of a root of `p`: `k` = 2 or 3, by search on 33 bits beyond the integer part. -/
def rootFrac (k p : Nat) : Word32 :=
  let r := (List.range 37).foldl (fun r j => let r' := r + 2 ^ (36 - j); if r' ^ k ≤ p * 2 ^ (32 * k) then r' else r) 0
  BitVec.ofNat 32 r

/-- The first 64 primes. -/
def primes64 : List Nat :=
  [2, 3, 5, 7, 11, 13, 17, 19, 23, 29, 31, 37, 41, 43, 47, 53, 59, 61, 67, 71, 73, 79, 83, 89, 97, 101, 103, 107, 109,
   113, 127, 131] ++
  [137, 139, 149, 151, 157, 163, 167, 173, 179, 181, 191, 193, 197, 199, 211, 223, 227, 229, 233, 239, 241, 251, 257,
   263, 269, 271, 277, 281, 283, 293, 307, 311]

/-- The round constants of SHA-256. -/
def shaK : List Word32 := primes64.map (rootFrac 3)
/-- The initial hash value. -/
def shaInit : List Word32 := (primes64.take 8).map (rootFrac 2)

/-- The message schedule, `fuel` words appended. The list holds the latest 16 words, the oldest first. -/
def shaSchedule : Nat → List Word32 → List Word32
  | 0, _ => []
  | fuel + 1, ws =>
    let w0 := ws.getD 0 0
    let w1 := ws.getD 1 0
    let w9 := ws.getD 9 0
    let w14 := ws.getD 14 0
    let s0 := w1.rotateRight 7 ^^^ w1.rotateRight 18 ^^^ (w1 >>> 3)
    let s1 := w14.rotateRight 17 ^^^ w14.rotateRight 19 ^^^ (w14 >>> 10)
    w0 :: shaSchedule fuel (ws.drop 1 ++ [w0 + s0 + w9 + s1])

/-- One round. -/
def shaRound (st : List Word32) (kw : Word32 × Word32) : List Word32 :=
  match st with
  | [a, b, c, d, e, f, g, h] =>
    let s1 := e.rotateRight 6 ^^^ e.rotateRight 11 ^^^ e.rotateRight 25
    let t1 := h + s1 + ((e &&& f) ^^^ (~~~e &&& g)) + kw.1 + kw.2
    let s0 := a.rotateRight 2 ^^^ a.rotateRight 13 ^^^ a.rotateRight 22
    let t2 := s0 + ((a &&& b) ^^^ (a &&& c) ^^^ (b &&& c))
    [t1 + t2, a, b, c, d + t1, e, f, g]
  | st => st

/-- One 64-byte block. -/
def shaBlock (st : List Word32) (blk : Bytes) : List Word32 :=
  let ws := (chunks 4 blk).map fun x => BitVec.ofNat 32 (beNat x)
  List.zipWith (· + ·) st ((shaK.zip (shaSchedule 64 ws)).foldl shaRound st)

/-- The end of a message of `len` bytes whose last, incomplete block is `tail`. -/
def shaFinish (st : List Word32) (tail : Bytes) (len : Nat) : Bytes :=
  let pad := tail ++ [0x80#8] ++ List.replicate ((119 - tail.length) % 64) 0 ++ natBe 8 (8 * len)
  ((chunks 64 pad).foldl shaBlock st).flatMap fun w => natBe 4 w.toNat

/-- SHA-256. -/
def sha256 (m : Bytes) : Bytes :=
  let full := m.length / 64 * 64
  shaFinish ((chunks 64 (m.take full)).foldl shaBlock shaInit) (m.drop full) m.length

/-- The inner or outer key block of HMAC. -/
def hmacPad (key : Bytes) (c : Byte) : Bytes :=
  let k := if 64 < key.length then sha256 key else key
  (k ++ List.replicate (64 - k.length) 0).map (· ^^^ c)
/-- HMAC-SHA-256. -/
def hmac (key m : Bytes) : Bytes := sha256 (hmacPad key 0x5C ++ sha256 (hmacPad key 0x36 ++ m))

/-- The blocks of HKDF's expansion. -/
def hkdfBlocks (prk info : Bytes) : Nat → Nat → Bytes → Bytes
  | 0, _, _ => []
  | fuel + 1, i, prev =>
    let t := hmac prk (prev ++ info ++ [BitVec.ofNat 8 i])
    t ++ hkdfBlocks prk info fuel (i + 1) t
/-- HKDF-SHA-256 (RFC 5869): `n` bytes. -/
def hkdf (ikm salt info : Bytes) (n : Nat) : Bytes :=
  let prk := hmac (if salt.isEmpty then List.replicate 32 0 else salt) ikm
  (hkdfBlocks prk info ((n + 31) / 32) 1 []).take n

/-! ### AES-256 -/

/-- Multiplication by x in AES's field. -/
def xtime (b : Byte) : Byte := (b <<< 1) ^^^ (if b.msb then 0x1B#8 else 0)
/-- Multiplication in AES's field. -/
def gfMul (a b : Byte) : Byte :=
  ((List.range 8).foldl (fun (s : Byte × Byte) j => (if b.getLsbD j then s.1 ^^^ s.2 else s.1, xtime s.2)) (0, a)).1
/-- The inverse in AES's field, b^254. -/
def gfInv (b : Byte) : Byte :=
  ((List.range 7).foldl (fun (s : Byte × Byte) _ => let q := gfMul s.2 s.2; (gfMul s.1 q, q)) (1, b)).1
/-- The S-box. -/
def sboxOf (b : Byte) : Byte :=
  let i := gfInv b
  i ^^^ i.rotateLeft 1 ^^^ i.rotateLeft 2 ^^^ i.rotateLeft 3 ^^^ i.rotateLeft 4 ^^^ 0x63#8
/-- The S-box as a table. -/
def sboxTable : List Byte := (List.range 256).map fun b => sboxOf (BitVec.ofNat 8 b)
/-- The S-box, looked up. -/
def sbox (b : Byte) : Byte := sboxTable.getD b.toNat 0
/-- The inverse S-box as a table. -/
def invSboxTable : List Byte := (List.range 256).map fun b => BitVec.ofNat 8 (sboxTable.findIdx fun x => x.toNat == b)
/-- The inverse S-box, looked up. -/
def invSbox (b : Byte) : Byte := invSboxTable.getD b.toNat 0

/-- The key schedule's words, newest first, from the eight words of the key. -/
def aesExpand : Nat → Nat → Byte → List Bytes → List Bytes
  | 0, _, _, ws => ws
  | fuel + 1, i, rc, ws =>
    let t := ws.getD 0 []
    let u := if i % 8 == 0 then xorBytes ((t.drop 1 ++ t.take 1).map sbox) [rc, 0, 0, 0]
      else if i % 8 == 4 then t.map sbox else t
    aesExpand fuel (i + 1) (if i % 8 == 0 then xtime rc else rc) (xorBytes (ws.getD 7 []) u :: ws)
/-- The fifteen round keys of a 256-bit key. -/
def aesKeys (key : Bytes) : List Bytes := chunks 16 ((aesExpand 52 8 1 (chunks 4 key).reverse).reverse.flatten)

/-- ShiftRows, by columns of four bytes; `d` is 1, or 3 for the inverse. -/
def shiftRows (d : Nat) (st : Bytes) : Bytes := (List.range 16).map fun j => st.getD ((j + 4 * (d * (j % 4))) % 16) 0
/-- MixColumns with the coefficients of one row. -/
def mixColumns (cs : List Byte) (st : Bytes) : Bytes :=
  (List.range 16).map fun j => (List.range 4).foldl
    (fun a k => a ^^^ gfMul (cs.getD ((k + 4 - j % 4) % 4) 0) (st.getD (j / 4 * 4 + k) 0)) 0
/-- One block enciphered. -/
def aesEnc (key blk : Bytes) : Bytes :=
  match aesKeys key with
  | [] => blk
  | k0 :: ks =>
    let st := (ks.take 13).foldl
      (fun st k => xorBytes (mixColumns [2, 3, 1, 1] (shiftRows 1 (st.map sbox))) k) (xorBytes blk k0)
    xorBytes (shiftRows 1 (st.map sbox)) (ks.getD 13 [])
/-- One block deciphered. -/
def aesDec (key blk : Bytes) : Bytes :=
  match (aesKeys key).reverse with
  | [] => blk
  | k0 :: ks =>
    let st := (ks.take 13).foldl
      (fun st k => mixColumns [14, 11, 13, 9] (xorBytes ((shiftRows 3 st).map invSbox) k)) (xorBytes blk k0)
    xorBytes ((shiftRows 3 st).map invSbox) (ks.getD 13 [])

/-- Multiplication of an XTS tweak by α. -/
def xtsNext (t : Bytes) : Bytes :=
  let x := leNat t * 2
  natLe 16 (Nat.xor (x % 2 ^ 128) (if 2 ^ 128 ≤ x then 0x87 else 0))
/-- The blocks of a data unit under successive tweaks. -/
def xtsBlocks (f : Bytes → Bytes) : Bytes → List Bytes → Bytes
  | _, [] => []
  | t, b :: r => xorBytes t (f (xorBytes t b)) ++ xtsBlocks f (xtsNext t) r
/-- AES-256-XTS on a data unit of whole blocks: `keys` is the pair, 64 bytes, and `unit` the data unit number. -/
def xts (enc : Bool) (keys : Bytes) (unit : Nat) (bs : Bytes) : Bytes :=
  let k1 := keys.take 32
  xtsBlocks (if enc then aesEnc k1 else aesDec k1) (aesEnc (keys.drop 32) (natLe 16 unit)) (chunks 16 bs)

/-! ### GCM -/

/-- Multiplication in GCM's field: bit 127 is the coefficient of x^0. -/
def ghashMul (a b : Nat) : Nat :=
  ((List.range 128).foldl (fun (s : Nat × Nat) j =>
    (if a.testBit (127 - j) then Nat.xor s.1 s.2 else s.1,
     Nat.xor (s.2 / 2) (if s.2 % 2 == 1 then 0xE1 * 2 ^ 120 else 0))) (0, b)).1
/-- Zero bytes up to a block. -/
def pad16 (bs : Bytes) : Bytes := bs ++ List.replicate ((16 - bs.length % 16) % 16) 0
/-- The tag of a ciphertext under a 96-bit nonce. -/
def gcmTag (key nonce aad ct : Bytes) : Bytes :=
  let h := beNat (aesEnc key (List.replicate 16 0))
  let m := pad16 aad ++ pad16 ct ++ natBe 8 (8 * aad.length) ++ natBe 8 (8 * ct.length)
  let g := (chunks 16 m).foldl (fun y b => ghashMul (Nat.xor y (beNat b)) h) 0
  xorBytes (natBe 16 g) (aesEnc key (nonce ++ natBe 4 1))
/-- GCM's counter mode, which both enciphers and deciphers. -/
def gcmCrypt (key nonce bs : Bytes) : Bytes :=
  let cs := chunks 16 bs
  ((cs.zip (List.range cs.length)).flatMap fun x => xorBytes x.1 (aesEnc key (nonce ++ natBe 4 (x.2 + 2))))

/-! ### Key wrap (RFC 3394) -/

/-- The initial value. -/
def wrapIv : Bytes := List.replicate 8 0xA6
/-- The steps of wrapping, over registers A and R. -/
def wrapSteps (kek : Bytes) (n : Nat) : List Nat → Bytes × List Bytes → Bytes × List Bytes
  | [], s => s
  | t :: ts, (a, rs) =>
    let b := aesEnc kek (a ++ rs.getD (t % n) [])
    wrapSteps kek n ts (xorBytes (b.take 8) (natBe 8 (t + 1)), rs.set (t % n) (b.drop 8))
/-- AES key wrap. -/
def keyWrap (kek key : Bytes) : Bytes :=
  let rs := chunks 8 key
  let r := wrapSteps kek rs.length (List.range (6 * rs.length)) (wrapIv, rs)
  r.1 ++ r.2.flatten
/-- The steps of unwrapping. -/
def unwrapSteps (kek : Bytes) (n : Nat) : List Nat → Bytes × List Bytes → Bytes × List Bytes
  | [], s => s
  | t :: ts, (a, rs) =>
    let b := aesDec kek (xorBytes a (natBe 8 (t + 1)) ++ rs.getD (t % n) [])
    unwrapSteps kek n ts (b.take 8, rs.set (t % n) (b.drop 8))
/-- AES key unwrap: none when its check fails. -/
def keyUnwrap (kek w : Bytes) : Option Bytes :=
  match chunks 8 w with
  | [] => none
  | a :: rs =>
    let r := unwrapSteps kek rs.length (List.range (6 * rs.length)).reverse (a, rs)
    if r.1 == wrapIv then some r.2.flatten else none

/-! ### CRC-32C -/

/-- CRC-32C with reflected polynomial 0x82F63B78. -/
def crc32c (bs : Bytes) : Word32 :=
  ~~~(bs.foldl (fun (c : Word32) b =>
    (List.range 8).foldl (fun c _ => (c >>> 1) ^^^ (if c.getLsbD 0 then 0x82F63B78#32 else 0)) (c ^^^ b.setWidth 32))
    0xFFFFFFFF#32)

end Sys2Proof
end

