-- ==== Sys2Proof/Syntax.lean ====
section
/-! DEFINITION. The instruction set as syntax: one constructor of `Instr` per row of spec/opcode_table.json.
A row with an encoding carries that encoding's fields; an event, verb or message carries what the spec says it names.
The unit (core, stack, port) that a step concerns is not written in its row: it is the state's `unit` (log 10). -/

namespace Sys2Proof

/-- The steps of the N9, one constructor per row of spec/opcode_table.json: first the rows
that have an encoding or stand for encoded words, then events, verbs and messages, each group in the table's order. -/
inductive Instr where
  /-- R54. Index 0x0000 issues an empty bundle in which no word takes effect, for one cycle. -/
  | emptyBundle
  /-- R54. An index 0x0001–0x1FFF issues that entry of the cluster's code dictionary, and every instruction of the bundle issues in that cycle. -/
  | dictionaryBundle (entry : BitVec 13)
  /-- R55. An idle-run index issues empty bundles for 2–64 cycles, and each of its cycles is a bundle boundary. -/
  | idleRun (n : Nat)
  /-- R56. An escape index issues the literal bundle carried in the next 24 positions, after validating it. -/
  | literalBundle
  /-- R63. A prefix word modifies the next instruction with rounding, saturation, immediate extension, a guard or a tag check. -/
  | pfx (i : BitVec 12) (e : BitVec 1) (v : BitVec 1) (p : BitVec 6) (t : BitVec 1) (s : BitVec 2) (a : BitVec 1) (r : BitVec 1) (m : BitVec 3) (x : BitVec 1)
  /-- R109. Adds two scalars modulo 2^64, or with .i64 saturation. -/
  | add (b : BitVec 6) (a : BitVec 6) (d : BitVec 6)
  /-- R109. Subtracts two scalars modulo 2^64, or with saturation. -/
  | sub (b : BitVec 6) (a : BitVec 6) (d : BitVec 6)
  /-- R109. Adds the low 32 bits and sign-extends the result. -/
  | addx (b : BitVec 6) (a : BitVec 6) (d : BitVec 6)
  /-- R109. Subtracts the low 32 bits and sign-extends the result. -/
  | subx (b : BitVec 6) (a : BitVec 6) (d : BitVec 6)
  /-- R109. Bitwise and of two scalars. -/
  | and (b : BitVec 6) (a : BitVec 6) (d : BitVec 6)
  /-- R109. Bitwise or of two scalars. -/
  | or (b : BitVec 6) (a : BitVec 6) (d : BitVec 6)
  /-- R109. Bitwise exclusive or of two scalars. -/
  | xor (b : BitVec 6) (a : BitVec 6) (d : BitVec 6)
  /-- R109. Computes a and not b. -/
  | andn (b : BitVec 6) (a : BitVec 6) (d : BitVec 6)
  /-- R109. Shifts left by the low six bits of b. -/
  | shl (b : BitVec 6) (a : BitVec 6) (d : BitVec 6)
  /-- R109. Shifts right logically by the low six bits of b. -/
  | shr (b : BitVec 6) (a : BitVec 6) (d : BitVec 6)
  /-- R109. Shifts right arithmetically by the low six bits of b. -/
  | sar (b : BitVec 6) (a : BitVec 6) (d : BitVec 6)
  /-- R109. Rotates left by the low six bits of b. -/
  | rol (b : BitVec 6) (a : BitVec 6) (d : BitVec 6)
  /-- R109. Rotates right by the low six bits of b. -/
  | ror (b : BitVec 6) (a : BitVec 6) (d : BitVec 6)
  /-- R109. Signed minimum of two scalars. -/
  | min (b : BitVec 6) (a : BitVec 6) (d : BitVec 6)
  /-- R109. Signed maximum of two scalars. -/
  | max (b : BitVec 6) (a : BitVec 6) (d : BitVec 6)
  /-- R109. Unsigned minimum of two scalars. -/
  | minn (b : BitVec 6) (a : BitVec 6) (d : BitVec 6)
  /-- R109. Unsigned maximum of two scalars. -/
  | maxn (b : BitVec 6) (a : BitVec 6) (d : BitVec 6)
  /-- R109. Adds a sign-extended immediate to a scalar. -/
  | addi (i : BitVec 12) (a : BitVec 6) (d : BitVec 6)
  /-- R109. Bitwise and with an immediate. -/
  | andi (i : BitVec 12) (a : BitVec 6) (d : BitVec 6)
  /-- R109. Bitwise or with an immediate. -/
  | ori (i : BitVec 12) (a : BitVec 6) (d : BitVec 6)
  /-- R109. Bitwise exclusive or with an immediate. -/
  | xori (i : BitVec 12) (a : BitVec 6) (d : BitVec 6)
  /-- R109. Shifts left by an immediate amount. -/
  | shli (n : BitVec 6) (a : BitVec 6) (d : BitVec 6)
  /-- R109. Shifts right logically by an immediate amount. -/
  | shri (n : BitVec 6) (a : BitVec 6) (d : BitVec 6)
  /-- R109. Shifts right arithmetically by an immediate amount. -/
  | sari (n : BitVec 6) (a : BitVec 6) (d : BitVec 6)
  /-- R109. Multiplies two scalars modulo 2^64, or with saturation, with latency 3. -/
  | mul (b : BitVec 6) (a : BitVec 6) (d : BitVec 6)
  /-- R109. Gives the high 64 bits of the signed product. -/
  | mulh (b : BitVec 6) (a : BitVec 6) (d : BitVec 6)
  /-- R109. Gives the high 64 bits of the unsigned product. -/
  | mulhn (b : BitVec 6) (a : BitVec 6) (d : BitVec 6)
  /-- R29. Signed division, with the corner results of Table 2.2 and latency 20. -/
  | divs (b : BitVec 6) (a : BitVec 6) (d : BitVec 6)
  /-- R29. Unsigned division, with the corner results of Table 2.2. -/
  | divn (b : BitVec 6) (a : BitVec 6) (d : BitVec 6)
  /-- R29. Signed remainder. -/
  | rems (b : BitVec 6) (a : BitVec 6) (d : BitVec 6)
  /-- R29. Unsigned remainder. -/
  | remn (b : BitVec 6) (a : BitVec 6) (d : BitVec 6)
  /-- R30. Counts the leading zeros of a 64-bit scalar. -/
  | clz (a : BitVec 6) (d : BitVec 6)
  /-- R30. Counts the trailing zeros of a 64-bit scalar. -/
  | ctz (a : BitVec 6) (d : BitVec 6)
  /-- R30. Gives the 1-based position of the lowest set bit. -/
  | ffs (a : BitVec 6) (d : BitVec 6)
  /-- R30. Counts the set bits. -/
  | popc (a : BitVec 6) (d : BitVec 6)
  /-- R109. Extracts a bit field. -/
  | extb (l : BitVec 6) (p : BitVec 6) (a : BitVec 6) (d : BitVec 6)
  /-- R109. Inserts a bit field into the destination. -/
  | insb (l : BitVec 6) (p : BitVec 6) (a : BitVec 6) (d : BitVec 6)
  /-- R110. Moves an immediate into a scalar. -/
  | movi (i : BitVec 18) (d : BitVec 6)
  /-- R110. Shifts the destination left by 30 and fills the low bits from the immediate. -/
  | movhi (i : BitVec 18) (d : BitVec 6)
  /-- R111. Selects a or b by a predicate. -/
  | sel (p : BitVec 6) (b : BitVec 6) (a : BitVec 6) (d : BitVec 6)
  /-- R111. Compares two scalars and writes a predicate. -/
  | cmp (c : BitVec 4) (b : BitVec 6) (a : BitVec 6) (p : BitVec 6)
  /-- R111. Compares a scalar with an immediate and writes a predicate. -/
  | cmpi (c : BitVec 4) (i : BitVec 8) (a : BitVec 6) (p : BitVec 6)
  /-- R112. Computes the Montgomery product under QMOD and QINV. -/
  | mulmod (b : BitVec 6) (a : BitVec 6) (d : BitVec 6)
  /-- R112. Computes the modular sum. -/
  | addmod (b : BitVec 6) (a : BitVec 6) (d : BitVec 6)
  /-- R112. Builds a tagged pointer from a space and rank and an offset. -/
  | tagp (b : BitVec 6) (a : BitVec 6) (d : BitVec 6)
  /-- R111. Conjunction of two predicates. -/
  | pand (b : BitVec 6) (a : BitVec 6) (d : BitVec 6)
  /-- R111. Disjunction of two predicates. -/
  | por (b : BitVec 6) (a : BitVec 6) (d : BitVec 6)
  /-- R111. Exclusive disjunction of two predicates. -/
  | pxor (b : BitVec 6) (a : BitVec 6) (d : BitVec 6)
  /-- R111. Complement of a predicate. -/
  | pnot (a : BitVec 6) (d : BitVec 6)
  /-- R117. Timed scalar load from the core's own scratchpad, readable after 4 cycles. -/
  | lds (i : BitVec 8) (w : BitVec 3) (a : BitVec 6) (d : BitVec 6)
  /-- R117. Timed scalar store to the core's own scratchpad, performing after 2 cycles. -/
  | sts (i : BitVec 8) (w : BitVec 3) (a : BitVec 6) (d : BitVec 6)
  /-- R118. Split-phase service load that lands in a tagged scratchpad granule. -/
  | ldg (i : BitVec 8) (o : BitVec 1) (w : BitVec 3) (a : BitVec 6) (d : BitVec 6)
  /-- R118. Split-phase service store that performs in a service window. -/
  | stg (i : BitVec 8) (o : BitVec 1) (w : BitVec 3) (a : BitVec 6) (d : BitVec 6)
  /-- R121. Branches to T after three delay bundles. -/
  | br (t : BitVec 17)
  /-- R123. Closes a software-pipelined loop: it counts, rotates the registers and branches. -/
  | loopb (t : BitVec 17)
  /-- R121. Conditional branch on a predicate, optionally inverted. -/
  | brc (t : BitVec 17) (c : BitVec 1) (p : BitVec 6)
  /-- R121. Branches and writes the link position. -/
  | call (t : BitVec 17) (p : BitVec 6)
  /-- R121. Transfers to the position a + imm. -/
  | ret (i : BitVec 12) (a : BitVec 6)
  /-- R122. Sets LC and the stage predicates for a pipelined loop. -/
  | loopset (d : BitVec 5) (a : BitVec 6)
  /-- R124. Checks that the issue cycle relative to S equals a + imm, else 0x10. -/
  | tchk (i : BitVec 12) (a : BitVec 6)
  /-- R125. Ends the tile task after its bundle. -/
  | halt
  /-- R126. Raises software trap 0x00 with a code and stops the die after the bundle. -/
  | trap (i : BitVec 12) (a : BitVec 6)
  /-- R143. Elementwise vector add, floating or integer, unmasked. -/
  | vadd (b : BitVec 6) (a : BitVec 6) (d : BitVec 6) (f : BitVec 6)
  /-- R143. Elementwise vector multiply, unmasked. -/
  | vmul (b : BitVec 6) (a : BitVec 6) (d : BitVec 6) (f : BitVec 6)
  /-- R143. Elementwise vector subtract, unmasked. -/
  | vsub (b : BitVec 6) (a : BitVec 6) (d : BitVec 6) (f : BitVec 6)
  /-- R143. Elementwise minimum, unmasked. -/
  | vmin (b : BitVec 6) (a : BitVec 6) (d : BitVec 6) (f : BitVec 6)
  /-- R143. Elementwise maximum, unmasked. -/
  | vmax (b : BitVec 6) (a : BitVec 6) (d : BitVec 6) (f : BitVec 6)
  /-- R143. Fused multiply-add x·y + z, in the fused slot, unmasked. -/
  | vfma (b : BitVec 6) (a : BitVec 6) (d : BitVec 6) (f : BitVec 6)
  /-- R143. Fused multiply-subtract x·y − z, unmasked. -/
  | vfms (b : BitVec 6) (a : BitVec 6) (d : BitVec 6) (f : BitVec 6)
  /-- R135. Two-word masked form of VADD. -/
  | vaddMasked (b : BitVec 6) (a : BitVec 6) (d : BitVec 6) (f : BitVec 6) (k : BitVec 4) (zm : BitVec 1)
  /-- R135. Two-word masked form of VMUL. -/
  | vmulMasked (b : BitVec 6) (a : BitVec 6) (d : BitVec 6) (f : BitVec 6) (k : BitVec 4) (zm : BitVec 1)
  /-- R135. Two-word masked form of VSUB. -/
  | vsubMasked (b : BitVec 6) (a : BitVec 6) (d : BitVec 6) (f : BitVec 6) (k : BitVec 4) (zm : BitVec 1)
  /-- R135. Two-word masked form of VMIN. -/
  | vminMasked (b : BitVec 6) (a : BitVec 6) (d : BitVec 6) (f : BitVec 6) (k : BitVec 4) (zm : BitVec 1)
  /-- R135. Two-word masked form of VMAX. -/
  | vmaxMasked (b : BitVec 6) (a : BitVec 6) (d : BitVec 6) (f : BitVec 6) (k : BitVec 4) (zm : BitVec 1)
  /-- R135. Two-word masked form of VFMA. -/
  | vfmaMasked (b : BitVec 6) (a : BitVec 6) (d : BitVec 6) (f : BitVec 6) (k : BitVec 4) (zm : BitVec 1)
  /-- R135. Two-word masked form of VFMS. -/
  | vfmsMasked (b : BitVec 6) (a : BitVec 6) (d : BitVec 6) (f : BitVec 6) (k : BitVec 4) (zm : BitVec 1)
  /-- R145. Elementwise absolute value, unmasked. -/
  | vabs (a : BitVec 6) (d : BitVec 6) (f : BitVec 6)
  /-- R145. Elementwise negation, unmasked. -/
  | vneg (a : BitVec 6) (d : BitVec 6) (f : BitVec 6)
  /-- R146. Elementwise 2^x rounded once. -/
  | vexp2 (a : BitVec 6) (d : BitVec 6) (f : BitVec 6)
  /-- R146. Elementwise log2 x rounded once. -/
  | vlog2 (a : BitVec 6) (d : BitVec 6) (f : BitVec 6)
  /-- R146. Elementwise reciprocal. -/
  | vrcp (a : BitVec 6) (d : BitVec 6) (f : BitVec 6)
  /-- R146. Elementwise reciprocal square root. -/
  | vrsq (a : BitVec 6) (d : BitVec 6) (f : BitVec 6)
  /-- R146. Elementwise square root. -/
  | vsqrt (a : BitVec 6) (d : BitVec 6) (f : BitVec 6)
  /-- R146. Elementwise hyperbolic tangent. -/
  | vtanh (a : BitVec 6) (d : BitVec 6) (f : BitVec 6)
  /-- R146. Elementwise logistic sigmoid. -/
  | vsigm (a : BitVec 6) (d : BitVec 6) (f : BitVec 6)
  /-- R145. Elementwise bit inversion. -/
  | vnot (a : BitVec 6) (d : BitVec 6) (f : BitVec 6)
  /-- R145. Elementwise leading-zero count. -/
  | vclz (a : BitVec 6) (d : BitVec 6) (f : BitVec 6)
  /-- R145. Elementwise find-first-set. -/
  | vffs (a : BitVec 6) (d : BitVec 6) (f : BitVec 6)
  /-- R145. Elementwise population count. -/
  | vpopc (a : BitVec 6) (d : BitVec 6) (f : BitVec 6)
  /-- R135. Two-word masked form of VABS. -/
  | vabsMasked (a : BitVec 6) (d : BitVec 6) (f : BitVec 6) (k : BitVec 4) (zm : BitVec 1)
  /-- R135. Two-word masked form of VNEG. -/
  | vnegMasked (a : BitVec 6) (d : BitVec 6) (f : BitVec 6) (k : BitVec 4) (zm : BitVec 1)
  /-- R135. Two-word masked form of VEXP2. -/
  | vexp2Masked (a : BitVec 6) (d : BitVec 6) (f : BitVec 6) (k : BitVec 4) (zm : BitVec 1)
  /-- R135. Two-word masked form of VLOG2. -/
  | vlog2Masked (a : BitVec 6) (d : BitVec 6) (f : BitVec 6) (k : BitVec 4) (zm : BitVec 1)
  /-- R135. Two-word masked form of VRCP. -/
  | vrcpMasked (a : BitVec 6) (d : BitVec 6) (f : BitVec 6) (k : BitVec 4) (zm : BitVec 1)
  /-- R135. Two-word masked form of VRSQ. -/
  | vrsqMasked (a : BitVec 6) (d : BitVec 6) (f : BitVec 6) (k : BitVec 4) (zm : BitVec 1)
  /-- R135. Two-word masked form of VSQRT. -/
  | vsqrtMasked (a : BitVec 6) (d : BitVec 6) (f : BitVec 6) (k : BitVec 4) (zm : BitVec 1)
  /-- R135. Two-word masked form of VTANH. -/
  | vtanhMasked (a : BitVec 6) (d : BitVec 6) (f : BitVec 6) (k : BitVec 4) (zm : BitVec 1)
  /-- R135. Two-word masked form of VSIGM. -/
  | vsigmMasked (a : BitVec 6) (d : BitVec 6) (f : BitVec 6) (k : BitVec 4) (zm : BitVec 1)
  /-- R135. Two-word masked form of VNOT. -/
  | vnotMasked (a : BitVec 6) (d : BitVec 6) (f : BitVec 6) (k : BitVec 4) (zm : BitVec 1)
  /-- R135. Two-word masked form of VCLZ. -/
  | vclzMasked (a : BitVec 6) (d : BitVec 6) (f : BitVec 6) (k : BitVec 4) (zm : BitVec 1)
  /-- R135. Two-word masked form of VFFS. -/
  | vffsMasked (a : BitVec 6) (d : BitVec 6) (f : BitVec 6) (k : BitVec 4) (zm : BitVec 1)
  /-- R135. Two-word masked form of VPOPC. -/
  | vpopcMasked (a : BitVec 6) (d : BitVec 6) (f : BitVec 6) (k : BitVec 4) (zm : BitVec 1)
  /-- R147. Elementwise and. -/
  | vand (b : BitVec 6) (a : BitVec 6) (d : BitVec 6) (w : BitVec 3)
  /-- R147. Elementwise or. -/
  | vor (b : BitVec 6) (a : BitVec 6) (d : BitVec 6) (w : BitVec 3)
  /-- R147. Elementwise exclusive or. -/
  | vxor (b : BitVec 6) (a : BitVec 6) (d : BitVec 6) (w : BitVec 3)
  /-- R147. Elementwise shift left. -/
  | vshl (b : BitVec 6) (a : BitVec 6) (d : BitVec 6) (w : BitVec 3)
  /-- R147. Elementwise logical shift right. -/
  | vshr (b : BitVec 6) (a : BitVec 6) (d : BitVec 6) (w : BitVec 3)
  /-- R147. Elementwise arithmetic shift right. -/
  | vsar (b : BitVec 6) (a : BitVec 6) (d : BitVec 6) (w : BitVec 3)
  /-- R135. Two-word masked form of VAND. -/
  | vandMasked (b : BitVec 6) (a : BitVec 6) (d : BitVec 6) (w : BitVec 3) (k : BitVec 4) (zm : BitVec 1)
  /-- R135. Two-word masked form of VOR. -/
  | vorMasked (b : BitVec 6) (a : BitVec 6) (d : BitVec 6) (w : BitVec 3) (k : BitVec 4) (zm : BitVec 1)
  /-- R135. Two-word masked form of VXOR. -/
  | vxorMasked (b : BitVec 6) (a : BitVec 6) (d : BitVec 6) (w : BitVec 3) (k : BitVec 4) (zm : BitVec 1)
  /-- R135. Two-word masked form of VSHL. -/
  | vshlMasked (b : BitVec 6) (a : BitVec 6) (d : BitVec 6) (w : BitVec 3) (k : BitVec 4) (zm : BitVec 1)
  /-- R135. Two-word masked form of VSHR. -/
  | vshrMasked (b : BitVec 6) (a : BitVec 6) (d : BitVec 6) (w : BitVec 3) (k : BitVec 4) (zm : BitVec 1)
  /-- R135. Two-word masked form of VSAR. -/
  | vsarMasked (b : BitVec 6) (a : BitVec 6) (d : BitVec 6) (w : BitVec 3) (k : BitVec 4) (zm : BitVec 1)
  /-- R148. Compares elements and writes a mask. -/
  | vcmp (b : BitVec 6) (a : BitVec 6) (c : BitVec 4) (k : BitVec 4) (f : BitVec 4)
  /-- R151. Converts elements between formats, unmasked. -/
  | vcvt (s : BitVec 4) (a : BitVec 6) (d : BitVec 6) (f : BitVec 6)
  /-- R152. Quantises rows into a block-scaled format, with scales in vD + 1. -/
  | vqnt (s : BitVec 4) (a : BitVec 6) (d : BitVec 6) (f : BitVec 6)
  /-- R153. Dequantises a block-scaled register pair. -/
  | vdqnt (s : BitVec 4) (a : BitVec 6) (d : BitVec 6) (f : BitVec 6)
  /-- R135. Two-word masked form of VCVT. -/
  | vcvtMasked (s : BitVec 4) (a : BitVec 6) (d : BitVec 6) (f : BitVec 6) (k : BitVec 4) (zm : BitVec 1)
  /-- R152. Two-word masked form of VQNT. -/
  | vqntMasked (s : BitVec 4) (a : BitVec 6) (d : BitVec 6) (f : BitVec 6) (k : BitVec 4) (zm : BitVec 1)
  /-- R135. Two-word masked form of VDQNT. -/
  | vdqntMasked (s : BitVec 4) (a : BitVec 6) (d : BitVec 6) (f : BitVec 6) (k : BitVec 4) (zm : BitVec 1)
  /-- R155. Transposes the tile under VSH. -/
  | vtrn (a : BitVec 6) (d : BitVec 6) (w : BitVec 3)
  /-- R156. Permutes elements by an index vector. -/
  | vshuf (b : BitVec 6) (a : BitVec 6) (d : BitVec 6) (w : BitVec 3)
  /-- R157. Broadcasts a scalar to every element. -/
  | vbcst (a : BitVec 6) (d : BitVec 6) (w : BitVec 3)
  /-- R158. Pops one vector from a stream into a register. -/
  | vmovs (n : BitVec 3) (d : BitVec 6)
  /-- R157. Inserts a scalar into one element. -/
  | vins (b : BitVec 6) (a : BitVec 6) (d : BitVec 6) (w : BitVec 3)
  /-- R154. Reduces along the rows or columns of the shape. -/
  | vred (o : BitVec 2) (m : BitVec 1) (a : BitVec 6) (d : BitVec 6) (f : BitVec 6)
  /-- R149. Selects elements by a mask. -/
  | vsel (b : BitVec 6) (a : BitVec 6) (d : BitVec 6) (k : BitVec 4) (w : BitVec 2)
  /-- R161. Vector load from scratchpad, decoded by the bank format. -/
  | vld (o : BitVec 6) (a : BitVec 6) (d : BitVec 6)
  /-- R161. Vector store to scratchpad, narrowed by the bank format, performing after 3 cycles. -/
  | vst (o : BitVec 6) (a : BitVec 6) (d : BitVec 6)
  /-- R161. Raw 512-byte vector load whatever the bank format. -/
  | vldx (o : BitVec 6) (a : BitVec 6) (d : BitVec 6)
  /-- R163. Elementwise modular add. -/
  | vaddmod (b : BitVec 6) (a : BitVec 6) (d : BitVec 6)
  /-- R163. Elementwise modular subtract. -/
  | vsubmod (b : BitVec 6) (a : BitVec 6) (d : BitVec 6)
  /-- R163. Elementwise Montgomery product. -/
  | vmulmod (b : BitVec 6) (a : BitVec 6) (d : BitVec 6)
  /-- R164. Forward modular butterfly on register pairs. -/
  | vbfly (b : BitVec 5) (a : BitVec 6) (d : BitVec 5)
  /-- R164. Inverse modular butterfly on register pairs. -/
  | vibfly (b : BitVec 5) (a : BitVec 6) (d : BitVec 5)
  /-- R137. And of two masks. -/
  | kand (b : BitVec 4) (a : BitVec 4) (d : BitVec 4)
  /-- R137. Or of two masks. -/
  | kor (b : BitVec 4) (a : BitVec 4) (d : BitVec 4)
  /-- R137. Complement of a mask. -/
  | knot (a : BitVec 4) (d : BitVec 4)
  /-- R137. Copies a mask. -/
  | kmov (a : BitVec 4) (d : BitVec 4)
  /-- R132. Sets VSH.ROWS, or raises 0x19 for a value not permitted. -/
  | vshape (i : BitVec 12) (a : BitVec 6)
  /-- R170. Starts a matrix routine, paired when the unit is armed. -/
  | mcall (r : BitVec 8)
  /-- R171. Writes a matrix parameter register. -/
  | mova (i : BitVec 8) (a : BitVec 6) (d : BitVec 3)
  /-- R189. Seeds the pattern generator and turns seeded mode on. -/
  | mseed (a : BitVec 6)
  /-- R188. Turns seeded mode off and sets the metadata mode. -/
  | mmeta (i : BitVec 8)
  /-- R195. Arms the next MCALL to run paired with a partner cluster. -/
  | mpair (i : BitVec 8) (a : BitVec 6)
  /-- R173. Clears accumulator rows. -/
  | mclr (i : BitVec 8) (a : BitVec 6)
  /-- R169. Loads a routine image into the routine store after checking it. -/
  | mrtld (i : BitVec 8) (a : BitVec 6)
  /-- R191. Reads one accumulator row into a vector register. -/
  | mrdac (a : BitVec 6) (d : BitVec 6)
  /-- R191. Writes a vector register into one accumulator row. -/
  | mwrac (a : BitVec 6) (d : BitVec 6)
  /-- R193. Converts accumulator rows into a scratchpad tensor, one row per cycle. -/
  | mdrain (b : BitVec 6) (a : BitVec 6) (c : BitVec 6) (f : BitVec 6)
  /-- R212. Binds a stream register to a descriptor and base. -/
  | sbind (i : BitVec 12) (a : BitVec 6) (z : BitVec 3)
  /-- R212. Unbinds a stream register. -/
  | sunbind (z : BitVec 3)
  /-- R212. Sets a stream's position. -/
  | sseek (i : BitVec 12) (a : BitVec 6) (z : BitVec 3)
  /-- R213. Writes a stream record to scratchpad and unbinds the register. -/
  | ssave (i : BitVec 12) (a : BitVec 6) (z : BitVec 3)
  /-- R213. Binds a stream register from a stream record. -/
  | sload (i : BitVec 12) (a : BitVec 6) (z : BitVec 3)
  /-- R227. Loads a 128-byte copy descriptor into a slot. -/
  | cpl (c : BitVec 4) (a : BitVec 6)
  /-- R227. Sets SRC and DST of a copy slot. -/
  | cpa (c : BitVec 4) (b : BitVec 6) (a : BitVec 6)
  /-- R218. Checks and starts the copy of a slot. -/
  | cpgo (c : BitVec 4)
  /-- R225. Starts a copy that also fingerprints the bytes it writes. -/
  | cpfp (c : BitVec 4) (a : BitVec 6)
  /-- R226. Starts a compare of two regions. -/
  | cpcmp (c : BitVec 4) (a : BitVec 6)
  /-- R228. Faults with 0x14 when the slot's last copy is not complete. -/
  | cpchk (c : BitVec 4)
  /-- R282. Holds later service accesses back until earlier ones have performed at the scope. -/
  | fence (b : BitVec 6)
  /-- R281. Atomic add, landing the old value. -/
  | aadd (b : BitVec 6) (a : BitVec 6) (d : BitVec 6) (o : BitVec 2)
  /-- R281. Atomic signed minimum. -/
  | amin (b : BitVec 6) (a : BitVec 6) (d : BitVec 6) (o : BitVec 2)
  /-- R281. Atomic signed maximum. -/
  | amax (b : BitVec 6) (a : BitVec 6) (d : BitVec 6) (o : BitVec 2)
  /-- R281. Atomic and. -/
  | aand (b : BitVec 6) (a : BitVec 6) (d : BitVec 6) (o : BitVec 2)
  /-- R281. Atomic or. -/
  | aor (b : BitVec 6) (a : BitVec 6) (d : BitVec 6) (o : BitVec 2)
  /-- R281. Atomic exclusive or. -/
  | axor (b : BitVec 6) (a : BitVec 6) (d : BitVec 6) (o : BitVec 2)
  /-- R281. Atomic exchange. -/
  | axchg (b : BitVec 6) (a : BitVec 6) (d : BitVec 6) (o : BitVec 2)
  /-- R281. Atomic compare-and-swap with the register pair B, B + 1. -/
  | acas (b : BitVec 5) (a : BitVec 6) (d : BitVec 6) (o : BitVec 2)
  /-- R283. Faults with 0x15 when OUTST.COUNT is not zero. -/
  | ochk
  /-- R345. Arrives at a barrier phase; the arrival counts 24 cycles later. -/
  | barr (a : BitVec 6)
  /-- R346. Faults with 0x1F when the barrier phase is not complete. -/
  | bchk (a : BitVec 6)
  /-- R350. Acquires a stage-ring slot, counting 24 cycles later. -/
  | sacq (a : BitVec 6)
  /-- R350. Releases a stage-ring slot, counting 24 cycles later. -/
  | srel (a : BitVec 6)
  /-- R315. Adds a successor entry to the kernel's successor list. -/
  | enq (i : BitVec 12) (a : BitVec 6)
  /-- R341. Raises a queue signal word to the maximum of its value and a. -/
  | gsig (i : BitVec 12) (a : BitVec 6)
  /-- R374. Opens a landing window from a window block and sends a window-open flit. -/
  | lopen (i : BitVec 12) (a : BitVec 6)
  /-- R374. Sends a transfer to a peer's landing window. -/
  | lsend (i : BitVec 12) (a : BitVec 6)
  /-- R374. Checks a window's state; passing closes the window, and other states fault. -/
  | lchk (n : BitVec 12)
  /-- R377. Asks peers to rejoin a collective at a recorded step. -/
  | lrejoin (i : BitVec 12) (a : BitVec 6)
  /-- R127. Sends a vector register to the same core of another die. -/
  | xsend (e : BitVec 2) (v : BitVec 6)
  /-- R127. Takes a vector arriving from another die in its issue cycle. -/
  | xrecv (e : BitVec 2) (v : BitVec 6)
  /-- R303. Reads a CSR into a scalar, readable after 2 cycles. -/
  | csrr (c : BitVec 12) (d : BitVec 6)
  /-- R303. Writes a CSR, subject to that CSR's own rules. -/
  | csrw (c : BitVec 12) (a : BitVec 6)
  /-- R303. Sets bits of a CSR. -/
  | csrs (c : BitVec 12) (a : BitVec 6)
  /-- R303. Clears bits of a CSR. -/
  | csrc (c : BitVec 12) (a : BitVec 6)
  /-- R329. Validates and loads an image of dictionary entries of the cluster. -/
  | dictld (i : BitVec 12) (a : BitVec 6)
  /-- R330. Checks the step table and sets STEPNO. -/
  | step (i : BitVec 12)
  /-- R331. At a step point, holds until the core's OUTST.COUNT is zero. -/
  | holdOut
  /-- R331. At a step point, holds until a barrier phase is complete. -/
  | holdBar (a : BitVec 6)
  /-- R362. Page request that drops the context's translations of a range. -/
  | tlbinv (i : BitVec 12) (a : BitVec 6)
  /-- R363. Page request that answers a pending release of a page. -/
  | pgrel (i : BitVec 12) (a : BitVec 6)
  /-- R363. Page request that accepts an offered frame. -/
  | pgacc (i : BitVec 12) (a : BitVec 6)
  /-- R361. Page request that sets, shares or queries a page's attributes. -/
  | pgattr (i : BitVec 12) (a : BitVec 6)
  /-- R178. Matrix micro-word that does nothing for one cycle. -/
  | mxnop
  /-- R178. Sets up the A stream of the routine. -/
  | mxlda (pa : BitVec 3) (fmt : BitVec 4) (cnt : BitVec 16) (imm : BitVec 32)
  /-- R179. Starts a B tile load from the weight buffer. -/
  | mxldb (pa : BitVec 3) (fmt : BitVec 4) (cnt : BitVec 16) (imm : BitVec 32)
  /-- R180. Executes CNT rows of the array, one per cycle. -/
  | mxmac (pa : BitVec 3) (pb : BitVec 3) (fmt : BitVec 4) (cnt : BitVec 16)
  /-- R181. Sets the promotion state and reads the B scales. -/
  | mxprom (pa : BitVec 3) (pb : BitVec 3) (cnt : BitVec 16)
  /-- R182. Executes CNT modular rows. -/
  | mxmod (pa : BitVec 3) (pb : BitVec 3) (cnt : BitVec 16)
  /-- R197. Adds exchange rows into accumulator rows. -/
  | mxred (pa : BitVec 3) (cnt : BitVec 16) (imm : BitVec 32)
  /-- R197. Sends accumulator rows to the partner's exchange buffer. -/
  | mxxch (pa : BitVec 3) (imm : BitVec 32)
  /-- R183. Counts a loop counter and jumps. -/
  | mxloop (pa : BitVec 3) (cnt : BitVec 16) (imm : BitVec 32)
  /-- R183. Adds signed offsets to two parameter copies. -/
  | mxstep (pa : BitVec 3) (pb : BitVec 3) (imm : BitVec 32)
  /-- R187. Loads the sparsity pattern register. -/
  | mxspar (pa : BitVec 3) (cnt : BitVec 16)
  /-- R190. Marks the next A rows as generated from the pattern generator. -/
  | mxgen (cnt : BitVec 16) (imm : BitVec 32)
  /-- R180. Executes split-FP32 rows over three cycles each. -/
  | mxsplit (pa : BitVec 3) (pb : BitVec 3) (cnt : BitVec 16)
  /-- R184. Ends the routine, and the sequencer becomes idle. -/
  | mxend
  /-- R240. Memory command that does nothing. -/
  | mnop
  /-- R240. Opens a row of a bank. -/
  | act (pch : BitVec 6) (bank : BitVec 6) (row : BitVec 14)
  /-- R241. Reads a column of the open row into an L2 line. -/
  | rdl (pch : BitVec 6) (bank : BitVec 6) (col : BitVec 4) (cl : BitVec 5) (line : BitVec 17)
  /-- R241. Writes an L2 line into a column of the open row. -/
  | wrl (pch : BitVec 6) (bank : BitVec 6) (col : BitVec 4) (cl : BitVec 5) (line : BitVec 17)
  /-- R240. Closes a bank. -/
  | pre (pch : BitVec 6) (bank : BitVec 6)
  /-- R240. Closes every open bank of a pseudo-channel. -/
  | prea (pch : BitVec 6)
  /-- R246. Refreshes all banks of a pseudo-channel. -/
  | refab (pch : BitVec 6)
  /-- R246. Refreshes one bank. -/
  | refpb (pch : BitVec 6) (bank : BitVec 6)
  /-- R244. Changes the read:write lane split from tick k + 16. -/
  | lturn (pch : BitVec 6) (split : BitVec 3)
  /-- R247. Opens a service window of n slots on a pseudo-channel. -/
  | svwin (pch : BitVec 6) (slots : BitVec 8)
  /-- R250. Marks a seam, checking that the pseudo-channels are quiet. -/
  | seam (seamno : BitVec 16)
  /-- R259. Loads 16 near-bank words into the channel store. -/
  | nbld (pch : BitVec 6) (wg : BitVec 4) (cl : BitVec 5) (line : BitVec 17)
  /-- R260. Queues a near-bank issue on a layer group. -/
  | nbiss (pch : BitVec 6) (lg : BitVec 2) (argrow : BitVec 14) (start : BitVec 8)
  /-- R263. Commits the write-back slots of a pseudo-channel. -/
  | nbfence (pch : BitVec 6)
  /-- R256. Base-die gather window. -/
  | bgath (desc : BitVec 12)
  /-- R256. Base-die reduction window. -/
  | bred (desc : BitVec 12)
  /-- R256. Base-die conversion window. -/
  | bconv (desc : BitVec 12)
  /-- R261. Near-bank word that broadcasts a step of bank g:0:0 to every unit. -/
  | nbcast (x : BitVec 14) (y : BitVec 10)
  /-- R261. Near-bank word that multiplies a row step by the broadcast into a latch. -/
  | nmac (x : BitVec 14) (y : BitVec 10) (l : BitVec 4)
  /-- R261. Near-bank word that sums a latch's lanes into lane 0. -/
  | nacc (l : BitVec 4)
  /-- R261. Near-bank word that places a latch in a write-back slot. -/
  | nwb (x : BitVec 14) (l : BitVec 4)
  /-- R261. Near-bank word that clears a latch. -/
  | nclr (l : BitVec 4)
  /-- R261. Near-bank loop word. -/
  | nloop (x : BitVec 14) (y : BitVec 10)
  /-- R261. Near-bank word that ends the issue. -/
  | nend
  /-- R120. A transfer takes effect after its three delay bundles, and the target issues in cycle t + 4. -/
  | controlTransfer
  /-- R123. LOOPB's writes to LC, the rotation bases and p32 apply at the boundary before cycle t + 4. -/
  | loopbBoundaryWrites
  /-- R104. A pipelined result becomes readable in its physical register at t + L, and its flags join FFLAGS. -/
  | resultLand
  /-- R117. STS writes its bytes to the bank two cycles after issue. -/
  | scalarStorePerform
  /-- R162. VST writes its bank three cycles after issue. -/
  | vectorStorePerform
  /-- R127. An XSEND's vector arrives at the receiving core for cycle t + 20, or faults when no XRECV takes it. -/
  | dieTransferArrival
  /-- R179. The decoded tile of an MXLDB replaces the B tile register. -/
  | bTileLand
  /-- R180. A row of MXMAC, MXSPLIT, MXMOD or MXRED lands in the accumulator, with its flags. -/
  | accumulatorRowLand
  /-- R197. A row sent by MXXCH lands in the partner's exchange buffer. -/
  | exchangeRowLand
  /-- R194. An MDRAIN row is read, converted and written to its scratchpad slot. -/
  | mdrainRowWrite
  /-- R184. A routine completes when its last row, tile load or exchange lands. -/
  | routineCompletion
  /-- R220. A sector of a copy source is read at its fixed cycle. -/
  | copySectorRead
  /-- R219. A copy sector is written with the copy's tag, compared for CPCMP, or faults with 0x49 on a bad block. -/
  | copySectorWrite
  /-- R229. At t + LD the copy's data is complete and its arming ends. -/
  | copyDataComplete
  /-- R225. A CPFP writes its SHA-256 or HMAC digest. -/
  | copyDigestWrite
  /-- R226. A CPCMP writes its comparison result. -/
  | copyResultWrite
  /-- R219. A copy becomes complete at t + L. -/
  | copyCompletion
  /-- R241. An RDL's bytes reach the L2 line, or machine check 0x70 is raised on an uncorrectable error. -/
  | rdlLineLand
  /-- R241. A WRL's data has been written to the column after its burst. -/
  | wrlDataWritten
  /-- R246. A refresh ends after tRFC, and the bank or pseudo-channel returns to precharged. -/
  | refreshEnd (pch : BitVec 6)
  /-- R244. A new lane split takes effect 16 tk after its LTURN. -/
  | lturnComplete (pch : BitVec 6)
  /-- R248. A window slot serves the oldest pending service access of its pseudo-channel. -/
  | serviceSlot (pch : BitVec 6) (slot : Nat)
  /-- R247. A service window ends, and its banks are precharged. -/
  | serviceWindowEnd (pch : BitVec 6)
  /-- R256. A base-die engine window ends and writes its output lines. -/
  | engineOutputWrite
  /-- R245. Every tREFI of timeline ticks each bank's debt rises, and 0x26 is raised at +9. -/
  | refreshDebtTick
  /-- R260. A queued near-bank issue starts stepping its layer group. -/
  | nearBankIssueStart (pch : BitVec 6)
  /-- R261. A near-bank issue ends, and its layer group leaves stepping. -/
  | nearBankIssueEnd (pch : BitVec 6)
  /-- R263. The commit ends 48 tk after the fence, and latches and slots clear. -/
  | nbfenceCommitEnd (pch : BitVec 6)
  /-- R275. A service access becomes pending at its owning sequencer. -/
  | serviceRequestArrival (id : Nat)
  /-- R275. A service access performs in its slot and lands its data and status in the landing granule. -/
  | serviceAccessPerform (id : Nat)
  /-- R279. A host CXL.mem or PCIe memory request to device memory arrives, split into 64-byte accesses or refused in confidential mode. -/
  | hostMemoryRequest (write : Bool) (addr : Nat) (len : Nat) (data : Bytes)
  /-- R280. Firmware expands a compressed block, applies its pending writes and writes the block back. -/
  | compressedBlockWriteback (block : Nat)
  /-- R345. A BARR arrival counts for its phase, possibly completing it or faulting 0x1F. -/
  | barrierArrivalCount (kernel : Nat)
  /-- R350. A SACQ or SREL counts and checks its slot. -/
  | stageOperationCount (kernel : Nat)
  /-- R342. Firmware publishes a raised signal word once the core's earlier accesses have performed. -/
  | signalPublish (kernel : Nat) (word : Nat)
  /-- R308. A host write of QTAIL appends entries, or is ignored and counted in QERR. -/
  | qtailWrite (qi : Nat) (value : BitVec 64)
  /-- R417. A host write to any other BAR 2 register, which is ignored. -/
  | hostRegisterWrite (offset : Nat) (value : BitVec 64)
  /-- R307. An entry reaching a queue head is validated, and a malformed one finishes with status 2. -/
  | queueHeadValidation (qi : Nat)
  /-- R312. A stage-patch entry at the head stages its patch or finishes with status 5. -/
  | stagePatchEntry (qi : Nat)
  /-- R306. A marker entry finishes when it reaches the head. -/
  | markerEntry (qi : Nat)
  /-- R311. A replay starts when its graph's slot is free, applying the staged patch. -/
  | graphReplayStart (qi : Nat)
  /-- R313. Firmware offers ready heads in priority order and admits a launch that fits placement, envelope and clusters. -/
  | launchAdmission
  /-- R324. The die Gnomon reaches S, and the kernel's tile tasks and timelines start. -/
  | kernelStart (kernel : Nat)
  /-- R326. A kernel with a reason to hold is held at a step point. -/
  | stepPointHold (kernel : Nat)
  /-- R328. A held kernel is released when no reason for the hold remains. -/
  | holdRelease (kernel : Nat)
  /-- R331. A HOLD that has waited HOLDLIM stops the kernel with 0x15, 0x1F or 0x53. -/
  | holdTimeout (kernel : Nat)
  /-- R381. A duty hold ends after its wall time. -/
  | dutyHoldExpiry (kernel : Nat)
  /-- R333. All dies are held and the clocks are changed together. -/
  | operatingPointChange (num : Nat) (den : Nat)
  /-- R332. A kernel completes when its tasks are halted and everything in flight has landed. -/
  | kernelCompletion (kernel : Nat)
  /-- R315. A successor entry is appended to its queue when there is room. -/
  | successorAppend (kernel : Nat)
  /-- R296. Firmware stops a kernel at a named bundle boundary for a full save. -/
  | forcedPreemption (kernel : Nat) (boundary : Nat)
  /-- R295. A kernel is held at its next step point and saved by its live map. -/
  | stepPointPreemption (kernel : Nat)
  /-- R294. After a stop, firmware resolves, saves or ends the kernel by its cause. -/
  | firmwareStopHandling (kernel : Nat)
  /-- R297. A save finishes, with FLAGS.VALID written last. -/
  | saveCompletion (kernel : Nat)
  /-- R297. In a power-fail save, accesses still outstanding after 100 µs are recorded as lost. -/
  | saveOutstandingTimeout (kernel : Nat)
  /-- R298. Firmware loads the records and restarts the kernel at g with g − n a multiple of 4096. -/
  | restore (kernel : Nat)
  /-- R298. A stopped die that has not been saved restarts its Gnomon from n. -/
  | resume (kernel : Nat)
  /-- R415. The hold timeline takes a stack at a seam or after the closing PREs. -/
  | stackHandoverToHold
  /-- R416. Firmware hands a stack back to the compiled timeline at the first permitted tick. -/
  | stackHandBack
  /-- R360. Firmware resolves a translation miss or a copy-on-write store and resumes the kernel. -/
  | faultResolution (kernel : Nat)
  /-- R361. Firmware performs a page request and lands its result word. -/
  | pageRequestPerform
  /-- R362. A die, its uncore or the hub acknowledges a translation invalidation. -/
  | tlbinvDieAck (die : Nat)
  /-- R359. A frame's scrub completes, and the page becomes free. -/
  | scrubCompletion (frame : Nat)
  /-- R364. Firmware evacuates and powers off a layer group for deep retention. -/
  | layerGroupRetire (stack : Nat) (group : Nat)
  /-- R364. A retired layer group returns, and its frames are free. -/
  | layerGroupReturn (stack : Nat) (group : Nat)
  /-- R372. A data flit lands in its window, and a final flit's checksum decides completion or poisoning. -/
  | flitTransferData (f : Flit)
  /-- R444. A window-open flit records the window as known and counts its announcement. -/
  | flitWindowOpen (w : WindowOpen)
  /-- R374. An acknowledgement lands the LSEND's status 0. -/
  | flitAcknowledgement (xfer : BitVec 24)
  /-- R373. A checksum failure makes the sender re-send, or land status 2 after three re-sends. -/
  | flitChecksumFailure (xfer : BitVec 24)
  /-- R375. A hold flit puts the port in answering-hold and the peer's windows in WSTATE 6. -/
  | flitHold (steps : List (Nat × Nat))
  /-- R377. A rejoin flit is accepted or refused by the peer's last completed step. -/
  | flitRejoin (coll : Nat) (step : Nat)
  /-- R377. A rejoin answer returns the port to keyed, and LREJOIN lands its status. -/
  | flitRejoinAnswer (accepted : Bool)
  /-- R367. A peer's space-5 request arrives for the export window. -/
  | flitSpace5Request (r : PeerRequest)
  /-- R367. The answer to a space-5 access lands at the issuing core. -/
  | flitSpace5Answer (id : Nat) (status : BitVec 8) (data : BitVec 64)
  /-- R372. A refusal flit lands the LSEND's status 4. -/
  | flitRefusal (xfer : BitVec 24)
  /-- R369. A NAK makes the sender resend the flit unchanged, and the port faults after 8 retries. -/
  | flitNak (seq : BitVec 64)
  /-- R366. Firmware starts training a Lattice port. -/
  | portTrainingStart
  /-- R366. Training completes and the port is up, or a 321st module is refused. -/
  | portTrained (module : Nat) (modules : Nat)
  /-- R408. Mutual SPDM and key derivation complete, and the port is keyed. -/
  | portKeyed (secrets : Bytes) (chainOk : Bool) (fwmeas : Bytes)
  /-- R370. A faulted port is rekeyed, its kept acknowledgements are re-sent, and unaccepted transfers are lost. -/
  | portFaultRekey (secrets : Bytes)
  /-- R366. A port loses signal and goes down. -/
  | portLossOfSignal
  /-- R19. An uncorrectable die-to-die error raises machine check 0x71 on both dies. -/
  | dieLinkUncorrectable (dieA : Nat) (dieB : Nat)
  /-- R292. An uncorrectable SRAM error raises machine check 0x72. -/
  | sramUncorrectableError (die : Nat) (store : Nat) (address : Nat)
  /-- R292. Loss of Gnomon synchronisation raises machine check 0x73. -/
  | gnomonSyncLost (die : Nat)
  /-- R27. A cluster that fails in the field is recorded in the failed-cluster mask. -/
  | clusterFailure (rank : Nat)
  /-- R418. The supervisor reports G, U and the supply state every 100 µs. -/
  | supplyReport (supply : SupplyState) (granted : Nat) (reserve : Nat)
  /-- R418. Each die's temperature is sampled every 1 ms and sets T; 110 °C starts hibernation. -/
  | thermalSample (die : Nat) (theta : Int)
  /-- R384. A power-fail warning starts the hibernation sequence. -/
  | powerFailWarning
  /-- R386. A SAG report sheds every compute die after saving. -/
  | supplySag
  /-- R387. After 10 ms of good supply, dies are unshed, ports rejoined and kernels restored. -/
  | unshed
  /-- R384. The drain of the priority list to the tier ends. -/
  | drainCompletion
  /-- R391. The manifest is written, tagged and sealed, and the module is cut off. -/
  | manifestSeal
  /-- R385. The reserve runs out before sealing, leaving the slot draining. -/
  | reserveExhausted
  /-- R383. Every second firmware compares E_need with U and truncates or restores the drain list. -/
  | drainBudgetAgeing
  /-- R24. A hub reset resets the whole package. -/
  | packageReset
  /-- R25. A die core reset, after a seam and saves, clears the die's cores. -/
  | dieCoreReset (die : Nat)
  /-- R254. A die uncore reset clears sequencers, latches, L2 and the die TLB. -/
  | dieUncoreReset (die : Nat)
  /-- R413. A start runs verification, training, self-tests and scrub, warm or cold. -/
  | start
  /-- R393. A warm-start replay restores regions, keys and contexts, and marks the slot consumed. -/
  | replayCompletion
  /-- R405. Mailbox verb that returns form, stepping, firmware level and masks. -/
  | identify (h : Req) (body : Bytes)
  /-- R405. Mailbox verb that returns the digest log length. -/
  | configDigest (h : Req) (body : Bytes)
  /-- R405. Mailbox verb that creates a context with its owner and queues. -/
  | createContext (h : Req) (body : Bytes)
  /-- R405. Mailbox verb that assembles a kernel object and checks it on the last chunk. -/
  | loadKernel (h : Req) (body : Bytes)
  /-- R363. Mailbox verb that scrubs and offers a frame to a context. -/
  | offerPage (h : Req) (body : Bytes)
  /-- R363. Mailbox verb that asks a tenant to release a page. -/
  | releaseRequest (h : Req) (body : Bytes)
  /-- R363. Mailbox verb that destroys the owning context. -/
  | reclaimForce (h : Req) (body : Bytes)
  /-- R308. Mailbox verb that appends one entry at QTAIL. -/
  | submit (h : Req) (body : Bytes)
  /-- R405. Mailbox verb that returns a queue's counters and signal words. -/
  | queryQueue (h : Req) (body : Bytes)
  /-- R384. Mailbox verb that runs the hibernation sequence while staying powered. -/
  | hibernateNow (h : Req) (body : Bytes)
  /-- R392. Mailbox verb RESUME that warm-starts from a waiting seal. -/
  | resumeVerb (h : Req) (body : Bytes)
  /-- R407. Mailbox verb that returns a signed attestation report. -/
  | attestSession (h : Req) (body : Bytes)
  /-- R395. Mailbox verb that starts the reset with scrub and writes CONF. -/
  | scrubReset (h : Req) (body : Bytes)
  /-- R288. Mailbox verb that destroys a context. -/
  | destroyContext (h : Req) (body : Bytes)
  /-- R411. Host command that maps a free frame into a context. -/
  | mapPage (h : Req) (body : Bytes)
  /-- R411. Host command that unmaps and scrubs a page that is not pinned. -/
  | unmapPage (h : Req) (body : Bytes)
  /-- R411. Host command that acts as PGATTR SET. -/
  | setAttr (h : Req) (body : Bytes)
  /-- R411. Host command that clears failed-cluster mask bits. -/
  | clearFailed (h : Req) (body : Bytes)
  /-- R411. Host or MCTP command that returns bytes of a manifest slot. -/
  | readSlot (h : Req) (body : Bytes)
  /-- R419. MCTP request that returns housekeeping registers. -/
  | readHk (offset : Nat) (count : Nat)
  /-- R406. SPDM KEY_EXCHANGE opening a secure session, or answered Busy beyond 32. -/
  | keyExchange (requester : Nat) (key : Option Bytes)
  /-- R407. SPDM request that returns signed measurements over the requester's nonce. -/
  | getMeasurements (session : Nat) (index : Nat) (nonce : Bytes)
  /-- R213. SSAVE writes its 16-byte stream record to the scratchpad in cycle t + 2, as a bank access. -/
  | streamRecordWrite
  /-- R279. The host interface receives the completion of a space-6 load, store or atomic, and its landing or status is written. -/
  | hostAccessCompletion (id : Nat) (error : Bool) (data : BitVec 64)
  /-- R269. An STG or atomic whose target lies in the capacity tier is written there with its power-loss protection and completes. -/
  | capacityTierAccessCompletion (id : Nat)
  /-- R358. The host withdraws an offered page before acceptance, and the page passes to scrubbing. -/
  | hostOfferWithdrawal (frame : Nat)
  /-- R369. A flit arrives uncorrectable, out of SEQ order or failing GCM authentication, and is answered with a NAK or faults the port. -/
  | uncorrectableFlit (seq : BitVec 64) (why : FlitTrouble)
  /-- R366. The PCIe host link trains, comes up, faults or goes down. -/
  | hostLinkStateChange (status : HostLinkState)
  /-- R404. A mailbox request whose VERB is unknown is answered with status 1, and nothing else happens. -/
  | unknownVerbRequest (verb : BitVec 16) (h : Req)
  /-- R406. An SPDM requester negotiates algorithms and gets ERROR when it offers none of the supported ones. -/
  | algorithmNegotiation (requester : Nat) (version : BitVec 8) (base : Bool × Bool) (keying : Bool × Bool)
  /-- R419. An MCTP control message, type 0x00, arrives and is answered. -/
  | mctpControlMessage (body : Bytes)
  deriving DecidableEq, Repr

end Sys2Proof
end

