-- ==== Sys2Proof/Config.lean ====
section
/-! DEFINITION. What an implementation fixes, and the free values: constants without a body, of which nothing can be
proved but what holds for every value (log 9). -/

namespace Sys2Proof.Config

/-- Clusters per die (R6, R26). -/
def clustersPerDie : Nat := 20
/-- Cores per cluster (R6). -/
def coresPerCluster : Nat := 8
/-- Cores per die (Table 1.1). -/
def coresPerDie : Nat := 160
/-- Dies of a package (Table 1.1). -/
def dieCount : Nat := 4
/-- Stacks of a package (R15). -/
def stackCount : Nat := 8
/-- Firmware level 1.4 (R2). -/
def fwLevel : BitVec 16 := 0x0104

/-- Whether resident firmware, or another agent whose moment the spec leaves open, lets this boundary pass without acting (log 9).
Applied to the state's counter of free values. -/
opaque idles : Nat → Bool
/-- What firmware chooses where the spec leaves the choice to it: a frame, a die, an order (log 9). -/
opaque pick : Nat → Nat
/-- The code in which firmware writes back a unit of a compressed page (R280): which of the codes that R223 allows (log 9). -/
opaque recode : Nat → Bytes → Bytes
/-- How many hops the shortest path from a port to a module has, by the domain's cabling (R367, log 31). -/
opaque hops : Nat → Nat → Nat
/-- Whether the key exchange of a rekey fails, at the peer's chain or at the policy table (R370, R408, log 9). -/
opaque rekeyFails : Bytes → Bool
/-- Whether the policy table refuses a peer's firmware measurement (R408, log 9). -/
opaque policyRefuses : Bytes → Bool
/-- Whether a host request to device memory came as a PCIe memory request and not over CXL.mem (R396, log 145). -/
opaque viaPcie : Nat → Bool
/-- A free 64-bit value (log 9). -/
opaque freeWord : Nat → BitVec 64
/-- The XTS data-unit number of a 64-byte unit of a save area (R301 gives none, log 9). -/
opaque saveUnit : Nat → Nat
/-- Random bytes of the security processor (R390, R400): key material and nonces (log 9). -/
opaque randomByte : Nat → Nat → BitVec 8
/-- An SLH-DSA signature of a message under a key seed (R400, R406, R409). FIPS 205 is named, not given (log 11). -/
opaque slhDsaSign : Bytes → Bytes → Bytes
/-- The public key of a key seed (R400, log 11). -/
opaque slhDsaPublic : Bytes → Bytes
/-- The hash of the public key for firmware images, held in fuses (R409). -/
opaque fusedKeyHash : Bytes
/-- Whether the signature of a firmware image fails against a public-key hash (R409, log 11). -/
opaque imageRefused : Bytes → Bytes → Bool
/-- Whether a numbered step of a start fails (Table 20.2, log 9). -/
opaque startFails : Nat → Nat → Bool
/-- The nonce of a column's MAC (R398 gives none, log 11). -/
opaque macNonce : Nat → Bytes
/-- The device secret DS held in fuses (R400). -/
opaque deviceSecret : Bytes
/-- The transcript hash of a secure session, by the number of its transcript (R406, R407, log 11). -/
opaque transcriptHash : Nat → Bytes
/-- The DRAM training parameters of a pseudo-channel of a stack (Table 18.6), which depend on the physical part (log 12). -/
opaque training : Nat → Nat → BitVec 64
/-- Whether a die reports a retention excursion after a shedding (R387, log 12). -/
opaque excursion : Nat → Nat → Bool
/-- The power of HKPWR, which depends on the physical part (R417, log 12). -/
opaque physicalReading : Nat → BitVec 64
/-- The supply limit in W that the board of an N9-P or N9-D gives at start (R418, log 12). -/
opaque boardLimit : Nat
/-- The export window as host or system software sets it at a boundary, if it does: context, first address and length (R367, log 158). -/
opaque exportWindow : Nat → Option (Nat × Nat × Nat)
/-- The 256-bit key of the responses of a secure session, by the number of its transcript (R397, R403, R406, log 11). -/
opaque sessionKey : Nat → Bytes
/-- The 96-bit initial value that goes with it (log 11). -/
opaque sessionIv : Nat → Bytes
/-- The certificate of the Wailvaud root in slot 0 (R406, log 11). -/
opaque rootCertificate : Bytes
/-- The certificate of the device identity key, which Wailvaud gives at manufacture (R400, log 11). -/
opaque identityCertificate : Bytes
/-- Whether a page table that holds so many pages, of so many in the module, is full (Table 20.1 gives no size, log 141). -/
opaque tableFull : Nat → Nat → Bool
/-- How many errors the part corrects in a hub cycle, of the four kinds of HKCECC: SRAM, HBM, die-to-die, Lattice (R19, R241, R417,
log 12). -/
opaque corrected : Nat → Nat → Nat

/-- The answer to an MCTP control message (R419): the MCTP base specification is named, not given (log 11). -/
opaque mctpAnswer : Bytes → Bytes

end Sys2Proof.Config
end

