-- ==== Sys2Proof/WellFormed.lean ====
section
/-! DEFINITION. Which instructions are well formed: the field limits that the encoding decides (R76 to R81, R82 to R87).
`illegal` collects the limits that raise 0x01, `misfielded` those that raise 0x08. -/

namespace Sys2Proof

/-- Format codes of Table 4.2. -/
def isFl (f : Nat) : Bool := f ≤ 2
/-- Integer format codes, the set In of R80. -/
def isIn (f : Nat) : Bool := 8 ≤ f && f ≤ 15
/-- Signed integer format codes. -/
def isSignedIn (f : Nat) : Bool := 8 ≤ f && f ≤ 11
/-- The set All of R80. -/
def isAll (f : Nat) : Bool := f ≤ 6 || isIn f

/-- Element width in bits of a format code (R130). -/
def fmtWidth (f : Nat) : Nat :=
  match f with
  | 0 => 32 | 1 => 16 | 2 => 16 | 3 => 8 | 4 => 8 | 5 => 4 | 6 => 8 | 7 => 8
  | 8 => 8 | 9 => 16 | 10 => 32 | 11 => 64 | 12 => 8 | 13 => 16 | 14 => 32 | _ => 64

/-- CSR numbers of Table 4.5. -/
def isCsr (c : Nat) : Bool := c ≤ 6 || (0x10 ≤ c && c ≤ 0x19)
/-- Writable CSR numbers of Table 4.5. -/
def isWritableCsr (c : Nat) : Bool := 0x10 ≤ c && c ≤ 0x19

/-- Format pairs of VCVT (Table 6.6, R150). -/
def cvtPairOk (fs fd : Nat) : Bool :=
  fs ≤ 15 && fs != 7 && (fd ≤ 5 || isIn fd) &&
    !(fs == 5 && (fd == 11 || fd == 15)) && !(fd == 5 && (fs == 11 || fs == 15))

/-- The number of registers in the wide side's group (R150). -/
def groupSize (wWide wNarrow : Nat) : Nat := wWide / wNarrow

/-- A limit of R79 to R81 or of an instruction's own rule that raises 0x01. -/
def Instr.illegal : Instr → Bool
  | .extb l p _ _ => 64 < p.toNat + l.toNat + 1
  | .insb l p _ _ => 64 < p.toNat + l.toNat + 1
  | .cmp c _ _ _ => 5 < c.toNat
  | .cmpi c _ _ _ => 5 < c.toNat
  | .lds _ w _ _ => w.toNat == 7
  | .ldg _ _ w _ _ => w.toNat == 7
  | .sts _ w _ _ => 3 < w.toNat
  | .stg _ _ w _ _ => 3 < w.toNat
  | .vadd _ _ _ f => !(isFl f.toNat || isIn f.toNat)
  | .vmul _ _ _ f => !(isFl f.toNat || isIn f.toNat)
  | .vsub _ _ _ f => !(isFl f.toNat || isIn f.toNat)
  | .vmin _ _ _ f => !(isFl f.toNat || isIn f.toNat)
  | .vmax _ _ _ f => !(isFl f.toNat || isIn f.toNat)
  | .vfma _ _ _ f => !isFl f.toNat
  | .vfms _ _ _ f => !isFl f.toNat
  | .vabs _ _ f => !(isFl f.toNat || isSignedIn f.toNat)
  | .vneg _ _ f => !(isFl f.toNat || isSignedIn f.toNat)
  | .vexp2 _ _ f => !isFl f.toNat
  | .vlog2 _ _ f => !isFl f.toNat
  | .vrcp _ _ f => !isFl f.toNat
  | .vrsq _ _ f => !isFl f.toNat
  | .vsqrt _ _ f => !isFl f.toNat
  | .vtanh _ _ f => !isFl f.toNat
  | .vsigm _ _ f => !isFl f.toNat
  | .vnot _ _ f => !isIn f.toNat
  | .vclz _ _ f => !isIn f.toNat
  | .vffs _ _ f => !isIn f.toNat
  | .vpopc _ _ f => !isIn f.toNat
  | .vand _ _ _ w => 3 < w.toNat
  | .vor _ _ _ w => 3 < w.toNat
  | .vxor _ _ _ w => 3 < w.toNat
  | .vshl _ _ _ w => 3 < w.toNat
  | .vshr _ _ _ w => 3 < w.toNat
  | .vsar _ _ _ w => 3 < w.toNat
  | .vcmp _ _ c _ f => 6 < c.toNat || !(isFl f.toNat || isIn f.toNat) || (c.toNat == 6 && isIn f.toNat)
  | .vcvt s _ _ f => !cvtPairOk s.toNat f.toNat
  | .vqnt s _ _ f => !(isFl s.toNat && (3 ≤ f.toNat && f.toNat ≤ 5))
  | .vdqnt s _ _ f => !((3 ≤ s.toNat && s.toNat ≤ 5) && isFl f.toNat)
  | .vtrn _ _ w => 3 < w.toNat
  | .vshuf _ _ _ w => 3 < w.toNat
  | .vbcst _ _ w => 3 < w.toNat
  | .vins _ _ _ w => 3 < w.toNat
  | .vred o _ _ _ f => o.toNat == 3 || !(isFl f.toNat || isIn f.toNat)
  | .mdrain _ _ _ f => !isAll f.toNat
  | .fence b => 8 < b.toNat
  | .gsig i _ => 15 < i.toNat
  | .lchk n => 15 < n.toNat
  | .csrr c _ => !isCsr c.toNat
  | .csrw c _ => !isWritableCsr c.toNat
  | .csrs c _ => !isWritableCsr c.toNat
  | .csrc c _ => !isWritableCsr c.toNat
  | .mxlda _ f _ _ => !([1, 3, 4, 5, 8, 15].contains f.toNat)
  | .mxldb _ f _ _ => !([1, 3, 4, 5, 8, 15].contains f.toNat)
  | .mxmac _ _ f _ => !([1, 3, 4, 5, 8].contains f.toNat)
  | .mxloop _ _ i => 4096 ≤ i.toNat
  | .act _ _ r => 12287 < r.toNat
  | .rdl _ _ _ cl _ => 19 < cl.toNat
  | .wrl _ _ _ cl _ => 19 < cl.toNat
  | .lturn _ s => 4 < s.toNat
  | .svwin _ n => n.toNat == 0
  | .nbld _ _ cl _ => 19 < cl.toNat
  | .nbiss _ _ r _ => 12287 < r.toNat
  | .nbcast x y => 12287 < x.toNat || 31 < y.toNat
  | .nmac x y _ => 12287 < x.toNat || 31 < y.toNat
  | .nwb x _ => 12287 < x.toNat
  | .nloop x y => 12287 < x.toNat || 255 < y.toNat
  | _ => false

/-- Register fields that must be aligned: their low bits are reserved and raise 0x08 (R150). -/
def Instr.misfielded : Instr → Bool
  | .vcvt s a d f =>
    let ws := fmtWidth s.toNat
    let wd := fmtWidth f.toNat
    a.toNat % (ws / wd).max 1 != 0 || d.toNat % (wd / ws).max 1 != 0
  | .vqnt s a d f => a.toNat % (fmtWidth s.toNat / fmtWidth f.toNat).max 1 != 0 || d.toNat % 2 != 0
  | .vdqnt s a d f => d.toNat % (fmtWidth f.toNat / fmtWidth s.toNat).max 1 != 0 || a.toNat % 2 != 0
  | _ => false

/-- The one-word form of a two-word masked instruction, with its mask fields (R78, R135). -/
def fromMasked : Instr → Option (Instr × BitVec 4 × BitVec 1)
  | .vaddMasked b a d f k zm => some (.vadd b a d f, k, zm)
  | .vmulMasked b a d f k zm => some (.vmul b a d f, k, zm)
  | .vsubMasked b a d f k zm => some (.vsub b a d f, k, zm)
  | .vminMasked b a d f k zm => some (.vmin b a d f, k, zm)
  | .vmaxMasked b a d f k zm => some (.vmax b a d f, k, zm)
  | .vfmaMasked b a d f k zm => some (.vfma b a d f, k, zm)
  | .vfmsMasked b a d f k zm => some (.vfms b a d f, k, zm)
  | .vabsMasked a d f k zm => some (.vabs a d f, k, zm)
  | .vnegMasked a d f k zm => some (.vneg a d f, k, zm)
  | .vexp2Masked a d f k zm => some (.vexp2 a d f, k, zm)
  | .vlog2Masked a d f k zm => some (.vlog2 a d f, k, zm)
  | .vrcpMasked a d f k zm => some (.vrcp a d f, k, zm)
  | .vrsqMasked a d f k zm => some (.vrsq a d f, k, zm)
  | .vsqrtMasked a d f k zm => some (.vsqrt a d f, k, zm)
  | .vtanhMasked a d f k zm => some (.vtanh a d f, k, zm)
  | .vsigmMasked a d f k zm => some (.vsigm a d f, k, zm)
  | .vnotMasked a d f k zm => some (.vnot a d f, k, zm)
  | .vclzMasked a d f k zm => some (.vclz a d f, k, zm)
  | .vffsMasked a d f k zm => some (.vffs a d f, k, zm)
  | .vpopcMasked a d f k zm => some (.vpopc a d f, k, zm)
  | .vandMasked b a d w k zm => some (.vand b a d w, k, zm)
  | .vorMasked b a d w k zm => some (.vor b a d w, k, zm)
  | .vxorMasked b a d w k zm => some (.vxor b a d w, k, zm)
  | .vshlMasked b a d w k zm => some (.vshl b a d w, k, zm)
  | .vshrMasked b a d w k zm => some (.vshr b a d w, k, zm)
  | .vsarMasked b a d w k zm => some (.vsar b a d w, k, zm)
  | .vcvtMasked s a d f k zm => some (.vcvt s a d f, k, zm)
  | .vqntMasked s a d f k zm => some (.vqnt s a d f, k, zm)
  | .vdqntMasked s a d f k zm => some (.vdqnt s a d f, k, zm)
  | _ => none

/-- The two-word masked form of an instruction, where R78 gives one. -/
def toMasked (k : BitVec 4) (zm : BitVec 1) : Instr → Option Instr
  | .vadd b a d f => some (.vaddMasked b a d f k zm)
  | .vmul b a d f => some (.vmulMasked b a d f k zm)
  | .vsub b a d f => some (.vsubMasked b a d f k zm)
  | .vmin b a d f => some (.vminMasked b a d f k zm)
  | .vmax b a d f => some (.vmaxMasked b a d f k zm)
  | .vfma b a d f => some (.vfmaMasked b a d f k zm)
  | .vfms b a d f => some (.vfmsMasked b a d f k zm)
  | .vabs a d f => some (.vabsMasked a d f k zm)
  | .vneg a d f => some (.vnegMasked a d f k zm)
  | .vexp2 a d f => some (.vexp2Masked a d f k zm)
  | .vlog2 a d f => some (.vlog2Masked a d f k zm)
  | .vrcp a d f => some (.vrcpMasked a d f k zm)
  | .vrsq a d f => some (.vrsqMasked a d f k zm)
  | .vsqrt a d f => some (.vsqrtMasked a d f k zm)
  | .vtanh a d f => some (.vtanhMasked a d f k zm)
  | .vsigm a d f => some (.vsigmMasked a d f k zm)
  | .vnot a d f => some (.vnotMasked a d f k zm)
  | .vclz a d f => some (.vclzMasked a d f k zm)
  | .vffs a d f => some (.vffsMasked a d f k zm)
  | .vpopc a d f => some (.vpopcMasked a d f k zm)
  | .vand b a d w => some (.vandMasked b a d w k zm)
  | .vor b a d w => some (.vorMasked b a d w k zm)
  | .vxor b a d w => some (.vxorMasked b a d w k zm)
  | .vshl b a d w => some (.vshlMasked b a d w k zm)
  | .vshr b a d w => some (.vshrMasked b a d w k zm)
  | .vsar b a d w => some (.vsarMasked b a d w k zm)
  | .vcvt s a d f => some (.vcvtMasked s a d f k zm)
  | .vqnt s a d f => some (.vqntMasked s a d f k zm)
  | .vdqnt s a d f => some (.vdqntMasked s a d f k zm)
  | _ => none

/-- The prefix-field check of R63: 0 when the word stands, else the cause. A rule of 0x08 is tested first. -/
def prefixFields (i : BitVec 12) (e v : BitVec 1) (p : BitVec 6) (t : BitVec 1) (s : BitVec 2) (r : BitVec 1)
    (m : BitVec 3) (x : BitVec 1) (bit2 : BitVec 1) : Nat :=
  if bit2 != 0 || (r == 0 && m != 0) || (e == 0 && (p != 0 || v != 0)) || (t == 0 && s != 0) ||
      (t == 0 && x == 0 && i != 0) then 0x08
  else if (r == 1 && 6 ≤ m.toNat) || (t == 1 && x == 1) || (t == 1 && s == 3) then 0x06
  else 0

/-- Well-formedness: what the decoder lets through. -/
def Instr.wf (i : Instr) : Bool :=
  match i with
  | .pfx i e v p t s _ r m x => prefixFields i e v p t s r m x 0 == 0
  | .dictionaryBundle e => e != 0
  | .idleRun n => 2 ≤ n && n ≤ 64
  | i =>
    match fromMasked i with
    | some (j, _, _) => !j.illegal && !j.misfielded
    | none => !i.illegal && !i.misfielded

end Sys2Proof
end

