-- ==== Sys2Proof/Decode.lean ====
section
/-! DEFINITION. Decoding, total on any bits, and the encoder written from the same tables: index values (Table 3.1),
bundle words (Tables 4.1 to 4.5), prefix words (Table 3.3), matrix micro-words (Table 4.6), memory commands (Table 4.7)
and near-bank micro-words (Table 4.8). The validation of a bundle is R69. -/

namespace Sys2Proof

/-- Major opcode 0x00 of Table 4.3: the fields, and the mask of the reserved bits. -/
def parse00 (w : Word32) : Option (Instr × Word32) :=
  match (w.extractLsb' 26 6).toNat with
  | 0 => some (.add (w.extractLsb' 20 6) (w.extractLsb' 14 6) (w.extractLsb' 8 6), 0x00000000)
  | 1 => some (.sub (w.extractLsb' 20 6) (w.extractLsb' 14 6) (w.extractLsb' 8 6), 0x00000000)
  | 2 => some (.addx (w.extractLsb' 20 6) (w.extractLsb' 14 6) (w.extractLsb' 8 6), 0x00000000)
  | 3 => some (.subx (w.extractLsb' 20 6) (w.extractLsb' 14 6) (w.extractLsb' 8 6), 0x00000000)
  | 4 => some (.and (w.extractLsb' 20 6) (w.extractLsb' 14 6) (w.extractLsb' 8 6), 0x00000000)
  | 5 => some (.or (w.extractLsb' 20 6) (w.extractLsb' 14 6) (w.extractLsb' 8 6), 0x00000000)
  | 6 => some (.xor (w.extractLsb' 20 6) (w.extractLsb' 14 6) (w.extractLsb' 8 6), 0x00000000)
  | 7 => some (.andn (w.extractLsb' 20 6) (w.extractLsb' 14 6) (w.extractLsb' 8 6), 0x00000000)
  | 8 => some (.shl (w.extractLsb' 20 6) (w.extractLsb' 14 6) (w.extractLsb' 8 6), 0x00000000)
  | 9 => some (.shr (w.extractLsb' 20 6) (w.extractLsb' 14 6) (w.extractLsb' 8 6), 0x00000000)
  | 10 => some (.sar (w.extractLsb' 20 6) (w.extractLsb' 14 6) (w.extractLsb' 8 6), 0x00000000)
  | 11 => some (.rol (w.extractLsb' 20 6) (w.extractLsb' 14 6) (w.extractLsb' 8 6), 0x00000000)
  | 12 => some (.ror (w.extractLsb' 20 6) (w.extractLsb' 14 6) (w.extractLsb' 8 6), 0x00000000)
  | 13 => some (.min (w.extractLsb' 20 6) (w.extractLsb' 14 6) (w.extractLsb' 8 6), 0x00000000)
  | 14 => some (.max (w.extractLsb' 20 6) (w.extractLsb' 14 6) (w.extractLsb' 8 6), 0x00000000)
  | 15 => some (.minn (w.extractLsb' 20 6) (w.extractLsb' 14 6) (w.extractLsb' 8 6), 0x00000000)
  | 16 => some (.maxn (w.extractLsb' 20 6) (w.extractLsb' 14 6) (w.extractLsb' 8 6), 0x00000000)
  | _ => none

/-- Major opcode 0x01 of Table 4.3: the fields, and the mask of the reserved bits. -/
def parse01 (w : Word32) : Option (Instr × Word32) :=
  some (.addi (w.extractLsb' 20 12) (w.extractLsb' 14 6) (w.extractLsb' 8 6), 0x00000000)

/-- Major opcode 0x02 of Table 4.3: the fields, and the mask of the reserved bits. -/
def parse02 (w : Word32) : Option (Instr × Word32) :=
  some (.andi (w.extractLsb' 20 12) (w.extractLsb' 14 6) (w.extractLsb' 8 6), 0x00000000)

/-- Major opcode 0x03 of Table 4.3: the fields, and the mask of the reserved bits. -/
def parse03 (w : Word32) : Option (Instr × Word32) :=
  some (.ori (w.extractLsb' 20 12) (w.extractLsb' 14 6) (w.extractLsb' 8 6), 0x00000000)

/-- Major opcode 0x04 of Table 4.3: the fields, and the mask of the reserved bits. -/
def parse04 (w : Word32) : Option (Instr × Word32) :=
  some (.xori (w.extractLsb' 20 12) (w.extractLsb' 14 6) (w.extractLsb' 8 6), 0x00000000)

/-- Major opcode 0x05 of Table 4.3: the fields, and the mask of the reserved bits. -/
def parse05 (w : Word32) : Option (Instr × Word32) :=
  match (w.extractLsb' 26 6).toNat with
  | 0 => some (.shli (w.extractLsb' 20 6) (w.extractLsb' 14 6) (w.extractLsb' 8 6), 0x00000000)
  | 1 => some (.shri (w.extractLsb' 20 6) (w.extractLsb' 14 6) (w.extractLsb' 8 6), 0x00000000)
  | 2 => some (.sari (w.extractLsb' 20 6) (w.extractLsb' 14 6) (w.extractLsb' 8 6), 0x00000000)
  | _ => none

/-- Major opcode 0x06 of Table 4.3: the fields, and the mask of the reserved bits. -/
def parse06 (w : Word32) : Option (Instr × Word32) :=
  match (w.extractLsb' 26 6).toNat with
  | 0 => some (.mul (w.extractLsb' 20 6) (w.extractLsb' 14 6) (w.extractLsb' 8 6), 0x00000000)
  | 1 => some (.mulh (w.extractLsb' 20 6) (w.extractLsb' 14 6) (w.extractLsb' 8 6), 0x00000000)
  | 2 => some (.mulhn (w.extractLsb' 20 6) (w.extractLsb' 14 6) (w.extractLsb' 8 6), 0x00000000)
  | 3 => some (.divs (w.extractLsb' 20 6) (w.extractLsb' 14 6) (w.extractLsb' 8 6), 0x00000000)
  | 4 => some (.divn (w.extractLsb' 20 6) (w.extractLsb' 14 6) (w.extractLsb' 8 6), 0x00000000)
  | 5 => some (.rems (w.extractLsb' 20 6) (w.extractLsb' 14 6) (w.extractLsb' 8 6), 0x00000000)
  | 6 => some (.remn (w.extractLsb' 20 6) (w.extractLsb' 14 6) (w.extractLsb' 8 6), 0x00000000)
  | _ => none

/-- Major opcode 0x07 of Table 4.3: the fields, and the mask of the reserved bits. -/
def parse07 (w : Word32) : Option (Instr × Word32) :=
  match (w.extractLsb' 26 6).toNat with
  | 0 => some (.clz (w.extractLsb' 14 6) (w.extractLsb' 8 6), 0x03F00000)
  | 1 => some (.ctz (w.extractLsb' 14 6) (w.extractLsb' 8 6), 0x03F00000)
  | 2 => some (.ffs (w.extractLsb' 14 6) (w.extractLsb' 8 6), 0x03F00000)
  | 3 => some (.popc (w.extractLsb' 14 6) (w.extractLsb' 8 6), 0x03F00000)
  | _ => none

/-- Major opcode 0x08 of Table 4.3: the fields, and the mask of the reserved bits. -/
def parse08 (w : Word32) : Option (Instr × Word32) :=
  some (.extb (w.extractLsb' 26 6) (w.extractLsb' 20 6) (w.extractLsb' 14 6) (w.extractLsb' 8 6), 0x00000000)

/-- Major opcode 0x09 of Table 4.3: the fields, and the mask of the reserved bits. -/
def parse09 (w : Word32) : Option (Instr × Word32) :=
  some (.insb (w.extractLsb' 26 6) (w.extractLsb' 20 6) (w.extractLsb' 14 6) (w.extractLsb' 8 6), 0x00000000)

/-- Major opcode 0x0A of Table 4.3: the fields, and the mask of the reserved bits. -/
def parse0A (w : Word32) : Option (Instr × Word32) :=
  some (.movi (w.extractLsb' 14 18) (w.extractLsb' 8 6), 0x00000000)

/-- Major opcode 0x0B of Table 4.3: the fields, and the mask of the reserved bits. -/
def parse0B (w : Word32) : Option (Instr × Word32) :=
  some (.movhi (w.extractLsb' 14 18) (w.extractLsb' 8 6), 0x00000000)

/-- Major opcode 0x0C of Table 4.3: the fields, and the mask of the reserved bits. -/
def parse0C (w : Word32) : Option (Instr × Word32) :=
  some (.sel (w.extractLsb' 26 6) (w.extractLsb' 20 6) (w.extractLsb' 14 6) (w.extractLsb' 8 6), 0x00000000)

/-- Major opcode 0x0D of Table 4.3: the fields, and the mask of the reserved bits. -/
def parse0D (w : Word32) : Option (Instr × Word32) :=
  some (.cmp (w.extractLsb' 28 4) (w.extractLsb' 20 6) (w.extractLsb' 14 6) (w.extractLsb' 8 6), 0x0C000000)

/-- Major opcode 0x0E of Table 4.3: the fields, and the mask of the reserved bits. -/
def parse0E (w : Word32) : Option (Instr × Word32) :=
  some (.cmpi (w.extractLsb' 28 4) (w.extractLsb' 20 8) (w.extractLsb' 14 6) (w.extractLsb' 8 6), 0x00000000)

/-- Major opcode 0x0F of Table 4.3: the fields, and the mask of the reserved bits. -/
def parse0F (w : Word32) : Option (Instr × Word32) :=
  match (w.extractLsb' 26 6).toNat with
  | 0 => some (.mulmod (w.extractLsb' 20 6) (w.extractLsb' 14 6) (w.extractLsb' 8 6), 0x00000000)
  | 1 => some (.addmod (w.extractLsb' 20 6) (w.extractLsb' 14 6) (w.extractLsb' 8 6), 0x00000000)
  | 2 => some (.tagp (w.extractLsb' 20 6) (w.extractLsb' 14 6) (w.extractLsb' 8 6), 0x00000000)
  | 8 => some (.pand (w.extractLsb' 20 6) (w.extractLsb' 14 6) (w.extractLsb' 8 6), 0x00000000)
  | 9 => some (.por (w.extractLsb' 20 6) (w.extractLsb' 14 6) (w.extractLsb' 8 6), 0x00000000)
  | 10 => some (.pxor (w.extractLsb' 20 6) (w.extractLsb' 14 6) (w.extractLsb' 8 6), 0x00000000)
  | 11 => some (.pnot (w.extractLsb' 14 6) (w.extractLsb' 8 6), 0x03F00000)
  | _ => none

/-- Major opcode 0x10 of Table 4.3: the fields, and the mask of the reserved bits. -/
def parse10 (w : Word32) : Option (Instr × Word32) :=
  some (.lds (w.extractLsb' 24 8) (w.extractLsb' 20 3) (w.extractLsb' 14 6) (w.extractLsb' 8 6), 0x00800000)

/-- Major opcode 0x11 of Table 4.3: the fields, and the mask of the reserved bits. -/
def parse11 (w : Word32) : Option (Instr × Word32) :=
  some (.sts (w.extractLsb' 24 8) (w.extractLsb' 20 3) (w.extractLsb' 14 6) (w.extractLsb' 8 6), 0x00800000)

/-- Major opcode 0x12 of Table 4.3: the fields, and the mask of the reserved bits. -/
def parse12 (w : Word32) : Option (Instr × Word32) :=
  some (.ldg (w.extractLsb' 24 8) (w.extractLsb' 23 1) (w.extractLsb' 20 3) (w.extractLsb' 14 6) (w.extractLsb' 8 6), 0x00000000)

/-- Major opcode 0x13 of Table 4.3: the fields, and the mask of the reserved bits. -/
def parse13 (w : Word32) : Option (Instr × Word32) :=
  some (.stg (w.extractLsb' 24 8) (w.extractLsb' 23 1) (w.extractLsb' 20 3) (w.extractLsb' 14 6) (w.extractLsb' 8 6), 0x00000000)

/-- Major opcode 0x14 of Table 4.3: the fields, and the mask of the reserved bits. -/
def parse14 (w : Word32) : Option (Instr × Word32) :=
  match (w.extractLsb' 14 1).toNat with
  | 0 => some (.br (w.extractLsb' 15 17), 0x00003F00)
  | 1 => some (.loopb (w.extractLsb' 15 17), 0x00003F00)
  | _ => none

/-- Major opcode 0x15 of Table 4.3: the fields, and the mask of the reserved bits. -/
def parse15 (w : Word32) : Option (Instr × Word32) :=
  some (.brc (w.extractLsb' 15 17) (w.extractLsb' 14 1) (w.extractLsb' 8 6), 0x00000000)

/-- Major opcode 0x16 of Table 4.3: the fields, and the mask of the reserved bits. -/
def parse16 (w : Word32) : Option (Instr × Word32) :=
  some (.call (w.extractLsb' 15 17) (w.extractLsb' 8 6), 0x00004000)

/-- Major opcode 0x17 of Table 4.3: the fields, and the mask of the reserved bits. -/
def parse17 (w : Word32) : Option (Instr × Word32) :=
  match (w.extractLsb' 8 6).toNat with
  | 0 => some (.ret (w.extractLsb' 20 12) (w.extractLsb' 14 6), 0x00000000)
  | 1 => some (.loopset (w.extractLsb' 20 5) (w.extractLsb' 14 6), 0xFE000000)
  | 2 => some (.tchk (w.extractLsb' 20 12) (w.extractLsb' 14 6), 0x00000000)
  | 3 => some (.halt, 0xFFFFC000)
  | 4 => some (.trap (w.extractLsb' 20 12) (w.extractLsb' 14 6), 0x00000000)
  | _ => none

/-- Major opcode 0x18 of Table 4.3: the fields, and the mask of the reserved bits. -/
def parse18 (w : Word32) : Option (Instr × Word32) :=
  some (.vadd (w.extractLsb' 26 6) (w.extractLsb' 20 6) (w.extractLsb' 14 6) (w.extractLsb' 8 6), 0x00000000)

/-- Major opcode 0x19 of Table 4.3: the fields, and the mask of the reserved bits. -/
def parse19 (w : Word32) : Option (Instr × Word32) :=
  some (.vmul (w.extractLsb' 26 6) (w.extractLsb' 20 6) (w.extractLsb' 14 6) (w.extractLsb' 8 6), 0x00000000)

/-- Major opcode 0x1A of Table 4.3: the fields, and the mask of the reserved bits. -/
def parse1A (w : Word32) : Option (Instr × Word32) :=
  some (.vsub (w.extractLsb' 26 6) (w.extractLsb' 20 6) (w.extractLsb' 14 6) (w.extractLsb' 8 6), 0x00000000)

/-- Major opcode 0x1B of Table 4.3: the fields, and the mask of the reserved bits. -/
def parse1B (w : Word32) : Option (Instr × Word32) :=
  some (.vmin (w.extractLsb' 26 6) (w.extractLsb' 20 6) (w.extractLsb' 14 6) (w.extractLsb' 8 6), 0x00000000)

/-- Major opcode 0x1C of Table 4.3: the fields, and the mask of the reserved bits. -/
def parse1C (w : Word32) : Option (Instr × Word32) :=
  some (.vmax (w.extractLsb' 26 6) (w.extractLsb' 20 6) (w.extractLsb' 14 6) (w.extractLsb' 8 6), 0x00000000)

/-- Major opcode 0x1D of Table 4.3: the fields, and the mask of the reserved bits. -/
def parse1D (w : Word32) : Option (Instr × Word32) :=
  some (.vfma (w.extractLsb' 26 6) (w.extractLsb' 20 6) (w.extractLsb' 14 6) (w.extractLsb' 8 6), 0x00000000)

/-- Major opcode 0x1E of Table 4.3: the fields, and the mask of the reserved bits. -/
def parse1E (w : Word32) : Option (Instr × Word32) :=
  some (.vfms (w.extractLsb' 26 6) (w.extractLsb' 20 6) (w.extractLsb' 14 6) (w.extractLsb' 8 6), 0x00000000)

/-- Major opcode 0x1F of Table 4.3: the fields, and the mask of the reserved bits. -/
def parse1F (w : Word32) : Option (Instr × Word32) :=
  match (w.extractLsb' 26 6).toNat with
  | 0 => some (.vabs (w.extractLsb' 20 6) (w.extractLsb' 14 6) (w.extractLsb' 8 6), 0x00000000)
  | 1 => some (.vneg (w.extractLsb' 20 6) (w.extractLsb' 14 6) (w.extractLsb' 8 6), 0x00000000)
  | 2 => some (.vexp2 (w.extractLsb' 20 6) (w.extractLsb' 14 6) (w.extractLsb' 8 6), 0x00000000)
  | 3 => some (.vlog2 (w.extractLsb' 20 6) (w.extractLsb' 14 6) (w.extractLsb' 8 6), 0x00000000)
  | 4 => some (.vrcp (w.extractLsb' 20 6) (w.extractLsb' 14 6) (w.extractLsb' 8 6), 0x00000000)
  | 5 => some (.vrsq (w.extractLsb' 20 6) (w.extractLsb' 14 6) (w.extractLsb' 8 6), 0x00000000)
  | 6 => some (.vsqrt (w.extractLsb' 20 6) (w.extractLsb' 14 6) (w.extractLsb' 8 6), 0x00000000)
  | 7 => some (.vtanh (w.extractLsb' 20 6) (w.extractLsb' 14 6) (w.extractLsb' 8 6), 0x00000000)
  | 8 => some (.vsigm (w.extractLsb' 20 6) (w.extractLsb' 14 6) (w.extractLsb' 8 6), 0x00000000)
  | 9 => some (.vnot (w.extractLsb' 20 6) (w.extractLsb' 14 6) (w.extractLsb' 8 6), 0x00000000)
  | 10 => some (.vclz (w.extractLsb' 20 6) (w.extractLsb' 14 6) (w.extractLsb' 8 6), 0x00000000)
  | 11 => some (.vffs (w.extractLsb' 20 6) (w.extractLsb' 14 6) (w.extractLsb' 8 6), 0x00000000)
  | 12 => some (.vpopc (w.extractLsb' 20 6) (w.extractLsb' 14 6) (w.extractLsb' 8 6), 0x00000000)
  | _ => none

/-- Major opcode 0x20 of Table 4.3: the fields, and the mask of the reserved bits. -/
def parse20 (w : Word32) : Option (Instr × Word32) :=
  match (w.extractLsb' 11 3).toNat with
  | 0 => some (.vand (w.extractLsb' 26 6) (w.extractLsb' 20 6) (w.extractLsb' 14 6) (w.extractLsb' 8 3), 0x00000000)
  | 1 => some (.vor (w.extractLsb' 26 6) (w.extractLsb' 20 6) (w.extractLsb' 14 6) (w.extractLsb' 8 3), 0x00000000)
  | 2 => some (.vxor (w.extractLsb' 26 6) (w.extractLsb' 20 6) (w.extractLsb' 14 6) (w.extractLsb' 8 3), 0x00000000)
  | 3 => some (.vshl (w.extractLsb' 26 6) (w.extractLsb' 20 6) (w.extractLsb' 14 6) (w.extractLsb' 8 3), 0x00000000)
  | 4 => some (.vshr (w.extractLsb' 26 6) (w.extractLsb' 20 6) (w.extractLsb' 14 6) (w.extractLsb' 8 3), 0x00000000)
  | 5 => some (.vsar (w.extractLsb' 26 6) (w.extractLsb' 20 6) (w.extractLsb' 14 6) (w.extractLsb' 8 3), 0x00000000)
  | _ => none

/-- Major opcode 0x21 of Table 4.3: the fields, and the mask of the reserved bits. -/
def parse21 (w : Word32) : Option (Instr × Word32) :=
  some (.vcmp (w.extractLsb' 26 6) (w.extractLsb' 20 6) (w.extractLsb' 16 4) (w.extractLsb' 12 4) (w.extractLsb' 8 4), 0x00000000)

/-- Major opcode 0x22 of Table 4.3: the fields, and the mask of the reserved bits. -/
def parse22 (w : Word32) : Option (Instr × Word32) :=
  match (w.extractLsb' 30 2).toNat with
  | 0 => some (.vcvt (w.extractLsb' 26 4) (w.extractLsb' 20 6) (w.extractLsb' 14 6) (w.extractLsb' 8 6), 0x00000000)
  | 1 => some (.vqnt (w.extractLsb' 26 4) (w.extractLsb' 20 6) (w.extractLsb' 14 6) (w.extractLsb' 8 6), 0x00000000)
  | 2 => some (.vdqnt (w.extractLsb' 26 4) (w.extractLsb' 20 6) (w.extractLsb' 14 6) (w.extractLsb' 8 6), 0x00000000)
  | _ => none

/-- Major opcode 0x23 of Table 4.3: the fields, and the mask of the reserved bits. -/
def parse23 (w : Word32) : Option (Instr × Word32) :=
  match (w.extractLsb' 11 3).toNat with
  | 0 => some (.vtrn (w.extractLsb' 20 6) (w.extractLsb' 14 6) (w.extractLsb' 8 3), 0xFC000000)
  | 1 => some (.vshuf (w.extractLsb' 26 6) (w.extractLsb' 20 6) (w.extractLsb' 14 6) (w.extractLsb' 8 3), 0x00000000)
  | 2 => some (.vbcst (w.extractLsb' 20 6) (w.extractLsb' 14 6) (w.extractLsb' 8 3), 0xFC000000)
  | 3 => if w.getLsbD 10 then none else some (.vmovs (w.extractLsb' 20 3) (w.extractLsb' 14 6), 0xFF800700)
  | 4 => some (.vins (w.extractLsb' 26 6) (w.extractLsb' 20 6) (w.extractLsb' 14 6) (w.extractLsb' 8 3), 0x00000000)
  | _ => none

/-- Major opcode 0x24 of Table 4.3: the fields, and the mask of the reserved bits. -/
def parse24 (w : Word32) : Option (Instr × Word32) :=
  some (.vred (w.extractLsb' 30 2) (w.extractLsb' 29 1) (w.extractLsb' 20 6) (w.extractLsb' 14 6) (w.extractLsb' 8 6), 0x1C000000)

/-- Major opcode 0x25 of Table 4.3: the fields, and the mask of the reserved bits. -/
def parse25 (w : Word32) : Option (Instr × Word32) :=
  some (.vsel (w.extractLsb' 26 6) (w.extractLsb' 20 6) (w.extractLsb' 14 6) (w.extractLsb' 10 4) (w.extractLsb' 8 2), 0x00000000)

/-- Major opcode 0x26 of Table 4.3: the fields, and the mask of the reserved bits. -/
def parse26 (w : Word32) : Option (Instr × Word32) :=
  match (w.extractLsb' 12 2).toNat with
  | 0 => some (.vld (w.extractLsb' 26 6) (w.extractLsb' 20 6) (w.extractLsb' 14 6), 0x00000F00)
  | 1 => some (.vst (w.extractLsb' 26 6) (w.extractLsb' 20 6) (w.extractLsb' 14 6), 0x00000F00)
  | 2 => some (.vldx (w.extractLsb' 26 6) (w.extractLsb' 20 6) (w.extractLsb' 14 6), 0x00000F00)
  | _ => none

/-- Major opcode 0x27 of Table 4.3: the fields, and the mask of the reserved bits. -/
def parse27 (w : Word32) : Option (Instr × Word32) :=
  match (w.extractLsb' 8 6).toNat with
  | 3 => some (.vaddmod (w.extractLsb' 26 6) (w.extractLsb' 20 6) (w.extractLsb' 14 6), 0x00000000)
  | 11 => some (.vsubmod (w.extractLsb' 26 6) (w.extractLsb' 20 6) (w.extractLsb' 14 6), 0x00000000)
  | 19 => some (.vmulmod (w.extractLsb' 26 6) (w.extractLsb' 20 6) (w.extractLsb' 14 6), 0x00000000)
  | 27 => some (.vbfly (w.extractLsb' 27 5) (w.extractLsb' 20 6) (w.extractLsb' 15 5), 0x04004000)
  | 35 => some (.vibfly (w.extractLsb' 27 5) (w.extractLsb' 20 6) (w.extractLsb' 15 5), 0x04004000)
  | _ => none

/-- Major opcode 0x28 of Table 4.3: the fields, and the mask of the reserved bits. -/
def parse28 (w : Word32) : Option (Instr × Word32) :=
  match (w.extractLsb' 11 3).toNat with
  | 0 => some (.kand (w.extractLsb' 28 4) (w.extractLsb' 22 4) (w.extractLsb' 16 4), 0x0C30C700)
  | 1 => some (.kor (w.extractLsb' 28 4) (w.extractLsb' 22 4) (w.extractLsb' 16 4), 0x0C30C700)
  | 2 => some (.knot (w.extractLsb' 22 4) (w.extractLsb' 16 4), 0xFC30C700)
  | 3 => some (.kmov (w.extractLsb' 22 4) (w.extractLsb' 16 4), 0xFC30C700)
  | _ => none

/-- Major opcode 0x29 of Table 4.3: the fields, and the mask of the reserved bits. -/
def parse29 (w : Word32) : Option (Instr × Word32) :=
  some (.vshape (w.extractLsb' 20 12) (w.extractLsb' 14 6), 0x00003F00)

/-- Major opcode 0x2C of Table 4.3: the fields, and the mask of the reserved bits. -/
def parse2C (w : Word32) : Option (Instr × Word32) :=
  some (.mcall (w.extractLsb' 24 8), 0x00FFFF00)

/-- Major opcode 0x2D of Table 4.3: the fields, and the mask of the reserved bits. -/
def parse2D (w : Word32) : Option (Instr × Word32) :=
  match (w.extractLsb' 28 4).toNat with
  | 0 => some (.mova (w.extractLsb' 20 8) (w.extractLsb' 14 6) (w.extractLsb' 11 3), 0x00000700)
  | 1 => some (.mseed (w.extractLsb' 14 6), 0x0FF03F00)
  | 2 => some (.mmeta (w.extractLsb' 20 8), 0x000FFF00)
  | 3 => some (.mpair (w.extractLsb' 20 8) (w.extractLsb' 14 6), 0x00003F00)
  | 4 => some (.mclr (w.extractLsb' 20 8) (w.extractLsb' 14 6), 0x00003F00)
  | 5 => some (.mrtld (w.extractLsb' 20 8) (w.extractLsb' 14 6), 0x00003F00)
  | _ => none

/-- Major opcode 0x2E of Table 4.3: the fields, and the mask of the reserved bits. -/
def parse2E (w : Word32) : Option (Instr × Word32) :=
  match (w.extractLsb' 30 2).toNat with
  | 0 => some (.mrdac (w.extractLsb' 20 6) (w.extractLsb' 14 6), 0x3C003F00)
  | 1 => some (.mwrac (w.extractLsb' 20 6) (w.extractLsb' 14 6), 0x3C003F00)
  | _ => none

/-- Major opcode 0x2F of Table 4.3: the fields, and the mask of the reserved bits. -/
def parse2F (w : Word32) : Option (Instr × Word32) :=
  some (.mdrain (w.extractLsb' 26 6) (w.extractLsb' 20 6) (w.extractLsb' 14 6) (w.extractLsb' 8 6), 0x00000000)

/-- Major opcode 0x30 of Table 4.3: the fields, and the mask of the reserved bits. -/
def parse30 (w : Word32) : Option (Instr × Word32) :=
  match (w.extractLsb' 11 3).toNat with
  | 0 => some (.sbind (w.extractLsb' 20 12) (w.extractLsb' 14 6) (w.extractLsb' 8 3), 0x00000000)
  | 1 => some (.sunbind (w.extractLsb' 8 3), 0xFFFFC000)
  | 2 => some (.sseek (w.extractLsb' 20 12) (w.extractLsb' 14 6) (w.extractLsb' 8 3), 0x00000000)
  | 3 => some (.ssave (w.extractLsb' 20 12) (w.extractLsb' 14 6) (w.extractLsb' 8 3), 0x00000000)
  | 4 => some (.sload (w.extractLsb' 20 12) (w.extractLsb' 14 6) (w.extractLsb' 8 3), 0x00000000)
  | _ => none

/-- Major opcode 0x34 of Table 4.3: the fields, and the mask of the reserved bits. -/
def parse34 (w : Word32) : Option (Instr × Word32) :=
  match (w.extractLsb' 11 3).toNat with
  | 0 => some (.cpl (w.extractLsb' 26 4) (w.extractLsb' 14 6), 0xC3F00700)
  | 1 => some (.cpa (w.extractLsb' 26 4) (w.extractLsb' 20 6) (w.extractLsb' 14 6), 0xC0000700)
  | 2 => some (.cpgo (w.extractLsb' 26 4), 0xC3FFC700)
  | 3 => some (.cpfp (w.extractLsb' 26 4) (w.extractLsb' 14 6), 0xC3F00700)
  | 4 => some (.cpcmp (w.extractLsb' 26 4) (w.extractLsb' 14 6), 0xC3F00700)
  | 5 => some (.cpchk (w.extractLsb' 26 4), 0xC3FFC700)
  | _ => none

/-- Major opcode 0x38 of Table 4.3: the fields, and the mask of the reserved bits. -/
def parse38 (w : Word32) : Option (Instr × Word32) :=
  match (w.extractLsb' 10 4).toNat with
  | 0 => some (.fence (w.extractLsb' 26 6), 0x03FFC300)
  | 1 => some (.aadd (w.extractLsb' 26 6) (w.extractLsb' 20 6) (w.extractLsb' 14 6) (w.extractLsb' 8 2), 0x00000000)
  | 2 => some (.amin (w.extractLsb' 26 6) (w.extractLsb' 20 6) (w.extractLsb' 14 6) (w.extractLsb' 8 2), 0x00000000)
  | 3 => some (.amax (w.extractLsb' 26 6) (w.extractLsb' 20 6) (w.extractLsb' 14 6) (w.extractLsb' 8 2), 0x00000000)
  | 4 => some (.aand (w.extractLsb' 26 6) (w.extractLsb' 20 6) (w.extractLsb' 14 6) (w.extractLsb' 8 2), 0x00000000)
  | 5 => some (.aor (w.extractLsb' 26 6) (w.extractLsb' 20 6) (w.extractLsb' 14 6) (w.extractLsb' 8 2), 0x00000000)
  | 6 => some (.axor (w.extractLsb' 26 6) (w.extractLsb' 20 6) (w.extractLsb' 14 6) (w.extractLsb' 8 2), 0x00000000)
  | 7 => some (.axchg (w.extractLsb' 26 6) (w.extractLsb' 20 6) (w.extractLsb' 14 6) (w.extractLsb' 8 2), 0x00000000)
  | 8 => some (.acas (w.extractLsb' 27 5) (w.extractLsb' 20 6) (w.extractLsb' 14 6) (w.extractLsb' 8 2), 0x04000000)
  | 9 => some (.ochk, 0xFFFFC300)
  | _ => none

/-- Major opcode 0x39 of Table 4.3: the fields, and the mask of the reserved bits. -/
def parse39 (w : Word32) : Option (Instr × Word32) :=
  match (w.extractLsb' 11 3).toNat with
  | 0 => some (.barr (w.extractLsb' 14 6), 0xFFF00700)
  | 1 => some (.bchk (w.extractLsb' 14 6), 0xFFF00700)
  | 2 => some (.sacq (w.extractLsb' 14 6), 0xFFF00700)
  | 3 => some (.srel (w.extractLsb' 14 6), 0xFFF00700)
  | 4 => some (.enq (w.extractLsb' 20 12) (w.extractLsb' 14 6), 0x00000700)
  | 5 => some (.gsig (w.extractLsb' 20 12) (w.extractLsb' 14 6), 0x00000700)
  | _ => none

/-- Major opcode 0x3A of Table 4.3: the fields, and the mask of the reserved bits. -/
def parse3A (w : Word32) : Option (Instr × Word32) :=
  match (w.extractLsb' 11 3).toNat with
  | 0 => some (.lopen (w.extractLsb' 20 12) (w.extractLsb' 14 6), 0x00000700)
  | 1 => some (.lsend (w.extractLsb' 20 12) (w.extractLsb' 14 6), 0x00000700)
  | 2 => some (.lchk (w.extractLsb' 20 12), 0x000FC700)
  | 3 => some (.lrejoin (w.extractLsb' 20 12) (w.extractLsb' 14 6), 0x00000700)
  | _ => none

/-- Major opcode 0x3B of Table 4.3: the fields, and the mask of the reserved bits. -/
def parse3B (w : Word32) : Option (Instr × Word32) :=
  match (w.extractLsb' 11 3).toNat with
  | 0 => some (.xsend (w.extractLsb' 20 2) (w.extractLsb' 14 6), 0xFFC00700)
  | 1 => some (.xrecv (w.extractLsb' 20 2) (w.extractLsb' 14 6), 0xFFC00700)
  | _ => none

/-- Major opcode 0x3C of Table 4.3: the fields, and the mask of the reserved bits. -/
def parse3C (w : Word32) : Option (Instr × Word32) :=
  some (.csrr (w.extractLsb' 20 12) (w.extractLsb' 8 6), 0x000FC000)

/-- Major opcode 0x3D of Table 4.3: the fields, and the mask of the reserved bits. -/
def parse3D (w : Word32) : Option (Instr × Word32) :=
  match (w.extractLsb' 8 6).toNat with
  | 0 => some (.csrw (w.extractLsb' 20 12) (w.extractLsb' 14 6), 0x00000000)
  | 1 => some (.csrs (w.extractLsb' 20 12) (w.extractLsb' 14 6), 0x00000000)
  | 2 => some (.csrc (w.extractLsb' 20 12) (w.extractLsb' 14 6), 0x00000000)
  | _ => none

/-- Major opcode 0x3E of Table 4.3: the fields, and the mask of the reserved bits. -/
def parse3E (w : Word32) : Option (Instr × Word32) :=
  match (w.extractLsb' 11 3).toNat with
  | 0 => some (.dictld (w.extractLsb' 20 12) (w.extractLsb' 14 6), 0x00000700)
  | 1 => some (.step (w.extractLsb' 20 12), 0x000FC700)
  | 2 =>
    match (w.extractLsb' 20 12).toNat with
    | 0 => some (.holdOut, 0x000FC700)
    | 1 => some (.holdBar (w.extractLsb' 14 6), 0x00000700)
    | _ => none
  | 3 => some (.tlbinv (w.extractLsb' 20 12) (w.extractLsb' 14 6), 0x00000700)
  | 4 => some (.pgrel (w.extractLsb' 20 12) (w.extractLsb' 14 6), 0x00000700)
  | 5 => some (.pgacc (w.extractLsb' 20 12) (w.extractLsb' 14 6), 0x00000700)
  | 6 => some (.pgattr (w.extractLsb' 20 12) (w.extractLsb' 14 6), 0x00000700)
  | _ => none

/-- The instruction word of one word, by its major opcode, with its reserved bits (R76, Table 4.3). -/
def parseWord (w : Word32) : Option (Instr × Word32) :=
  match (w.extractLsb' 2 6).toNat with
  | 0x00 => parse00 w
  | 0x01 => parse01 w
  | 0x02 => parse02 w
  | 0x03 => parse03 w
  | 0x04 => parse04 w
  | 0x05 => parse05 w
  | 0x06 => parse06 w
  | 0x07 => parse07 w
  | 0x08 => parse08 w
  | 0x09 => parse09 w
  | 0x0A => parse0A w
  | 0x0B => parse0B w
  | 0x0C => parse0C w
  | 0x0D => parse0D w
  | 0x0E => parse0E w
  | 0x0F => parse0F w
  | 0x10 => parse10 w
  | 0x11 => parse11 w
  | 0x12 => parse12 w
  | 0x13 => parse13 w
  | 0x14 => parse14 w
  | 0x15 => parse15 w
  | 0x16 => parse16 w
  | 0x17 => parse17 w
  | 0x18 => parse18 w
  | 0x19 => parse19 w
  | 0x1A => parse1A w
  | 0x1B => parse1B w
  | 0x1C => parse1C w
  | 0x1D => parse1D w
  | 0x1E => parse1E w
  | 0x1F => parse1F w
  | 0x20 => parse20 w
  | 0x21 => parse21 w
  | 0x22 => parse22 w
  | 0x23 => parse23 w
  | 0x24 => parse24 w
  | 0x25 => parse25 w
  | 0x26 => parse26 w
  | 0x27 => parse27 w
  | 0x28 => parse28 w
  | 0x29 => parse29 w
  | 0x2C => parse2C w
  | 0x2D => parse2D w
  | 0x2E => parse2E w
  | 0x2F => parse2F w
  | 0x30 => parse30 w
  | 0x34 => parse34 w
  | 0x38 => parse38 w
  | 0x39 => parse39 w
  | 0x3A => parse3A w
  | 0x3B => parse3B w
  | 0x3C => parse3C w
  | 0x3D => parse3D w
  | 0x3E => parse3E w
  | _ => none

/-- Majors that have a two-word form (R78). -/
def hasTwoWordForm (major : Nat) : Bool := (0x18 ≤ major && major ≤ 0x20) || major == 0x22

/-- The unit that begins with `w0` and has `w1` as its next word: `legal` of R69, giving the instruction or the cause.
A word that breaks rules of both kinds reports 0x01. Selectors 0b00 and 0b01 are instructions, 0b10 is a prefix word. -/
def decodeUnit (w0 : Word32) (w1 : Option Word32) : Except Nat Instr :=
  match (w0.extractLsb' 0 2).toNat with
  | 0 =>
    match parseWord w0 with
    | none => .error 0x01
    | some (i, reserved) =>
      if i.illegal then .error 0x01
      else if (w0 &&& reserved) != 0 || i.misfielded then .error 0x08
      else .ok i
  | 1 =>
    if !hasTwoWordForm (w0.extractLsb' 2 6).toNat then .error 0x01 else
    match parseWord w0 with
    | none => .error 0x01
    | some (i, reserved) =>
      if i.illegal then .error 0x01 else
      match w1 with
      | none => if (w0 &&& reserved) != 0 || i.misfielded then .error 0x08 else .error 0x05
      | some w1 =>
        if (w0 &&& reserved) != 0 || i.misfielded || w1.extractLsb' 0 27 != 0 then .error 0x08
        else match toMasked (w1.extractLsb' 28 4) (w1.extractLsb' 27 1) i with
          | some j => .ok j
          | none => .error 0x01
  | 2 =>
    let p : Instr := .pfx (w0.extractLsb' 20 12) (w0.extractLsb' 19 1) (w0.extractLsb' 18 1) (w0.extractLsb' 12 6)
      (w0.extractLsb' 11 1) (w0.extractLsb' 9 2) (w0.extractLsb' 8 1) (w0.extractLsb' 7 1) (w0.extractLsb' 4 3)
      (w0.extractLsb' 3 1)
    match prefixFields (w0.extractLsb' 20 12) (w0.extractLsb' 19 1) (w0.extractLsb' 18 1) (w0.extractLsb' 12 6)
      (w0.extractLsb' 11 1) (w0.extractLsb' 9 2) (w0.extractLsb' 7 1) (w0.extractLsb' 4 3) (w0.extractLsb' 3 1)
      (w0.extractLsb' 2 1) with
    | 0 => .ok p
    | e => .error e
  | _ => .error 0x05

/-- Whether the unit that begins with `w0` takes two words. -/
def isTwoWord (w0 : Word32) : Bool := w0.extractLsb' 0 2 == 1
/-- Whether `w` is a fill word (R61). -/
def isFill (w : Word32) : Bool := w.extractLsb' 0 2 == 3

/-- The prefix fields that an instruction accepts (R64, R108, R140, R171, R193, R212, R227). -/
structure Accepts where
  rm : Bool
  sat : Bool
  imm : Bool
  tag : Bool
  pred : Bool
  deriving DecidableEq, Repr

/-- Acceptance of an unmasked instruction. -/
def accepts1 (i : Instr) : Accepts :=
  let n : Accepts := ⟨false, false, false, false, true⟩
  match i with
  | .add .. | .sub .. | .addx .. | .subx .. | .mul .. | .divs .. => { n with sat := true }
  | .addi .. => { n with sat := true, imm := true }
  | .andi .. | .ori .. | .xori .. | .movi .. | .movhi .. | .cmpi .. => { n with imm := true }
  | .lds .. => { n with imm := true, tag := true }
  | .sts .. | .ldg .. | .stg .. | .ret .. | .trap .. => { n with imm := true }
  | .tchk .. => { n with imm := true, pred := false }
  | .vadd _ _ _ f | .vsub _ _ _ f | .vmul _ _ _ f => { n with rm := isFl f.toNat, sat := true }
  | .vfma .. | .vfms .. => { n with rm := true, sat := true }
  | .vabs _ _ f | .vneg _ _ f => { n with sat := isIn f.toNat }
  | .vexp2 .. | .vlog2 .. | .vrcp .. | .vrsq .. | .vsqrt .. | .vtanh .. | .vsigm .. => { n with rm := true, sat := true }
  | .vcvt s _ _ f => { n with rm := !(isIn s.toNat && isIn f.toNat), sat := true }
  | .vqnt .. => { n with rm := true }
  | .vdqnt .. => { n with rm := true, sat := true }
  | .vred o _ _ _ f => { n with rm := o == 0 && isFl f.toNat, sat := o == 0 }
  | .vmovs .. => { n with tag := true }
  | .vld .. | .vldx .. => { n with imm := true, tag := true }
  | .vst .. => { n with rm := true, sat := true, imm := true }
  | .vshape .. | .mova .. | .mclr .. => { n with imm := true }
  | .mdrain .. => { n with rm := true, sat := true }
  | .sseek .. | .ssave .. => { n with imm := true }
  | .sload .. => { n with imm := true, tag := true }
  | .cpl .. => { n with tag := true }
  | .enq .. | .lopen .. | .lsend .. | .lrejoin .. => { n with imm := true }
  | .dictld .. => { n with imm := true, pred := false }
  | .tlbinv .. | .pgrel .. | .pgacc .. | .pgattr .. => { n with imm := true }
  | .step .. | .holdOut | .holdBar .. => { n with pred := false }
  | _ => n

/-- Acceptance of an instruction; a two-word instruction is modified as a whole (R65). -/
def accepts (i : Instr) : Accepts :=
  match fromMasked i with
  | some (j, _, _) => accepts1 j
  | none => accepts1 i

/-- Whether the instruction accepts every field that the prefix enables (R64); a tag check needs TSRC 0, the only
scratchpad source any accepting instruction has (DEDUCED, log 13). -/
def acceptsPfx (i : Instr) (e t : BitVec 1) (s : BitVec 2) (a r x : BitVec 1) : Bool :=
  let c := accepts i
  (e == 0 || c.pred) && (t == 0 || (c.tag && s == 0)) && (a == 0 || c.sat) && (r == 0 || c.rm) && (x == 0 || c.imm)

/-- Slot classes of Table 3.4: 0 scalar, 1 scalar memory, 2 control, 3 vector, 4 matrix, 5 stream, 6 engine,
synchronisation and system. -/
def slotClass (major : Nat) : Nat :=
  if major ≤ 0x0F then 0 else if major ≤ 0x13 then 1 else if major ≤ 0x17 then 2 else if major ≤ 0x2B then 3
  else if major ≤ 0x2F then 4 else if major ≤ 0x33 then 5 else 6

/-- Class limits of Table 3.4. -/
def slotLimit (c : Nat) : Nat := if c == 0 then 3 else if c == 3 then 2 else 1

/-- Instructions counted so far by class, and in the fused class. -/
structure SlotCounts where
  counts : List Nat
  fused : Nat
  deriving DecidableEq, Repr

/-- No instruction counted. -/
def SlotCounts.zero : SlotCounts := ⟨List.replicate 7 0, 0⟩

/-- R69 from word `w` on: none accepts, else the word index and the cause of the first failure. -/
def validateFrom (w : Nat) (n : SlotCounts) : List Word32 → Option (Nat × Nat)
  | [] => none
  | x :: rest =>
    if isFill x then
      match rest.findIdx? (fun y => !isFill y) with
      | some j => some (w + 1 + j, 0x05)
      | none => none
    else if x.extractLsb' 0 2 == 2 then
      match decodeUnit x none with
      | .error e => some (w, e)
      | .ok p =>
        match rest with
        | [] => some (w, 0x03)
        | y :: rest' =>
          if isFill y || y.extractLsb' 0 2 == 2 then some (w, 0x03)
          else match decodeUnit y (some (rest'.head?.getD 0)), p with
            | .error e, _ => some (w + 1, e)
            | .ok i, .pfx _ e _ _ t s a r _ x =>
              if acceptsPfx i e t s a r x then validateFrom (w + 1) n rest else some (w, 0x03)
            | .ok _, _ => some (w, 0x03)
    else
      let major := (x.extractLsb' 2 6).toNat
      match decodeUnit x rest.head? with
      | .error e => some (w, e)
      | .ok _ =>
        let c := slotClass major
        let k := n.counts.getD c 0 + 1
        if slotLimit c < k then some (w, 0x04) else
        let fused := if major == 0x1D || major == 0x1E then n.fused + 1 else n.fused
        if 1 < fused then some (w, 0x04) else
        let n' : SlotCounts := ⟨n.counts.set c k, fused⟩
        if isTwoWord x then
          match rest with
          | _ :: rest' => validateFrom (w + 2) n' rest'
          | [] => some (w, 0x05)
        else validateFrom (w + 1) n' rest

/-- R69: the first failure of a bundle, as a word index and a cause. -/
def validateBundle (b : BitVec 384) : Option (Nat × Nat) :=
  validateFrom 0 .zero ((List.range 12).map fun w => b.extractLsb' (32 * w) 32)

/-- The words of a bundle (R61). -/
def bundleWords (b : BitVec 384) : List Word32 := (List.range 12).map fun w => b.extractLsb' (32 * w) 32

/-- The bundle of twelve words (R61). -/
def bundleOf (ws : List Word32) : BitVec 384 :=
  (List.range 12).foldl (fun b w => b ||| ((ws.getD w 0xFFFFFFFF).setWidth 384 <<< (32 * w))) 0

/-- The empty bundle: twelve fill words (R62). -/
def emptyBundleBits : BitVec 384 := BitVec.allOnes 384

/-- Table 3.1: the meaning of an index value. `none` is the dictionary-range fault 0x02. -/
def decodeIndex (v : BitVec 16) : Option Instr :=
  let n := v.toNat
  if n == 0 then some .emptyBundle
  else if n ≤ 0x1FFF then some (.dictionaryBundle (v.extractLsb' 0 13))
  else if n < 0xFFC0 then none
  else if n ≤ 0xFFFE then some (.idleRun (n - 0xFFC0 + 2))
  else some .literalBundle

/-- The fields of a matrix micro-word by its OP (R82, Table 4.6). -/
def parseMx (w : Word) : Option Instr :=
  let pa := w.extractLsb' 55 3
  let pb := w.extractLsb' 52 3
  let fmt := w.extractLsb' 48 4
  let cnt := w.extractLsb' 32 16
  let imm := w.extractLsb' 0 32
  match (w.extractLsb' 58 6).toNat with
  | 0x00 => some (.mxnop)
  | 0x01 => some (.mxlda pa fmt cnt imm)
  | 0x02 => some (.mxldb pa fmt cnt imm)
  | 0x03 => some (.mxmac pa pb fmt cnt)
  | 0x04 => some (.mxprom pa pb cnt)
  | 0x05 => some (.mxmod pa pb cnt)
  | 0x06 => some (.mxred pa cnt imm)
  | 0x07 => some (.mxxch pa imm)
  | 0x08 => some (.mxloop pa cnt imm)
  | 0x09 => some (.mxstep pa pb imm)
  | 0x0A => some (.mxspar pa cnt)
  | 0x0B => some (.mxgen cnt imm)
  | 0x0C => some (.mxsplit pa pb cnt)
  | 0x0D => some (.mxend)
  | _ => none

/-- The matrix micro-word of an instruction, reserved fields zero (Table 4.6). -/
def encodeMx : Instr → Option Word
  | .mxnop => some (0x00#6 ++ 0#3 ++ 0#3 ++ 0#4 ++ 0#16 ++ 0#32)
  | .mxlda pa fmt cnt imm => some (0x01#6 ++ pa ++ 0#3 ++ fmt ++ cnt ++ imm)
  | .mxldb pa fmt cnt imm => some (0x02#6 ++ pa ++ 0#3 ++ fmt ++ cnt ++ imm)
  | .mxmac pa pb fmt cnt => some (0x03#6 ++ pa ++ pb ++ fmt ++ cnt ++ 0#32)
  | .mxprom pa pb cnt => some (0x04#6 ++ pa ++ pb ++ 0#4 ++ cnt ++ 0#32)
  | .mxmod pa pb cnt => some (0x05#6 ++ pa ++ pb ++ 0#4 ++ cnt ++ 0#32)
  | .mxred pa cnt imm => some (0x06#6 ++ pa ++ 0#3 ++ 0#4 ++ cnt ++ imm)
  | .mxxch pa imm => some (0x07#6 ++ pa ++ 0#3 ++ 0#4 ++ 0#16 ++ imm)
  | .mxloop pa cnt imm => some (0x08#6 ++ pa ++ 0#3 ++ 0#4 ++ cnt ++ imm)
  | .mxstep pa pb imm => some (0x09#6 ++ pa ++ pb ++ 0#4 ++ 0#16 ++ imm)
  | .mxspar pa cnt => some (0x0A#6 ++ pa ++ 0#3 ++ 0#4 ++ cnt ++ 0#32)
  | .mxgen cnt imm => some (0x0B#6 ++ 0#3 ++ 0#3 ++ 0#4 ++ cnt ++ imm)
  | .mxsplit pa pb cnt => some (0x0C#6 ++ pa ++ pb ++ 0#4 ++ cnt ++ 0#32)
  | .mxend => some (0x0D#6 ++ 0#3 ++ 0#3 ++ 0#4 ++ 0#16 ++ 0#32)
  | _ => none

/-- A matrix micro-word, or none where R82 raises 0x41: an unassigned OP, a non-zero reserved field, a FMT not listed,
or a loop target of 4096 or more (R83). -/
def decodeMx (w : Word) : Option Instr :=
  match parseMx w with
  | some i => if !i.illegal && encodeMx i == some w then some i else none
  | none => none

/-- The fields of a memory command by its OP (Table 4.7). -/
def parseCmd (w : Word) : Option Instr :=
  let pch := w.extractLsb' 42 6
  let bank := w.extractLsb' 36 6
  let col := w.extractLsb' 32 4
  let cl := w.extractLsb' 27 5
  let line := w.extractLsb' 10 17
  match (w.extractLsb' 58 6).toNat with
  | 0x00 => some .mnop
  | 0x01 => some (.act pch bank (w.extractLsb' 0 14))
  | 0x02 => some (.rdl pch bank col cl line)
  | 0x03 => some (.wrl pch bank col cl line)
  | 0x04 => some (.pre pch bank)
  | 0x05 => some (.prea pch)
  | 0x06 => some (.refab pch)
  | 0x07 => some (.refpb pch bank)
  | 0x08 => some (.lturn pch (w.extractLsb' 0 3))
  | 0x09 => some (.svwin pch (w.extractLsb' 0 8))
  | 0x0A => some (.seam (w.extractLsb' 0 16))
  | 0x0B => some (.nbld pch col cl line)
  | 0x0C => some (.nbiss pch (w.extractLsb' 40 2) (w.extractLsb' 8 14) (w.extractLsb' 0 8))
  | 0x0D => some (.nbfence pch)
  | 0x0E => some (.bgath (w.extractLsb' 0 12))
  | 0x0F => some (.bred (w.extractLsb' 0 12))
  | 0x10 => some (.bconv (w.extractLsb' 0 12))
  | _ => none

/-- The memory command word of an instruction with delta `dt` (Table 4.7). -/
def encodeCmd (dt : BitVec 10) : Instr → Option Word
  | .mnop => some (0x00#6 ++ dt ++ 0#48)
  | .act pch bank row => some (0x01#6 ++ dt ++ pch ++ bank ++ 0#22 ++ row)
  | .rdl pch bank col cl line => some (0x02#6 ++ dt ++ pch ++ bank ++ col ++ cl ++ line ++ 0#10)
  | .wrl pch bank col cl line => some (0x03#6 ++ dt ++ pch ++ bank ++ col ++ cl ++ line ++ 0#10)
  | .pre pch bank => some (0x04#6 ++ dt ++ pch ++ bank ++ 0#36)
  | .prea pch => some (0x05#6 ++ dt ++ pch ++ 0#42)
  | .refab pch => some (0x06#6 ++ dt ++ pch ++ 0#42)
  | .refpb pch bank => some (0x07#6 ++ dt ++ pch ++ bank ++ 0#36)
  | .lturn pch split => some (0x08#6 ++ dt ++ pch ++ 0#39 ++ split)
  | .svwin pch slots => some (0x09#6 ++ dt ++ pch ++ 0#34 ++ slots)
  | .seam n => some (0x0A#6 ++ dt ++ 0#32 ++ n)
  | .nbld pch wg cl line => some (0x0B#6 ++ dt ++ pch ++ 0#6 ++ wg ++ cl ++ line ++ 0#10)
  | .nbiss pch lg argrow start => some (0x0C#6 ++ dt ++ pch ++ lg ++ 0#4 ++ 0#14 ++ argrow ++ start)
  | .nbfence pch => some (0x0D#6 ++ dt ++ pch ++ 0#42)
  | .bgath d => some (0x0E#6 ++ dt ++ 0#36 ++ d)
  | .bred d => some (0x0F#6 ++ dt ++ 0#36 ++ d)
  | .bconv d => some (0x10#6 ++ dt ++ 0#36 ++ d)
  | _ => none

/-- The delta of a memory command word (R84). -/
def cmdDelta (w : Word) : Nat := (w.extractLsb' 48 10).toNat

/-- A memory command, or none where R85 refuses the word with 0x20 (the limit on DESC is the section's own). -/
def decodeCmd (w : Word) : Option Instr :=
  match parseCmd w with
  | some i => if !i.illegal && encodeCmd (w.extractLsb' 48 10) i == some w then some i else none
  | none => none

/-- The fields of a near-bank micro-word by its OP (Table 4.8). -/
def parseNb (w : Word32) : Option Instr :=
  let x := w.extractLsb' 14 14
  let y := w.extractLsb' 4 10
  let l := w.extractLsb' 0 4
  match (w.extractLsb' 28 4).toNat with
  | 1 => some (.nbcast x y)
  | 2 => some (.nmac x y l)
  | 3 => some (.nacc l)
  | 4 => some (.nwb x l)
  | 5 => some (.nclr l)
  | 6 => some (.nloop x y)
  | 7 => some .nend
  | _ => none

/-- The near-bank micro-word of an instruction (Table 4.8). -/
def encodeNb : Instr → Option Word32
  | .nbcast x y => some (0x1#4 ++ x ++ y ++ 0x0#4)
  | .nmac x y l => some (0x2#4 ++ x ++ y ++ l)
  | .nacc l => some (0x3000000#28 ++ l)
  | .nwb x l => some (0x4#4 ++ x ++ 0x0#10 ++ l)
  | .nclr l => some (0x5000000#28 ++ l)
  | .nloop x y => some (0x6#4 ++ x ++ y ++ 0x0#4)
  | .nend => some (0x70000000#32)
  | _ => none

/-- A near-bank micro-word, or none where R86 raises 0x42. -/
def decodeNb (w : Word32) : Option Instr :=
  match parseNb w with
  | some i => if !i.illegal && encodeNb i == some w then some i else none
  | none => none

/-- The one-word form of an instruction (Table 4.1), prefix words by Table 3.3. -/
def encodeWord : Instr → Option Word32
  | .pfx i e v p t s a r m x => some (i ++ e ++ v ++ p ++ t ++ s ++ a ++ r ++ m ++ x ++ 0x2#3)
  | .add b a d => some (0x0#6 ++ b ++ a ++ d ++ 0x0#8)
  | .sub b a d => some (0x1#6 ++ b ++ a ++ d ++ 0x0#8)
  | .addx b a d => some (0x2#6 ++ b ++ a ++ d ++ 0x0#8)
  | .subx b a d => some (0x3#6 ++ b ++ a ++ d ++ 0x0#8)
  | .and b a d => some (0x4#6 ++ b ++ a ++ d ++ 0x0#8)
  | .or b a d => some (0x5#6 ++ b ++ a ++ d ++ 0x0#8)
  | .xor b a d => some (0x6#6 ++ b ++ a ++ d ++ 0x0#8)
  | .andn b a d => some (0x7#6 ++ b ++ a ++ d ++ 0x0#8)
  | .shl b a d => some (0x8#6 ++ b ++ a ++ d ++ 0x0#8)
  | .shr b a d => some (0x9#6 ++ b ++ a ++ d ++ 0x0#8)
  | .sar b a d => some (0xA#6 ++ b ++ a ++ d ++ 0x0#8)
  | .rol b a d => some (0xB#6 ++ b ++ a ++ d ++ 0x0#8)
  | .ror b a d => some (0xC#6 ++ b ++ a ++ d ++ 0x0#8)
  | .min b a d => some (0xD#6 ++ b ++ a ++ d ++ 0x0#8)
  | .max b a d => some (0xE#6 ++ b ++ a ++ d ++ 0x0#8)
  | .minn b a d => some (0xF#6 ++ b ++ a ++ d ++ 0x0#8)
  | .maxn b a d => some (0x10#6 ++ b ++ a ++ d ++ 0x0#8)
  | .addi i a d => some (i ++ a ++ d ++ 0x4#8)
  | .andi i a d => some (i ++ a ++ d ++ 0x8#8)
  | .ori i a d => some (i ++ a ++ d ++ 0xC#8)
  | .xori i a d => some (i ++ a ++ d ++ 0x10#8)
  | .shli n a d => some (0x0#6 ++ n ++ a ++ d ++ 0x14#8)
  | .shri n a d => some (0x1#6 ++ n ++ a ++ d ++ 0x14#8)
  | .sari n a d => some (0x2#6 ++ n ++ a ++ d ++ 0x14#8)
  | .mul b a d => some (0x0#6 ++ b ++ a ++ d ++ 0x18#8)
  | .mulh b a d => some (0x1#6 ++ b ++ a ++ d ++ 0x18#8)
  | .mulhn b a d => some (0x2#6 ++ b ++ a ++ d ++ 0x18#8)
  | .divs b a d => some (0x3#6 ++ b ++ a ++ d ++ 0x18#8)
  | .divn b a d => some (0x4#6 ++ b ++ a ++ d ++ 0x18#8)
  | .rems b a d => some (0x5#6 ++ b ++ a ++ d ++ 0x18#8)
  | .remn b a d => some (0x6#6 ++ b ++ a ++ d ++ 0x18#8)
  | .clz a d => some (0x0#12 ++ a ++ d ++ 0x1C#8)
  | .ctz a d => some (0x40#12 ++ a ++ d ++ 0x1C#8)
  | .ffs a d => some (0x80#12 ++ a ++ d ++ 0x1C#8)
  | .popc a d => some (0xC0#12 ++ a ++ d ++ 0x1C#8)
  | .extb l p a d => some (l ++ p ++ a ++ d ++ 0x20#8)
  | .insb l p a d => some (l ++ p ++ a ++ d ++ 0x24#8)
  | .movi i d => some (i ++ d ++ 0x28#8)
  | .movhi i d => some (i ++ d ++ 0x2C#8)
  | .sel p b a d => some (p ++ b ++ a ++ d ++ 0x30#8)
  | .cmp c b a p => some (c ++ 0x0#2 ++ b ++ a ++ p ++ 0x34#8)
  | .cmpi c i a p => some (c ++ i ++ a ++ p ++ 0x38#8)
  | .mulmod b a d => some (0x0#6 ++ b ++ a ++ d ++ 0x3C#8)
  | .addmod b a d => some (0x1#6 ++ b ++ a ++ d ++ 0x3C#8)
  | .tagp b a d => some (0x2#6 ++ b ++ a ++ d ++ 0x3C#8)
  | .pand b a d => some (0x8#6 ++ b ++ a ++ d ++ 0x3C#8)
  | .por b a d => some (0x9#6 ++ b ++ a ++ d ++ 0x3C#8)
  | .pxor b a d => some (0xA#6 ++ b ++ a ++ d ++ 0x3C#8)
  | .pnot a d => some (0x2C0#12 ++ a ++ d ++ 0x3C#8)
  | .lds i w a d => some (i ++ 0x0#1 ++ w ++ a ++ d ++ 0x40#8)
  | .sts i w a d => some (i ++ 0x0#1 ++ w ++ a ++ d ++ 0x44#8)
  | .ldg i o w a d => some (i ++ o ++ w ++ a ++ d ++ 0x48#8)
  | .stg i o w a d => some (i ++ o ++ w ++ a ++ d ++ 0x4C#8)
  | .br t => some (t ++ 0x50#15)
  | .loopb t => some (t ++ 0x4050#15)
  | .brc t c p => some (t ++ c ++ p ++ 0x54#8)
  | .call t p => some (t ++ 0x0#1 ++ p ++ 0x58#8)
  | .ret i a => some (i ++ a ++ 0x5C#14)
  | .loopset d a => some (0x0#7 ++ d ++ a ++ 0x15C#14)
  | .tchk i a => some (i ++ a ++ 0x25C#14)
  | .halt => some (0x35C#32)
  | .trap i a => some (i ++ a ++ 0x45C#14)
  | .vadd b a d f => some (b ++ a ++ d ++ f ++ 0x60#8)
  | .vmul b a d f => some (b ++ a ++ d ++ f ++ 0x64#8)
  | .vsub b a d f => some (b ++ a ++ d ++ f ++ 0x68#8)
  | .vmin b a d f => some (b ++ a ++ d ++ f ++ 0x6C#8)
  | .vmax b a d f => some (b ++ a ++ d ++ f ++ 0x70#8)
  | .vfma b a d f => some (b ++ a ++ d ++ f ++ 0x74#8)
  | .vfms b a d f => some (b ++ a ++ d ++ f ++ 0x78#8)
  | .vabs a d f => some (0x0#6 ++ a ++ d ++ f ++ 0x7C#8)
  | .vneg a d f => some (0x1#6 ++ a ++ d ++ f ++ 0x7C#8)
  | .vexp2 a d f => some (0x2#6 ++ a ++ d ++ f ++ 0x7C#8)
  | .vlog2 a d f => some (0x3#6 ++ a ++ d ++ f ++ 0x7C#8)
  | .vrcp a d f => some (0x4#6 ++ a ++ d ++ f ++ 0x7C#8)
  | .vrsq a d f => some (0x5#6 ++ a ++ d ++ f ++ 0x7C#8)
  | .vsqrt a d f => some (0x6#6 ++ a ++ d ++ f ++ 0x7C#8)
  | .vtanh a d f => some (0x7#6 ++ a ++ d ++ f ++ 0x7C#8)
  | .vsigm a d f => some (0x8#6 ++ a ++ d ++ f ++ 0x7C#8)
  | .vnot a d f => some (0x9#6 ++ a ++ d ++ f ++ 0x7C#8)
  | .vclz a d f => some (0xA#6 ++ a ++ d ++ f ++ 0x7C#8)
  | .vffs a d f => some (0xB#6 ++ a ++ d ++ f ++ 0x7C#8)
  | .vpopc a d f => some (0xC#6 ++ a ++ d ++ f ++ 0x7C#8)
  | .vand b a d w => some (b ++ a ++ d ++ 0x0#3 ++ w ++ 0x80#8)
  | .vor b a d w => some (b ++ a ++ d ++ 0x1#3 ++ w ++ 0x80#8)
  | .vxor b a d w => some (b ++ a ++ d ++ 0x2#3 ++ w ++ 0x80#8)
  | .vshl b a d w => some (b ++ a ++ d ++ 0x3#3 ++ w ++ 0x80#8)
  | .vshr b a d w => some (b ++ a ++ d ++ 0x4#3 ++ w ++ 0x80#8)
  | .vsar b a d w => some (b ++ a ++ d ++ 0x5#3 ++ w ++ 0x80#8)
  | .vcmp b a c k f => some (b ++ a ++ c ++ k ++ f ++ 0x84#8)
  | .vcvt s a d f => some (0x0#2 ++ s ++ a ++ d ++ f ++ 0x88#8)
  | .vqnt s a d f => some (0x1#2 ++ s ++ a ++ d ++ f ++ 0x88#8)
  | .vdqnt s a d f => some (0x2#2 ++ s ++ a ++ d ++ f ++ 0x88#8)
  | .vtrn a d w => some (0x0#6 ++ a ++ d ++ 0x0#3 ++ w ++ 0x8C#8)
  | .vshuf b a d w => some (b ++ a ++ d ++ 0x1#3 ++ w ++ 0x8C#8)
  | .vbcst a d w => some (0x0#6 ++ a ++ d ++ 0x2#3 ++ w ++ 0x8C#8)
  | .vmovs n d => some (0x0#9 ++ n ++ d ++ 0x188C#14)
  | .vins b a d w => some (b ++ a ++ d ++ 0x4#3 ++ w ++ 0x8C#8)
  | .vred o m a d f => some (o ++ m ++ 0x0#3 ++ a ++ d ++ f ++ 0x90#8)
  | .vsel b a d k w => some (b ++ a ++ d ++ k ++ w ++ 0x94#8)
  | .vld o a d => some (o ++ a ++ d ++ 0x98#14)
  | .vst o a d => some (o ++ a ++ d ++ 0x1098#14)
  | .vldx o a d => some (o ++ a ++ d ++ 0x2098#14)
  | .vaddmod b a d => some (b ++ a ++ d ++ 0x39C#14)
  | .vsubmod b a d => some (b ++ a ++ d ++ 0xB9C#14)
  | .vmulmod b a d => some (b ++ a ++ d ++ 0x139C#14)
  | .vbfly b a d => some (b ++ 0x0#1 ++ a ++ d ++ 0x1B9C#15)
  | .vibfly b a d => some (b ++ 0x0#1 ++ a ++ d ++ 0x239C#15)
  | .kand b a d => some (b ++ 0x0#2 ++ a ++ 0x0#2 ++ d ++ 0xA0#16)
  | .kor b a d => some (b ++ 0x0#2 ++ a ++ 0x0#2 ++ d ++ 0x8A0#16)
  | .knot a d => some (0x0#6 ++ a ++ 0x0#2 ++ d ++ 0x10A0#16)
  | .kmov a d => some (0x0#6 ++ a ++ 0x0#2 ++ d ++ 0x18A0#16)
  | .vshape i a => some (i ++ a ++ 0xA4#14)
  | .mcall r => some (r ++ 0xB0#24)
  | .mova i a d => some (0x0#4 ++ i ++ a ++ d ++ 0xB4#11)
  | .mseed a => some (0x100#12 ++ a ++ 0xB4#14)
  | .mmeta i => some (0x2#4 ++ i ++ 0xB4#20)
  | .mpair i a => some (0x3#4 ++ i ++ a ++ 0xB4#14)
  | .mclr i a => some (0x4#4 ++ i ++ a ++ 0xB4#14)
  | .mrtld i a => some (0x5#4 ++ i ++ a ++ 0xB4#14)
  | .mrdac a d => some (0x0#6 ++ a ++ d ++ 0xB8#14)
  | .mwrac a d => some (0x10#6 ++ a ++ d ++ 0xB8#14)
  | .mdrain b a c f => some (b ++ a ++ c ++ f ++ 0xBC#8)
  | .sbind i a z => some (i ++ a ++ 0x0#3 ++ z ++ 0xC0#8)
  | .sunbind z => some (0x1#21 ++ z ++ 0xC0#8)
  | .sseek i a z => some (i ++ a ++ 0x2#3 ++ z ++ 0xC0#8)
  | .ssave i a z => some (i ++ a ++ 0x3#3 ++ z ++ 0xC0#8)
  | .sload i a z => some (i ++ a ++ 0x4#3 ++ z ++ 0xC0#8)
  | .cpl c a => some (0x0#2 ++ c ++ 0x0#6 ++ a ++ 0xD0#14)
  | .cpa c b a => some (0x0#2 ++ c ++ b ++ a ++ 0x8D0#14)
  | .cpgo c => some (0x0#2 ++ c ++ 0x10D0#26)
  | .cpfp c a => some (0x0#2 ++ c ++ 0x0#6 ++ a ++ 0x18D0#14)
  | .cpcmp c a => some (0x0#2 ++ c ++ 0x0#6 ++ a ++ 0x20D0#14)
  | .cpchk c => some (0x0#2 ++ c ++ 0x28D0#26)
  | .fence b => some (b ++ 0xE0#26)
  | .aadd b a d o => some (b ++ a ++ d ++ 0x1#4 ++ o ++ 0xE0#8)
  | .amin b a d o => some (b ++ a ++ d ++ 0x2#4 ++ o ++ 0xE0#8)
  | .amax b a d o => some (b ++ a ++ d ++ 0x3#4 ++ o ++ 0xE0#8)
  | .aand b a d o => some (b ++ a ++ d ++ 0x4#4 ++ o ++ 0xE0#8)
  | .aor b a d o => some (b ++ a ++ d ++ 0x5#4 ++ o ++ 0xE0#8)
  | .axor b a d o => some (b ++ a ++ d ++ 0x6#4 ++ o ++ 0xE0#8)
  | .axchg b a d o => some (b ++ a ++ d ++ 0x7#4 ++ o ++ 0xE0#8)
  | .acas b a d o => some (b ++ 0x0#1 ++ a ++ d ++ 0x8#4 ++ o ++ 0xE0#8)
  | .ochk => some (0x24E0#32)
  | .barr a => some (0x0#12 ++ a ++ 0xE4#14)
  | .bchk a => some (0x0#12 ++ a ++ 0x8E4#14)
  | .sacq a => some (0x0#12 ++ a ++ 0x10E4#14)
  | .srel a => some (0x0#12 ++ a ++ 0x18E4#14)
  | .enq i a => some (i ++ a ++ 0x20E4#14)
  | .gsig i a => some (i ++ a ++ 0x28E4#14)
  | .lopen i a => some (i ++ a ++ 0xE8#14)
  | .lsend i a => some (i ++ a ++ 0x8E8#14)
  | .lchk n => some (n ++ 0x10E8#20)
  | .lrejoin i a => some (i ++ a ++ 0x18E8#14)
  | .xsend e v => some (0x0#10 ++ e ++ v ++ 0xEC#14)
  | .xrecv e v => some (0x0#10 ++ e ++ v ++ 0x8EC#14)
  | .csrr c d => some (c ++ 0x0#6 ++ d ++ 0xF0#8)
  | .csrw c a => some (c ++ a ++ 0xF4#14)
  | .csrs c a => some (c ++ a ++ 0x1F4#14)
  | .csrc c a => some (c ++ a ++ 0x2F4#14)
  | .dictld i a => some (i ++ a ++ 0xF8#14)
  | .step i => some (i ++ 0x8F8#20)
  | .holdOut => some (0x10F8#32)
  | .holdBar a => some (0x1#12 ++ a ++ 0x10F8#14)
  | .tlbinv i a => some (i ++ a ++ 0x18F8#14)
  | .pgrel i a => some (i ++ a ++ 0x20F8#14)
  | .pgacc i a => some (i ++ a ++ 0x28F8#14)
  | .pgattr i a => some (i ++ a ++ 0x30F8#14)
  | _ => none

/-- The index value of an index step (Table 3.1). -/
def encodeIndex : Instr → Option (BitVec 16)
  | .emptyBundle => some 0
  | .dictionaryBundle e => some (e.setWidth 16)
  | .idleRun n => some (BitVec.ofNat 16 (0xFFC0 + n - 2))
  | .literalBundle => some 0xFFFF
  | _ => none

/-- An encoded instruction with the encoding space that holds it. A memory command is written with delta 0. -/
inductive Code where
  /-- An index-store position (Table 3.1). -/
  | index (v : BitVec 16)
  /-- A one-word unit of a bundle (R61). -/
  | one (w : Word32)
  /-- A two-word unit of a bundle (R78). -/
  | two (w0 w1 : Word32)
  /-- A matrix micro-word (R82). -/
  | mx (w : Word)
  /-- A memory command word (R84). -/
  | cmd (w : Word)
  /-- A near-bank micro-word (R86). -/
  | nb (w : Word32)
  deriving DecidableEq, Repr

/-- The encoding of an instruction; events, verbs and messages have none. -/
def encode (i : Instr) : Option Code :=
  match fromMasked i with
  | some (j, k, zm) => (encodeWord j).map fun w => .two (w ||| 1#32) (k ++ zm ++ 0#27)
  | none =>
    match encodeWord i, encodeIndex i, encodeMx i, encodeCmd 0 i, encodeNb i with
    | some w, _, _, _, _ => some (.one w)
    | _, some v, _, _, _ => some (.index v)
    | _, _, some w, _, _ => some (.mx w)
    | _, _, _, some w, _ => some (.cmd w)
    | _, _, _, _, some w => some (.nb w)
    | _, _, _, _, _ => none

/-- What a decoder reads from an encoding. -/
def decode : Code → Option Instr
  | .index v => decodeIndex v
  | .one w => if isTwoWord w then none else (decodeUnit w none).toOption
  | .two w0 w1 => if isTwoWord w0 then (decodeUnit w0 (some w1)).toOption else none
  | .mx w => decodeMx w
  | .cmd w => decodeCmd w
  | .nb w => decodeNb w

/-- The host's question: the instruction read from `nbits` bits numbered as spec/opcode_table.json numbers them. The
table gives one numbering to four encoding spaces, so the width and then the order of the spaces decide: 32 bits are a
bundle word or else a near-bank word, 64 bits a two-word form, else a matrix micro-word, else a memory command (log 14). -/
def decodeTableWord (nbits w : Nat) : Option Instr :=
  if nbits == 16 then decodeIndex (BitVec.ofNat 16 w)
  else if nbits == 32 then
    match decode (.one (BitVec.ofNat 32 w)) with
    | some i => some i
    | none =>
      match decode (.nb (BitVec.ofNat 32 w)) with
      | some i => some i
      | none => decode (.two (BitVec.ofNat 32 w) 0)
  else
    match decode (.two (BitVec.ofNat 32 w) (BitVec.ofNat 32 (w / 2 ^ 32))) with
    | some i => some i
    | none =>
      match decode (.mx (BitVec.ofNat 64 w)) with
      | some i => some i
      | none => decode (.cmd (BitVec.ofNat 64 w))

end Sys2Proof
end

