-- ==== Sys2Proof/Machine/Event.lean ====
section
/-! DEFINITION. The steps that are not words: what the machine schedules for itself and what arrives from outside. Lean's
runtime cannot build a constructor with fields beyond the 244th, so the schedule holds these names, and `Event.toInstr`
gives the instruction that runs (log 15). -/

namespace Sys2Proof

/-- One event, verb or message of spec/opcode_table.json. -/
inductive Event where
  | controlTransfer
  | loopbBoundaryWrites
  | resultLand
  | scalarStorePerform
  | vectorStorePerform
  | dieTransferArrival
  | bTileLand
  | accumulatorRowLand
  | exchangeRowLand
  | mdrainRowWrite
  | routineCompletion
  | copySectorRead
  | copySectorWrite
  | copyDataComplete
  | copyDigestWrite
  | copyResultWrite
  | copyCompletion
  | rdlLineLand
  | wrlDataWritten
  | refreshEnd (pch : BitVec 6)
  | lturnComplete (pch : BitVec 6)
  | serviceSlot (pch : BitVec 6) (slot : Nat)
  | serviceWindowEnd (pch : BitVec 6)
  | engineOutputWrite
  | refreshDebtTick
  | nearBankIssueStart (pch : BitVec 6)
  | nearBankIssueEnd (pch : BitVec 6)
  | nbfenceCommitEnd (pch : BitVec 6)
  | serviceRequestArrival (id : Nat)
  | serviceAccessPerform (id : Nat)
  | hostMemoryRequest (write : Bool) (addr : Nat) (len : Nat) (data : Bytes)
  | compressedBlockWriteback (block : Nat)
  | barrierArrivalCount (kernel : Nat)
  | stageOperationCount (kernel : Nat)
  | signalPublish (kernel : Nat) (word : Nat)
  | qtailWrite (qi : Nat) (value : BitVec 64)
  | hostRegisterWrite (offset : Nat) (value : BitVec 64)
  | queueHeadValidation (qi : Nat)
  | stagePatchEntry (qi : Nat)
  | markerEntry (qi : Nat)
  | graphReplayStart (qi : Nat)
  | launchAdmission
  | kernelStart (kernel : Nat)
  | stepPointHold (kernel : Nat)
  | holdRelease (kernel : Nat)
  | holdTimeout (kernel : Nat)
  | dutyHoldExpiry (kernel : Nat)
  | operatingPointChange (num : Nat) (den : Nat)
  | kernelCompletion (kernel : Nat)
  | successorAppend (kernel : Nat)
  | forcedPreemption (kernel : Nat) (boundary : Nat)
  | stepPointPreemption (kernel : Nat)
  | firmwareStopHandling (kernel : Nat)
  | saveCompletion (kernel : Nat)
  | saveOutstandingTimeout (kernel : Nat)
  | restore (kernel : Nat)
  | resume (kernel : Nat)
  | stackHandoverToHold
  | stackHandBack
  | faultResolution (kernel : Nat)
  | pageRequestPerform
  | tlbinvDieAck (die : Nat)
  | scrubCompletion (frame : Nat)
  | layerGroupRetire (stack : Nat) (group : Nat)
  | layerGroupReturn (stack : Nat) (group : Nat)
  | flitTransferData (f : Flit)
  | flitWindowOpen (w : WindowOpen)
  | flitAcknowledgement (xfer : BitVec 24)
  | flitChecksumFailure (xfer : BitVec 24)
  | flitHold (steps : List (Nat × Nat))
  | flitRejoin (coll : Nat) (step : Nat)
  | flitRejoinAnswer (accepted : Bool)
  | flitSpace5Request (r : PeerRequest)
  | flitSpace5Answer (id : Nat) (status : BitVec 8) (data : BitVec 64)
  | flitRefusal (xfer : BitVec 24)
  | flitNak (seq : BitVec 64)
  | portTrainingStart
  | portTrained (module : Nat) (modules : Nat)
  | portKeyed (secrets : Bytes) (chainOk : Bool) (fwmeas : Bytes)
  | portFaultRekey (secrets : Bytes)
  | portLossOfSignal
  | dieLinkUncorrectable (dieA : Nat) (dieB : Nat)
  | sramUncorrectableError (die : Nat) (store : Nat) (address : Nat)
  | gnomonSyncLost (die : Nat)
  | clusterFailure (rank : Nat)
  | supplyReport (supply : SupplyState) (granted : Nat) (reserve : Nat)
  | thermalSample (die : Nat) (theta : Int)
  | powerFailWarning
  | supplySag
  | unshed
  | drainCompletion
  | manifestSeal
  | reserveExhausted
  | drainBudgetAgeing
  | packageReset
  | dieCoreReset (die : Nat)
  | dieUncoreReset (die : Nat)
  | start
  | replayCompletion
  | identify (h : Req) (body : Bytes)
  | configDigest (h : Req) (body : Bytes)
  | createContext (h : Req) (body : Bytes)
  | loadKernel (h : Req) (body : Bytes)
  | offerPage (h : Req) (body : Bytes)
  | releaseRequest (h : Req) (body : Bytes)
  | reclaimForce (h : Req) (body : Bytes)
  | submit (h : Req) (body : Bytes)
  | queryQueue (h : Req) (body : Bytes)
  | hibernateNow (h : Req) (body : Bytes)
  | resumeVerb (h : Req) (body : Bytes)
  | attestSession (h : Req) (body : Bytes)
  | scrubReset (h : Req) (body : Bytes)
  | destroyContext (h : Req) (body : Bytes)
  | mapPage (h : Req) (body : Bytes)
  | unmapPage (h : Req) (body : Bytes)
  | setAttr (h : Req) (body : Bytes)
  | clearFailed (h : Req) (body : Bytes)
  | readSlot (h : Req) (body : Bytes)
  | readHk (offset : Nat) (count : Nat)
  | keyExchange (requester : Nat) (key : Option Bytes)
  | getMeasurements (session : Nat) (index : Nat) (nonce : Bytes)
  | streamRecordWrite
  | hostAccessCompletion (id : Nat) (error : Bool) (data : BitVec 64)
  | capacityTierAccessCompletion (id : Nat)
  | hostOfferWithdrawal (frame : Nat)
  | uncorrectableFlit (seq : BitVec 64) (why : FlitTrouble)
  | hostLinkStateChange (status : HostLinkState)
  | unknownVerbRequest (verb : BitVec 16) (h : Req)
  | algorithmNegotiation (requester : Nat) (version : BitVec 8) (base : Bool × Bool) (keying : Bool × Bool)
  | mctpControlMessage (body : Bytes)
  deriving DecidableEq, Repr

/-- The instruction of an event. -/
noncomputable def Event.toInstr : Event → Instr
  | .controlTransfer => .controlTransfer
  | .loopbBoundaryWrites => .loopbBoundaryWrites
  | .resultLand => .resultLand
  | .scalarStorePerform => .scalarStorePerform
  | .vectorStorePerform => .vectorStorePerform
  | .dieTransferArrival => .dieTransferArrival
  | .bTileLand => .bTileLand
  | .accumulatorRowLand => .accumulatorRowLand
  | .exchangeRowLand => .exchangeRowLand
  | .mdrainRowWrite => .mdrainRowWrite
  | .routineCompletion => .routineCompletion
  | .copySectorRead => .copySectorRead
  | .copySectorWrite => .copySectorWrite
  | .copyDataComplete => .copyDataComplete
  | .copyDigestWrite => .copyDigestWrite
  | .copyResultWrite => .copyResultWrite
  | .copyCompletion => .copyCompletion
  | .rdlLineLand => .rdlLineLand
  | .wrlDataWritten => .wrlDataWritten
  | .refreshEnd pch => .refreshEnd pch
  | .lturnComplete pch => .lturnComplete pch
  | .serviceSlot pch slot => .serviceSlot pch slot
  | .serviceWindowEnd pch => .serviceWindowEnd pch
  | .engineOutputWrite => .engineOutputWrite
  | .refreshDebtTick => .refreshDebtTick
  | .nearBankIssueStart pch => .nearBankIssueStart pch
  | .nearBankIssueEnd pch => .nearBankIssueEnd pch
  | .nbfenceCommitEnd pch => .nbfenceCommitEnd pch
  | .serviceRequestArrival id => .serviceRequestArrival id
  | .serviceAccessPerform id => .serviceAccessPerform id
  | .hostMemoryRequest write addr len data => .hostMemoryRequest write addr len data
  | .compressedBlockWriteback block => .compressedBlockWriteback block
  | .barrierArrivalCount kernel => .barrierArrivalCount kernel
  | .stageOperationCount kernel => .stageOperationCount kernel
  | .signalPublish kernel word => .signalPublish kernel word
  | .qtailWrite qi value => .qtailWrite qi value
  | .hostRegisterWrite offset value => .hostRegisterWrite offset value
  | .queueHeadValidation qi => .queueHeadValidation qi
  | .stagePatchEntry qi => .stagePatchEntry qi
  | .markerEntry qi => .markerEntry qi
  | .graphReplayStart qi => .graphReplayStart qi
  | .launchAdmission => .launchAdmission
  | .kernelStart kernel => .kernelStart kernel
  | .stepPointHold kernel => .stepPointHold kernel
  | .holdRelease kernel => .holdRelease kernel
  | .holdTimeout kernel => .holdTimeout kernel
  | .dutyHoldExpiry kernel => .dutyHoldExpiry kernel
  | .operatingPointChange num den => .operatingPointChange num den
  | .kernelCompletion kernel => .kernelCompletion kernel
  | .successorAppend kernel => .successorAppend kernel
  | .forcedPreemption kernel boundary => .forcedPreemption kernel boundary
  | .stepPointPreemption kernel => .stepPointPreemption kernel
  | .firmwareStopHandling kernel => .firmwareStopHandling kernel
  | .saveCompletion kernel => .saveCompletion kernel
  | .saveOutstandingTimeout kernel => .saveOutstandingTimeout kernel
  | .restore kernel => .restore kernel
  | .resume kernel => .resume kernel
  | .stackHandoverToHold => .stackHandoverToHold
  | .stackHandBack => .stackHandBack
  | .faultResolution kernel => .faultResolution kernel
  | .pageRequestPerform => .pageRequestPerform
  | .tlbinvDieAck die => .tlbinvDieAck die
  | .scrubCompletion frame => .scrubCompletion frame
  | .layerGroupRetire stack group => .layerGroupRetire stack group
  | .layerGroupReturn stack group => .layerGroupReturn stack group
  | .flitTransferData f => .flitTransferData f
  | .flitWindowOpen w => .flitWindowOpen w
  | .flitAcknowledgement xfer => .flitAcknowledgement xfer
  | .flitChecksumFailure xfer => .flitChecksumFailure xfer
  | .flitHold steps => .flitHold steps
  | .flitRejoin coll step => .flitRejoin coll step
  | .flitRejoinAnswer accepted => .flitRejoinAnswer accepted
  | .flitSpace5Request r => .flitSpace5Request r
  | .flitSpace5Answer id status data => .flitSpace5Answer id status data
  | .flitRefusal xfer => .flitRefusal xfer
  | .flitNak seq => .flitNak seq
  | .portTrainingStart => .portTrainingStart
  | .portTrained module modules => .portTrained module modules
  | .portKeyed secrets chainOk fwmeas => .portKeyed secrets chainOk fwmeas
  | .portFaultRekey secrets => .portFaultRekey secrets
  | .portLossOfSignal => .portLossOfSignal
  | .dieLinkUncorrectable dieA dieB => .dieLinkUncorrectable dieA dieB
  | .sramUncorrectableError die store address => .sramUncorrectableError die store address
  | .gnomonSyncLost die => .gnomonSyncLost die
  | .clusterFailure rank => .clusterFailure rank
  | .supplyReport supply granted reserve => .supplyReport supply granted reserve
  | .thermalSample die theta => .thermalSample die theta
  | .powerFailWarning => .powerFailWarning
  | .supplySag => .supplySag
  | .unshed => .unshed
  | .drainCompletion => .drainCompletion
  | .manifestSeal => .manifestSeal
  | .reserveExhausted => .reserveExhausted
  | .drainBudgetAgeing => .drainBudgetAgeing
  | .packageReset => .packageReset
  | .dieCoreReset die => .dieCoreReset die
  | .dieUncoreReset die => .dieUncoreReset die
  | .start => .start
  | .replayCompletion => .replayCompletion
  | .identify h body => .identify h body
  | .configDigest h body => .configDigest h body
  | .createContext h body => .createContext h body
  | .loadKernel h body => .loadKernel h body
  | .offerPage h body => .offerPage h body
  | .releaseRequest h body => .releaseRequest h body
  | .reclaimForce h body => .reclaimForce h body
  | .submit h body => .submit h body
  | .queryQueue h body => .queryQueue h body
  | .hibernateNow h body => .hibernateNow h body
  | .resumeVerb h body => .resumeVerb h body
  | .attestSession h body => .attestSession h body
  | .scrubReset h body => .scrubReset h body
  | .destroyContext h body => .destroyContext h body
  | .mapPage h body => .mapPage h body
  | .unmapPage h body => .unmapPage h body
  | .setAttr h body => .setAttr h body
  | .clearFailed h body => .clearFailed h body
  | .readSlot h body => .readSlot h body
  | .readHk offset count => .readHk offset count
  | .keyExchange requester key => .keyExchange requester key
  | .getMeasurements session index nonce => .getMeasurements session index nonce
  | .streamRecordWrite => .streamRecordWrite
  | .hostAccessCompletion id error data => .hostAccessCompletion id error data
  | .capacityTierAccessCompletion id => .capacityTierAccessCompletion id
  | .hostOfferWithdrawal frame => .hostOfferWithdrawal frame
  | .uncorrectableFlit seq why => .uncorrectableFlit seq why
  | .hostLinkStateChange status => .hostLinkStateChange status
  | .unknownVerbRequest verb h => .unknownVerbRequest verb h
  | .algorithmNegotiation requester version base keying => .algorithmNegotiation requester version base keying
  | .mctpControlMessage body => .mctpControlMessage body

end Sys2Proof
end

