-- ==== Sys2Proof/Machine/Num.lean ====
section
/-! DEFINITION. Number formats and exact arithmetic (chapter 02, R28 to R52): floating values as exact dyadic numbers,
one rounding with its flags, integer corners, modular arithmetic, block scales, and the correctly rounded
transcendentals of R146. -/

namespace Sys2Proof

/-- The flag bits of FFLAGS (Table 2.7). -/
abbrev Flags := BitVec 6
/-- Invalid operation. -/
def fNV : Flags := 1
/-- Division of a finite non-zero number by zero. -/
def fDZ : Flags := 2
/-- Overflow. -/
def fOF : Flags := 4
/-- Underflow. -/
def fUF : Flags := 8
/-- Inexact. -/
def fNX : Flags := 16
/-- Saturated. -/
def fSX : Flags := 32

/-- A flag when a condition holds. -/
def flagIf (c : Bool) (f : Flags) : Flags := if c then f else 0

/-- A floating value: NaN (signalling or quiet), an infinity, or (-1)^neg × m × 2^e exactly. Zero keeps its sign. -/
inductive FVal where
  | nan (signalling : Bool)
  | inf (neg : Bool)
  | fin (neg : Bool) (m : Nat) (e : Int)
  deriving DecidableEq, Repr

/-- Layout of a floating format (Table 2.4): exponent and mantissa widths and bias. -/
structure FmtInfo where
  ebits : Nat
  mbits : Nat
  bias : Int
  deriving DecidableEq, Repr

/-- Table 2.4 by format code. -/
def fmtInfo (f : Nat) : FmtInfo :=
  match f with
  | 0 => ⟨8, 23, 127⟩
  | 1 => ⟨8, 7, 127⟩
  | 2 => ⟨5, 10, 15⟩
  | 3 => ⟨4, 3, 7⟩
  | 4 => ⟨5, 2, 15⟩
  | _ => ⟨2, 1, 1⟩

/-- Largest finite magnitude pattern (Table 2.4). -/
def maxFinite (f : Nat) : Nat :=
  match f with
  | 0 => 0x7F7FFFFF | 1 => 0x7F7F | 2 => 0x7BFF | 3 => 0x7E | 4 => 0x7B | _ => 0x7
/-- Canonical NaN pattern (Table 2.4); .e2m1 has none and encodes NaN as +0 (R38). -/
def canonNaN (f : Nat) : Nat :=
  match f with
  | 0 => 0x7FC00000 | 1 => 0x7FC0 | 2 => 0x7E00 | 3 => 0x7F | 4 => 0x7E | _ => 0
/-- Infinity pattern; .e4m3 and .e2m1 have none. -/
def infPattern (f : Nat) : Nat :=
  match f with
  | 0 => 0x7F800000 | 1 => 0x7F80 | 2 => 0x7C00 | 4 => 0x7C | _ => 0
/-- Formats with an infinity. -/
def hasInf (f : Nat) : Bool := f ≤ 2 || f == 4

/-- The sign bit placed over a magnitude pattern. -/
def withSign (f : Nat) (neg : Bool) (bits : Nat) : Nat :=
  if neg then bits + 2 ^ (fmtWidth f - 1) else bits

/-- The value of a pattern of a floating format (R31, R32), or of an .e8m0 scale (R42). -/
def decodeF (f : Nat) (bits : Nat) : FVal :=
  if f == 6 then
    if bits == 0xFF then .nan false else .fin false 1 ((bits : Int) - 127)
  else
    let i := fmtInfo f
    let neg := bits / 2 ^ (i.ebits + i.mbits) % 2 == 1
    let ex := bits / 2 ^ i.mbits % 2 ^ i.ebits
    let mant := bits % 2 ^ i.mbits
    if f == 3 && bits % 128 == 127 then .nan false
    else if hasInf f && ex == 2 ^ i.ebits - 1 then
      if mant == 0 then .inf neg else .nan (mant / 2 ^ (i.mbits - 1) == 0)
    else if ex == 0 then .fin neg mant (1 - i.bias - i.mbits)
    else .fin neg (mant + 2 ^ i.mbits) ((ex : Int) - i.bias - i.mbits)

/-- Whether a truncated magnitude `k` with remainder `rem` of `2 ^ shift` (and a sticky tail below) rounds up by the mode
of Table 2.5, with the draw `u` of R39 for mode 5. -/
def roundsUp (mode : Nat) (neg : Bool) (u k rem shift : Nat) (sticky : Bool) : Bool :=
  let inexact := rem != 0 || sticky
  let half := 2 ^ (shift - 1)
  match mode with
  | 0 => decide (half < rem) || (rem == half && (sticky || k % 2 == 1))
  | 1 => false
  | 2 => !neg && inexact
  | 3 => neg && inexact
  | 4 => decide (half ≤ rem)
  | _ => decide (u < rem * 2 ^ 16 / 2 ^ shift)

/-- The magnitude m × 2^e (with a sticky tail) rounded to a multiple of 2^q: the multiple, and whether it is inexact. -/
def roundAt (mode : Nat) (neg : Bool) (u m : Nat) (e q : Int) (sticky : Bool) : Nat × Bool :=
  if q ≤ e then (m * 2 ^ (e - q).toNat, sticky)
  else
    let shift := (q - e).toNat
    let k := m / 2 ^ shift
    let rem := m % 2 ^ shift
    ((if roundsUp mode neg u k rem shift sticky then k + 1 else k), rem != 0 || sticky)

/-- The result of an overflow (R37, R38). -/
def overflowResult (f mode : Nat) (sat neg : Bool) : Nat × Flags :=
  let s := sat || f == 5
  let toInf := mode == 0 || mode == 4 || mode == 5 || (mode == 2 && !neg) || (mode == 3 && neg)
  if s || !toInf then (withSign f neg (maxFinite f), fOF ||| fNX ||| flagIf s fSX)
  else if hasInf f then (withSign f neg (infPattern f), fOF ||| fNX)
  else (canonNaN f, fOF ||| fNX)

/-- R37: the rounding of a finite value into format `f`, saturated by R38, with its flags. A sticky tail stands for a
positive amount below the last bit of `m`. -/
def roundFin (f mode : Nat) (sat : Bool) (u : Nat) (neg : Bool) (m : Nat) (e : Int) (sticky : Bool) : Nat × Flags :=
  if m == 0 && !sticky then (withSign f neg 0, 0) else
  let (m, e) := if m == 0 then (1, e - 1) else (m, e)
  let i := fmtInfo f
  let emin : Int := 1 - i.bias - i.mbits
  let qn : Int := (m.log2 : Int) + e - i.mbits
  let q := if qn < emin then emin else qn
  let (k, inexact) := roundAt mode neg u m e q sticky
  let bits := (q - emin).toNat * 2 ^ i.mbits + k
  if maxFinite f < bits then overflowResult f mode sat neg else
  let tiny := qn < emin &&
    (let (k', _) := roundAt mode neg u m e qn sticky
     decide (qn + (if k' == 2 ^ (i.mbits + 1) then 1 else 0) < emin))
  (withSign f neg bits, flagIf inexact fNX ||| flagIf (tiny && inexact) fUF)

/-- R33, R37, R38: any value into a floating format. -/
def roundVal (f mode : Nat) (sat : Bool) (u : Nat) : FVal → Nat × Flags
  | .nan s => (canonNaN f, flagIf (s || f == 5) fNV)
  | .inf neg =>
    if f == 5 then (withSign f neg (maxFinite f), fNV ||| fSX)
    else if f == 3 then
      if sat then (withSign f neg (maxFinite f), fNV ||| fSX) else (canonNaN f, fNV)
    else if sat then (withSign f neg (maxFinite f), fSX) else (withSign f neg (infPattern f), 0)
  | .fin neg m e => roundFin f mode sat u neg m e false

/-- NaN among the operands: the quiet NaN result and NV for a signalling one. -/
def FVal.isNaN : FVal → Bool
  | .nan _ => true
  | _ => false
/-- A signalling NaN. -/
def FVal.isSNaN : FVal → Bool
  | .nan s => s
  | _ => false
/-- Zero of either sign. -/
def FVal.isZero : FVal → Bool
  | .fin _ m _ => m == 0
  | _ => false
/-- The value with its sign inverted. -/
def FVal.negate : FVal → FVal
  | .nan s => .nan s
  | .inf n => .inf !n
  | .fin n m e => .fin (!n) m e

/-- The signed integer of a magnitude. -/
def signed (neg : Bool) (m : Nat) : Int := if neg then -(m : Int) else m

/-- Exact sum of two finite values. The sign of an exact zero sum follows IEEE 754 (R34): negative only when both are
negative zeros, or under `rdn` when the signs differ. -/
def addFin (mode : Nat) (n1 : Bool) (m1 : Nat) (e1 : Int) (n2 : Bool) (m2 : Nat) (e2 : Int) : FVal :=
  let e := if e1 ≤ e2 then e1 else e2
  let s := signed n1 (m1 * 2 ^ (e1 - e).toNat) + signed n2 (m2 * 2 ^ (e2 - e).toNat)
  if s == 0 then .fin (if n1 == n2 && m1 == 0 && m2 == 0 then n1 else mode == 3) 0 0
  else .fin (decide (s < 0)) s.natAbs e

/-- Addition with the flags of R33. -/
def fAdd (mode : Nat) (x y : FVal) : FVal × Flags :=
  let nv := flagIf (x.isSNaN || y.isSNaN) fNV
  match x, y with
  | .nan _, _ => (.nan false, nv)
  | _, .nan _ => (.nan false, nv)
  | .inf a, .inf b => if a == b then (.inf a, 0) else (.nan false, fNV)
  | .inf a, _ => (.inf a, 0)
  | _, .inf b => (.inf b, 0)
  | .fin n1 m1 e1, .fin n2 m2 e2 => (addFin mode n1 m1 e1 n2 m2 e2, 0)

/-- Exact multiplication with the flags of R33. -/
def fMul (x y : FVal) : FVal × Flags :=
  let nv := flagIf (x.isSNaN || y.isSNaN) fNV
  match x, y with
  | .nan _, _ => (.nan false, nv)
  | _, .nan _ => (.nan false, nv)
  | .inf a, .inf b => (.inf (a != b), 0)
  | .inf a, .fin b m _ => if m == 0 then (.nan false, fNV) else (.inf (a != b), 0)
  | .fin a m _, .inf b => if m == 0 then (.nan false, fNV) else (.inf (a != b), 0)
  | .fin n1 m1 e1, .fin n2 m2 e2 => (.fin (n1 != n2) (m1 * m2) (e1 + e2), 0)

/-- Fused multiply-add: exact product, one rounding; 0 × ∞ is invalid whatever the addend (R143). -/
def fFma (mode : Nat) (x y z : FVal) : FVal × Flags :=
  let (p, f1) := fMul x y
  let (r, f2) := fAdd mode p z
  (r, f1 ||| f2)

/-- Order of two finite values. -/
def finLt (n1 : Bool) (m1 : Nat) (e1 : Int) (n2 : Bool) (m2 : Nat) (e2 : Int) : Bool :=
  let e := if e1 ≤ e2 then e1 else e2
  decide (signed n1 (m1 * 2 ^ (e1 - e).toNat) < signed n2 (m2 * 2 ^ (e2 - e).toNat))

/-- Numeric order of two values, NaN unordered, zeros equal. -/
def fLt : FVal → FVal → Bool
  | .nan _, _ => false
  | _, .nan _ => false
  | .inf a, .inf b => a && !b
  | .inf a, .fin .. => a
  | .fin .., .inf b => !b
  | .fin n1 m1 e1, .fin n2 m2 e2 => finLt n1 m1 e1 n2 m2 e2

/-- Whether the value is negative, −0 included. -/
def FVal.isNeg : FVal → Bool
  | .nan _ => false
  | .inf n => n
  | .fin n _ _ => n

/-- Order used by minimumNumber and maximumNumber: −0 below +0 (R34). -/
def fLtTotal (x y : FVal) : Bool :=
  if x.isZero && y.isZero then x.isNeg && !y.isNeg else fLt x y

/-- minimumNumber or maximumNumber of two patterns of format `f` (R34): a pattern and NV for a signalling NaN. -/
def fMinMax (isMax : Bool) (f a b : Nat) : Nat × Flags :=
  let x := decodeF f a
  let y := decodeF f b
  let nv := flagIf (x.isSNaN || y.isSNaN) fNV
  let r := if x.isNaN && y.isNaN then canonNaN f
    else if x.isNaN then b
    else if y.isNaN then a
    else if isMax then (if fLtTotal x y then b else a)
    else (if fLtTotal y x then b else a)
  (r, nv)

/-- Two's complement reading of the low `w` bits. -/
def sval (w a : Nat) : Int :=
  let x := a % 2 ^ w
  if 2 ^ (w - 1) ≤ x then (x : Int) - 2 ^ w else x

/-- The reading of an element of an integer format (R28): signed for .i codes, unsigned for .n codes. -/
def intVal (f a : Nat) : Int := if isSignedIn f then sval (fmtWidth f) a else ((a % 2 ^ fmtWidth f : Nat) : Int)

/-- trunc: reduction modulo 2^w (R28). -/
def truncInt (w : Nat) (x : Int) : Nat := (x % 2 ^ w).toNat

/-- Least value of an integer format (Table 2.1). -/
def intMin (f : Nat) : Int := if isSignedIn f then -2 ^ (fmtWidth f - 1) else 0
/-- Greatest value of an integer format (Table 2.1). -/
def intMax (f : Nat) : Int := if isSignedIn f then 2 ^ (fmtWidth f - 1) - 1 else 2 ^ fmtWidth f - 1

/-- sat: clamping to the format's range, with SX when it clamps (R28). -/
def satInt (f : Nat) (x : Int) : Nat × Flags :=
  if x < intMin f then (truncInt (fmtWidth f) (intMin f), fSX)
  else if intMax f < x then (truncInt (fmtWidth f) (intMax f), fSX)
  else (truncInt (fmtWidth f) x, 0)

/-- An integer result, truncated or saturated (R28). -/
def intResult (f : Nat) (sat : Bool) (x : Int) : Nat × Flags :=
  if sat then satInt f x else (truncInt (fmtWidth f) x, 0)

/-- R35: a floating value to an integer format, always saturated; NaN gives 0. -/
def floatToInt (f mode u : Nat) : FVal → Nat × Flags
  | .nan _ => (0, fNV)
  | .inf n => (truncInt (fmtWidth f) (if n then intMin f else intMax f), fNV)
  | .fin n m e =>
    let (k, inexact) := roundAt mode n u m e 0 false
    let x := signed n k
    if x < intMin f then (truncInt (fmtWidth f) (intMin f), fNV)
    else if intMax f < x then (truncInt (fmtWidth f) (intMax f), fNV)
    else (truncInt (fmtWidth f) x, flagIf inexact fNX)

/-- The bit length of `x` within `w` bits, counted from the top: leading zeros (R30). -/
def clzNat (w x : Nat) : Nat := if x % 2 ^ w == 0 then w else w - 1 - (x % 2 ^ w).log2
/-- Position of the lowest set bit, searched through `n` bits from `k`. -/
def lowestFrom (x : Nat) : Nat → Nat → Option Nat
  | _, 0 => none
  | k, n + 1 => if x.testBit k then some k else lowestFrom x (k + 1) n
/-- Trailing zeros (R30). -/
def ctzNat (w x : Nat) : Nat := (lowestFrom x 0 w).getD w
/-- Find first set, 1-based, 0 for zero (R30). -/
def ffsNat (w x : Nat) : Nat :=
  match lowestFrom x 0 w with
  | some k => k + 1
  | none => 0
/-- Population count (R30). -/
def popcNat (w x : Nat) : Nat := (List.range w).foldl (fun n k => if x.testBit k then n + 1 else n) 0

/-- addmod of R51. -/
def addmod (q a b : Nat) : Nat := (a + b) % q
/-- submod of R51, the non-negative residue. -/
def submod (q a b : Nat) : Nat := (((a : Int) - b) % q).toNat
/-- mulmod of R51, the Montgomery product, taken exactly whatever QINV holds. -/
def mulmod (q qinv a b : Nat) : Nat :=
  let t := a * b
  let m := t % 2 ^ 64 * qinv % 2 ^ 64
  (t + m * q) / 2 ^ 64 % q

/-- The generator step of R39. -/
def nextG (g : BitVec 64) : BitVec 64 :=
  let g := g ^^^ (g <<< 13)
  let g := g ^^^ (g >>> 7)
  g ^^^ (g <<< 17)

/-- `n` draws in ascending order: the sixteen-bit values and the generator after them (R39, R40). -/
def draws (g : BitVec 64) : Nat → List Nat × BitVec 64
  | 0 => ([], g)
  | n + 1 =>
    let g := nextG g
    let (us, g') := draws g n
    ((g.extractLsb' 48 16).toNat :: us, g')

/-- floor(log2) of a non-zero finite magnitude. -/
def floorLog2 (m : Nat) (e : Int) : Int := (m.log2 : Int) + e

/-- The larger magnitude of two finite values, as (m, e). -/
def maxMag (a b : Nat × Int) : Nat × Int :=
  if finLt false a.1 a.2 false b.1 b.2 then b else a

/-- E of R44. -/
def scaleE (f : Nat) : Int := if f == 3 then 8 else if f == 4 then 15 else 2

/-- R44: the scale of a block from its real elements, and the flags of a block with a NaN or an infinity. -/
def blockScale (f : Nat) (xs : List FVal) : Nat × Flags :=
  if xs.any fun x => match x with | .fin .. => false | _ => true then
    (0xFF, flagIf (xs.any fun x => match x with | .inf _ => true | .nan s => s | _ => false) fNV)
  else
    let m := xs.foldl (fun a x => match x with | .fin _ m e => maxMag a (m, e) | _ => a) (0, 0)
    if m.1 == 0 then (0x7F, 0) else
    let e := floorLog2 m.1 m.2 - scaleE f + 127
    ((if e < 0 then 0 else if 254 < e then 254 else e.toNat), 0)

/-- The value × 2^k, exactly. -/
def FVal.scale (x : FVal) (k : Int) : FVal :=
  match x with
  | .fin n m e => .fin n m (e + k)
  | x => x

/-- R43: an element under its .e8m0 scale. -/
def decodeScaled (f bits sc : Nat) : FVal :=
  if sc == 0xFF then .nan false else (decodeF f bits).scale ((sc : Int) - 127)

/-- R44: an element of a block rounded under the block's scale, always saturated; a block of scale 0xFF writes zeros. -/
def quantElem (f mode u sc : Nat) (x : FVal) : Nat × Flags :=
  if sc == 0xFF then (0, 0) else roundVal f mode true u (x.scale (127 - (sc : Int)))

/-- R49: the three .bf16 terms of an .f32 value. -/
def splitTerms (x : FVal) : List FVal :=
  match x with
  | .fin .. =>
    let r := fun (mode : Nat) (y : FVal) => decodeF 1 (roundVal 1 mode false 0 y).1
    let x0 := r 1 x
    let d1 := (fAdd 0 x x0.negate).1
    let x1 := r 1 d1
    let d2 := (fAdd 0 d1 x1.negate).1
    [x0, x1, r 0 d2]
  | x => [x, .fin false 0 0, .fin false 0 0]

/-- An exact sum of products (R47) with invalid products noted: terms are summed without a sign of zero. -/
structure ExactSum where
  num : Int
  exp : Int
  nan : Bool
  posInf : Bool
  negInf : Bool
  invalid : Bool
  deriving DecidableEq, Repr

/-- The empty sum. -/
def ExactSum.zero : ExactSum := ⟨0, 0, false, false, false, false⟩

/-- A term joins the sum. -/
def ExactSum.addVal (s : ExactSum) (x : FVal) : ExactSum :=
  match x with
  | .nan sg => { s with nan := true, invalid := s.invalid || sg }
  | .inf n => if n then { s with negInf := true } else { s with posInf := true }
  | .fin n m e =>
    if m == 0 then s
    else if s.exp ≤ e then { s with num := s.num + signed n (m * 2 ^ (e - s.exp).toNat) }
    else { s with num := s.num * 2 ^ (s.exp - e).toNat + signed n m, exp := e }

/-- A product joins the sum; 0 × ∞ and a signalling NaN are invalid. -/
def ExactSum.addProd (s : ExactSum) (x y : FVal) : ExactSum :=
  let (p, fl) := fMul x y
  let s := s.addVal p
  { s with invalid := s.invalid || fl != 0 }

/-- The value of a sum and NV where an invalid product or ∞ − ∞ took part. Zero is +0 (R47). -/
def ExactSum.value (s : ExactSum) : FVal × Flags :=
  let bad := s.posInf && s.negInf
  let nv := flagIf (s.invalid || bad) fNV
  if s.nan || bad then (.nan false, nv)
  else if s.posInf then (.inf false, nv)
  else if s.negInf then (.inf true, nv)
  else (.fin (decide (s.num < 0)) s.num.natAbs s.exp, nv)

/-! Transcendentals (R146). A value that is not exactly representable is computed to `trK` fraction bits, far beyond the
hardest case of a 32-bit operand, and rounded once with a sticky tail (DEDUCED, log 16). -/

/-- Fraction bits of the fixed-point computations. -/
def trK : Nat := 640

/-- Integer square root by bits: the greatest r with r² ≤ n, deciding `k` bits from the top. -/
def isqrtBits (n : Nat) : Nat → Nat → Nat
  | 0, r => r
  | k + 1, r =>
    let r' := r + 2 ^ k
    isqrtBits n k (if r' * r' ≤ n then r' else r)
/-- Integer square root. -/
def isqrt (n : Nat) : Nat := isqrtBits n (n.log2 / 2 + 1) 0

/-- ln 2 in units of 2^-(trK+32): the sum of 1/(k 2^k). -/
def ln2Fix : Nat :=
  (List.range (trK + 32)).foldl (fun s k => s + 2 ^ (trK + 32) / ((k + 1) * 2 ^ (k + 1))) 0

/-- The terms y^n / n! of the exponential series, y in units of 2^-(trK+32). -/
def expSeries (y : Nat) : Nat → Nat → Nat → Nat
  | 0, _, _ => 0
  | fuel + 1, n, term => term + expSeries y fuel (n + 1) (term * y / 2 ^ (trK + 32) / (n + 1))

/-- 2^r for r in [0, 1), both in units of 2^-(trK+32). -/
def exp2Frac (r : Nat) : Nat := expSeries (r * ln2Fix / 2 ^ (trK + 32)) 160 0 (2 ^ (trK + 32))

/-- 2^t for t in units of 2^-(trK+32): a mantissa in units of 2^-(trK+32) and an exponent. -/
def exp2Fix (t : Int) : Nat × Int := (exp2Frac (t % 2 ^ (trK + 32)).toNat, t / 2 ^ (trK + 32))

/-- The odd terms z^(2k+1)/(2k+1) of the inverse hyperbolic tangent, z in units of 2^-(trK+32). -/
def atanhSeries (z2 : Nat) : Nat → Nat → Nat → Nat
  | 0, _, _ => 0
  | fuel + 1, k, term => term / (2 * k + 1) + atanhSeries z2 fuel (k + 1) (term * z2 / 2 ^ (trK + 32))

/-- log2 of m in [1, 2), m = a / 2^b, in units of 2^-(trK+32). -/
def log2Frac (a b : Nat) : Nat :=
  let z := (a - 2 ^ b) * 2 ^ (trK + 32) / (a + 2 ^ b)
  2 * atanhSeries (z * z / 2 ^ (trK + 32)) 230 0 z * 2 ^ (trK + 32) / ln2Fix

/-- The finite value m × 2^e in units of 2^-(trK+32), truncated, with |x| first limited to `lim`. -/
def toFix (lim : Nat) (n : Bool) (m : Nat) (e : Int) : Int :=
  let big := decide ((lim : Int) < floorLog2 m e)
  let v := if big then 2 ^ (lim + trK + 32)
    else if 0 ≤ e + trK + 32 then m * 2 ^ (e + trK + 32).toNat else m / 2 ^ (-(e + trK + 32)).toNat
  signed n v

/-- x in units of 2^-(trK+32) times log2 e, that is x / ln 2. -/
def timesLog2e (x : Int) : Int := signed (decide (x < 0)) (x.natAbs * 2 ^ (trK + 32) / ln2Fix)

/-- The unary floating functions of Table 6.4, OP 2 to 8. -/
inductive Trans where
  | exp2 | log2 | rcp | rsq | sqrt | tanh | sigm
  deriving DecidableEq, Repr

/-- An operand of a transcendental as (negative, m, e), m non-zero: the result rounded into `f`. -/
def transFin (t : Trans) (f mode : Nat) (sat : Bool) (u : Nat) (n : Bool) (m : Nat) (e : Int) : Nat × Flags :=
  let k32 : Int := -(trK + 32 : Nat)
  match t with
  | .exp2 =>
    -- an integer operand is exact
    let isInt := decide (0 ≤ e) || m % 2 ^ (-e).toNat == 0
    let x := toFix 12 n m e
    if isInt then roundFin f mode sat u false 1 (x / 2 ^ (trK + 32)) false
    else
      let (a, i) := exp2Fix x
      roundFin f mode sat u false a (i + k32) true
  | .log2 =>
    if n then (canonNaN f, fNV) else
    let l := m.log2
    if m == 2 ^ l then
      let r : Int := (l : Int) + e
      roundFin f mode sat u (decide (r < 0)) r.natAbs 0 false
    else
      let v : Int := ((l : Int) + e) * 2 ^ (trK + 32) + log2Frac m l
      -- a negative value is rounded by its magnitude, whose truncation lies just below
      if v < 0 then roundFin f mode sat u true (v.natAbs - 1) k32 true
      else roundFin f mode sat u false v.natAbs k32 true
  | .rcp =>
    let p := m.log2 + 120
    roundFin f mode sat u n (2 ^ p / m) (-(p : Int) - e) (2 ^ p % m != 0)
  | .rsq =>
    if n then (canonNaN f, fNV) else
    let (m, e) := if e % 2 == 0 then (m, e) else (2 * m, e - 1)
    let p := m.log2 + 120
    let r := isqrt (2 ^ (2 * p) / m)
    roundFin f mode sat u false r (-(p : Int) - e / 2) (r * r * m != 2 ^ (2 * p))
  | .sqrt =>
    if n then (canonNaN f, fNV) else
    let (m, e) := if e % 2 == 0 then (m, e) else (2 * m, e - 1)
    let r := isqrt (m * 2 ^ 200)
    roundFin f mode sat u false r (e / 2 - 100) (r * r != m * 2 ^ 200)
  | .tanh =>
    -- for |x| = a: (1 − E)/(1 + E) with E = e^(−2a) = c / 2^s; beyond 2^9 just below 1, below 2^-60 just below a
    if decide ((8 : Int) < floorLog2 m e) then roundFin f mode sat u n (2 ^ 600 - 1) (-600) true
    else if decide (floorLog2 m e < -60) then roundFin f mode sat u n (m * 2 ^ 400 - 1) (e - 400) true
    else
      let (c, i) := exp2Fix (timesLog2e (-2 * toFix 10 false m e))
      let d := 2 ^ ((trK + 32 : Int) - i).toNat
      roundFin f mode sat u n ((d - c) * 2 ^ trK / (d + c)) (-(trK : Int)) true
  | .sigm =>
    let x := toFix 10 n m e
    if n then
      -- E/(1 + E) with E = e^x = c / 2^s
      let (c, i) := exp2Fix (timesLog2e x)
      let s := ((trK + 32 : Int) - i).toNat
      roundFin f mode sat u false (c * 2 ^ s / (2 ^ s + c)) (-(s : Int)) true
    else
      let (c, i) := exp2Fix (timesLog2e (-x))
      let s := ((trK + 32 : Int) - i).toNat
      roundFin f mode sat u false (2 ^ (s + trK) / (2 ^ s + c)) (-(trK : Int)) true

/-- R146 with the special operands of Table 6.5. -/
def transVal (t : Trans) (f mode : Nat) (sat : Bool) (u : Nat) (x : FVal) : Nat × Flags :=
  let infinite := fun (n : Bool) (fl : Flags) =>
    if sat then (withSign f n (maxFinite f), fl ||| fSX) else (withSign f n (infPattern f), fl)
  let one := (fmtInfo f).bias.toNat * 2 ^ (fmtInfo f).mbits
  match x with
  | .nan s => (canonNaN f, flagIf s fNV)
  | .inf n =>
    match t with
    | .exp2 => if n then (0, 0) else infinite false 0
    | .log2 | .rsq | .sqrt =>
      if n then (canonNaN f, fNV) else if t == .rsq then (0, 0) else infinite false 0
    | .rcp => (withSign f n 0, 0)
    | .tanh => (withSign f n one, 0)
    | .sigm => if n then (0, 0) else (one, 0)
  | .fin n m e =>
    if m == 0 then
      match t with
      | .exp2 => (one, 0)
      | .log2 => infinite true fDZ
      | .rcp => infinite n fDZ
      | .rsq => infinite n fDZ
      | .sqrt => (withSign f n 0, 0)
      | .tanh => (withSign f n 0, 0)
      | .sigm => (one - 2 ^ (fmtInfo f).mbits, 0)
    else transFin t f mode sat u n m e

end Sys2Proof
end

