-- ==== Sys2Proof/Machine/CoreState.lean ====
section
/-! DEFINITION. The state of one core as plain data (chapters 05 to 08, 11). A register is stored once, by physical
number; s0, p0 and k0 are supplied by the accessors of Ops. -/

namespace Sys2Proof.Machine

/-- States of the tile task (Table 5.1). -/
inductive TaskState where
  | unbound | bound | running | held | stopped | saved | halted
  deriving DecidableEq, Repr

/-- The control window opened by a transferring instruction in cycle `issued` (R120, R121). `link` is the register that a CALL writes its
link position to, with that position (Table 11.7). -/
structure Window where
  issued   : Nat
  target   : Nat
  transfer : Bool
  link     : Option (Nat × Word)
  deriving DecidableEq, Repr

/-- The per-core CSRs of Table 4.5, 64 bits each; GNOMON and WALLC are the die's and the hub's. -/
structure Csrs where
  vsh    : Word
  lc     : Word
  rotv   : Word
  rotp   : Word
  mpc    : Word
  seed   : Word
  qmod   : Word
  qinv   : Word
  rmode  : Word
  fflags : Word
  outst  : Word
  tcoord : Word
  fcause : Word
  fbix   : Word
  stepno : Word
  deriving DecidableEq, Repr

/-- CSRs at core reset and launch binding (R40, R51, R98, Tables 2.6, 2.7, 5.2 to 5.6, 6.1, 11.2, 11.3). -/
def Csrs.reset : Csrs :=
  { vsh := 1, lc := 0, rotv := 0, rotp := 0, mpc := 0, seed := 0x9E3779B97F4A7C15, qmod := 1,
    qinv := 0xFFFFFFFFFFFFFFFF, rmode := 0, fflags := 0, outst := 0, tcoord := 0, fcause := 0, fbix := 0, stepno := 0 }

/-- The pair region that an accumulator landing of a paired routine must lie in, with the routine, the index and the store word that its
fault names (R196, Table 11.5). -/
structure AccGuard where
  row0    : Nat
  nrows   : Nat
  routine : Nat
  index   : Nat
  store   : Nat
  deriving DecidableEq, Repr

/-- What a landing does to accumulator bytes, which it reads as they stand before its landing cycle (R180, R182, R197):
bytes written, a run of zeros, groups of `.f32` values added in order, `.i32` sums added (saturated or not), or `.n64`
residues added modulo q. -/
inductive AccOp where
  | write (bs : Bytes)
  | clear (n : Nat)
  | addF32 (groups : List (List Nat))
  | addI32 (sat : Bool) (vals : List Int)
  | addMod (q : Nat) (vals : List Nat)
  deriving DecidableEq, Repr

/-- Where a pending result lands (Table 11.6a). Registers are physical numbers. -/
inductive Dest where
  /-- Scalar result (type 1). -/
  | scalar (r : Nat) (v : Word)
  /-- Predicate write (type 2). -/
  | pred (r : Nat) (v : Bool)
  /-- Mask write (type 2). -/
  | mask (k : Nat) (v : Mask)
  /-- CSR write by a CSR instruction, VSHAPE or LOOPSET, which governs from the landing cycle (type 2, R102). -/
  | csr (c : Nat) (v : Word) (byCsr : Bool)
  /-- Vector result with its write map, bit by bit (type 3, R135). -/
  | vector (r : Nat) (v : Vec) (map : Vec)
  /-- Scratchpad store of STS, VST or SSAVE (type 4): bytes at an offset, with the accessor code of Table 11.5a. -/
  | store (off : Nat) (bytes : Bytes) (code : Nat)
  /-- Accumulator landing (type 5) at an offset of the accumulator store, and the region of a paired routine. -/
  | acc (off : Nat) (op : AccOp) (guard : Option AccGuard)
  /-- Exchange row (type 6). -/
  | exch (row : Nat) (bytes : Bytes)
  /-- A vector arriving from another die (type 9). -/
  | die (fromDie : Nat) (v : Vec) (ok : Bool)
  /-- Writes of LOOPB at its boundary (type 10): LC, ROTV, ROTP and the new p32. -/
  | loopb (lc rotv rotp : Word) (p32 : Bool)
  deriving DecidableEq, Repr

/-- A result in flight: its landing cycle, its issue cycle and word (the order of R106), the flags that join FFLAGS in
the landing cycle (R41), and where it lands. -/
structure Pending where
  land  : Nat
  issue : Nat
  word  : Nat
  flags : Flags
  dest  : Dest
  deriving DecidableEq, Repr

/-- States of the matrix sequencer (Table 7.2). -/
inductive SeqState where
  | idle | armed | running | paired | suspended | abandoned
  deriving DecidableEq, Repr

/-- The A stream of a routine (R178, R190). -/
structure AStream where
  base   : Word
  stride : Nat
  fmt    : Nat
  rows   : Nat
  next   : Nat
  gen    : Nat
  genImm : Word32
  deriving DecidableEq, Repr

/-- The B tile register: kind 0 dense or block-scaled, 1 2:4 packed, 2 split terms; the tile bytes of Table 7.5; the
pattern taken by a 2:4 tile. -/
structure BTile where
  present : Bool
  kind    : Nat
  fmt     : Nat
  bytes   : Mem
  pattern : BitVec 256
  deriving DecidableEq, Repr

/-- A tile load in flight (R179); `paired` says that a paired routine started it. -/
structure TileLoad where
  start   : Nat
  land    : Nat
  off     : Nat
  size    : Nat
  kind    : Nat
  fmt     : Nat
  pattern : BitVec 256
  got     : Mem
  word    : Nat
  paired  : Bool
  deriving DecidableEq, Repr

/-- A pair (R195, R196): the partner's cluster and the pair region; of a paired MCALL also its bundle word, the parameter
registers it read, and M (R198). -/
structure Pair where
  cluster : Nat
  row0    : Nat
  nrows   : Nat
  word    : Nat
  params  : SMap Word
  m       : Word
  deriving DecidableEq, Repr

/-- The sequencer with its routine-local state (R167, R168). `cycles` is the number of cycles an abandoned routine had run
(R198), `lastLand` the cycle of its last landing so far, and `done` whether the routine is complete (R184). -/
structure Seq where
  st      : SeqState
  routine : Nat
  first   : Nat
  count   : Nat
  index   : Nat
  row     : Nat
  cycles  : Nat
  called  : Nat
  params  : SMap Word
  loops   : SMap Nat
  astr    : Option AStream
  sae     : Bool
  sbe     : Bool
  isat    : Bool
  sb0     : Word32
  sb1     : Word32
  qmod    : Word
  qinv    : Word
  kind    : Option Nat
  pair    : Option Pair
  lastLand : Nat
  done    : Bool
  deriving DecidableEq, Repr

/-- An idle sequencer at launch binding. -/
def Seq.reset : Seq :=
  { st := .idle, routine := 0, first := 0, count := 0, index := 0, row := 0, cycles := 0, called := 0, params := [],
    loops := [], astr := none, sae := false, sbe := false, isat := false, sb0 := 0x3F800000, sb1 := 0x3F800000,
    qmod := 1, qinv := 0xFFFFFFFFFFFFFFFF, kind := none, pair := none, lastLand := 0, done := true }

/-- An MDRAIN in progress (R193, R194), with its bundle word: the rows read and not yet written stand in `rows`, and rows that a restore
has taken converted from a save area in `ready` (R298). -/
structure Drain where
  start  : Nat
  word   : Nat
  src    : Nat
  dst    : Nat
  nrows  : Nat
  zrc    : Bool
  srcKind : Nat
  fmt    : Nat
  mode   : Nat
  sat    : Bool
  draws  : List Nat
  done   : Nat
  rows   : SMap Bytes
  ready  : SMap Bytes
  deriving DecidableEq, Repr

/-- The matrix unit (Table 7.1). `prior` holds the ended routines whose pair is open when a later MCALL has started (R196). -/
structure MxUnit where
  store   : SMap Word
  table   : SMap (Nat × Nat)
  params  : SMap Word
  wbuf    : Mem
  acc     : Mem
  exch    : Mem
  btile   : BTile
  pattern : BitVec 256
  mqueue  : List Word32
  mmode   : Nat
  m       : Word
  seeded  : Bool
  arm     : Option Pair
  prior   : List Seq
  seq     : Seq
  loads   : List TileLoad
  drain   : Option Drain
  deriving DecidableEq, Repr

/-- The micro-word MXEND, which every store word holds at reset (R83). -/
def mxEndWord : Word := 0x3400000000000000

/-- The matrix unit at launch binding and core reset (Table 7.1). -/
def MxUnit.reset : MxUnit :=
  { store := [], table := [], params := [], wbuf := [], acc := [], exch := [],
    btile := { present := true, kind := 0, fmt := 3, bytes := [], pattern := 0 }, pattern := 0, mqueue := [], mmode := 0,
    m := 0x9E3779B97F4A7C15, seeded := false, arm := none, prior := [], seq := Seq.reset, loads := [], drain := none }

/-- A bound stream register: descriptor number, base and position (R204). -/
structure ZReg where
  desc : Nat
  base : Word
  pos  : Nat
  deriving DecidableEq, Repr

/-- A copy in flight (R215 to R231): its kept descriptor, its kind (1 CPGO, 2 CPFP, 3 CPCMP), slot, starting cycle and
bundle word, the digest or result address, whether its L2 side passes the cipher with the keys of the core's context, the
bytes read and not yet written (by sector; for an EXP copy by block, and `offs` is where each block starts; `plain` holds
the block being written), whether the rest of its source was read again on resume (R231), the fingerprint state, and the
compare state. -/
structure Copy where
  desc   : Bytes
  kind   : Nat
  slot   : Nat
  start  : Nat
  word   : Nat
  raddr  : Nat
  conf   : Bool
  buf    : SMap Bytes
  plain  : SMap Bytes
  offs   : SMap Nat
  reread : Bool
  hash   : List Word32
  hlen   : Nat
  cmp    : Nat
  deriving DecidableEq, Repr

/-- A landing window (Table 17.3): its 64-byte block, the scratchpad offset that the block was read from, the window's tag
(R371), and the granules that the transfer into it has written (R372). -/
structure LandWin where
  block   : Bytes
  granule : Nat
  tag     : Nat
  written : List Nat
  deriving DecidableEq, Repr

/-- One core (R12, Table 11.7). `fenced` lists the service accesses that FENCEs hold later ones back for (R282), and `wrote` the scratchpad
ranges that timed writes wrote in the latest cycle, with whether they wrote tags: a landing of that cycle leaves them (Table 10.3). -/
structure Core where
  task    : TaskState
  kernel  : Option Nat
  start   : Nat
  ip      : Nat
  idle    : Nat
  window  : Option Window
  index   : SMap (BitVec 16)
  s       : SMap Word
  p       : SMap Bool
  v       : SMap Vec
  k       : SMap Mask
  csr     : Csrs
  pending : List Pending
  flagsDue : Flags
  arrived : List (Nat × Vec × Bool)
  bfmt    : SMap Word
  spad    : Mem
  tags    : SMap Nat
  mx      : MxUnit
  descs   : SMap Bytes
  z       : SMap ZReg
  slots   : SMap Bytes
  slotDone : SMap Nat
  copies  : List Copy
  wins    : SMap LandWin
  hold    : Option (Nat × Nat)
  fenced  : List Nat
  wrote   : List (Nat × Nat × Bool)
  deriving DecidableEq, Repr

/-- A core after a die core reset (R24, R53, R98): stores zero, index store 0x0000, registers by R98 (log 1). -/
def Core.reset : Core :=
  { task := .unbound, kernel := none, start := 0, ip := 0, idle := 0, window := none, index := [], s := [], p := [],
    v := [], k := [], csr := Csrs.reset, pending := [], flagsDue := 0, arrived := [], bfmt := [], spad := [], tags := [],
    mx := MxUnit.reset, descs := [], z := [], slots := [], slotDone := [], copies := [], wins := [], hold := none,
    fenced := [], wrote := [] }

end Sys2Proof.Machine
end

