-- ==== Sys2Proof/Machine/StackState.lean ====
section
/-! DEFINITION. The state of one memory stack as plain data (chapter 09): the sequencer, the pseudo-channels, banks and
near-bank units. Ticks are stack ticks, which never stop (R242), unless a field says timeline tick. -/

namespace Sys2Proof.Machine

/-- What drives a stack (R237, R386, R390). -/
inductive Driver where
  | compiled | idle | hold | drain | selfRefresh
  deriving DecidableEq, Repr

/-- A bank's own state (Table 9.1); serving, stepping and committing follow from its pseudo-channel. -/
inductive BankMode where
  | precharged
  | opened (row : Nat)
  | refreshing (until_ : Nat)
  deriving DecidableEq, Repr

/-- A bank: its state, its last commands' ticks (Table 9.4), and its refresh debt less the rises so far (R245). -/
structure Bank where
  mode    : BankMode
  act     : Option Nat
  pre     : Option Nat
  rdl     : Option Nat
  wrlEnd  : Option Nat
  refpb   : Option Nat
  debt    : Int
  deriving DecidableEq, Repr

/-- A precharged bank with nothing recorded. -/
def Bank.reset : Bank := { mode := .precharged, act := none, pre := none, rdl := none, wrlEnd := none, refpb := none, debt := 0 }

/-- A near-bank unit: broadcast register, latches and write-back slots as (row, column, bytes) (R258). -/
structure NbUnit where
  bc    : BitVec 256
  lat   : SMap (BitVec 512)
  slots : SMap (Nat × Nat × Bytes)
  deriving DecidableEq, Repr

/-- A unit after uncore reset. -/
def NbUnit.reset : NbUnit := { bc := 0, lat := [], slots := [] }

/-- A queued near-bank issue (R260), with the tick and the timeline word of its NBISS. -/
structure NbIssue where
  lg    : Nat
  g0    : Nat
  start : Nat
  tick  : Nat
  word  : Nat
  deriving DecidableEq, Repr

/-- The issue that is stepping: its start tick, the store word in turn, the words executed, and whether NEND was one of
them (R261). -/
structure NbRun where
  issue : NbIssue
  s     : Nat
  pc    : Nat
  n     : Nat
  ended : Bool
  deriving DecidableEq, Repr

/-- Why a pseudo-channel is occupied (R246, R247, R256, R263). -/
inductive Occupier where
  | window (k n : Nat)
  | engine
  | refab
  | commit
  deriving DecidableEq, Repr

/-- A pseudo-channel: its split and a split on its way (R244), the compressed read being served and its last slot's tick (R280), the first tick at which it is free again and why, the
activations and column commands that its rules look back on (tick and bank group, and whether a read), the ticks at which
its lanes are empty, the ticks of its latest row-class and column-class commands (R238), whether an NBISS has executed
since its last NBFENCE (R250), the near-bank loop counter, queue and run, the channel store, its banks and its units. -/
structure Pch where
  split   : Nat
  lturn   : Option (Nat × Nat)
  conv    : Option (Nat × Nat)
  busy    : Option (Nat × Occupier)
  acts    : List (Nat × Nat)
  cols    : List (Nat × Nat × Bool)
  readEnd : Nat
  writeEnd : Nat
  rowCmd  : Option Nat
  colCmd  : Option Nat
  nbFlag  : Bool
  loopc   : Nat
  queue   : List NbIssue
  cur     : Option NbRun
  store   : SMap Word32
  banks   : SMap Bank
  units   : SMap NbUnit
  deriving DecidableEq, Repr

/-- A pseudo-channel after uncore reset: split 2 (log 5), channel store NEND (R87). -/
def Pch.reset : Pch :=
  { split := 2, lturn := none, conv := none, busy := none, acts := [], cols := [], readEnd := 0, writeEnd := 0, rowCmd := none,
    colCmd := none, nbFlag := false, loopc := 0, queue := [], cur := none, store := [], banks := [],
    units := [] }

/-- The near-bank word NEND, which every store word holds at reset (R87). -/
def nbEndWord : Word32 := 0x70000000

/-- Data on its way to an L2 line: cluster of the die, line, relative landing cycle and timeline tick, bytes, or none when
uncorrectable (R241, R252). -/
structure LineLand where
  cluster : Nat
  line    : Nat
  cycle   : Nat
  tick    : Nat
  pa      : Nat
  bytes   : Option Bytes
  deriving DecidableEq, Repr

/-- A WRL's data on its way to its column (R241). -/
structure WrlFlight where
  pa    : Nat
  done  : Nat
  bytes : Bytes
  deriving DecidableEq, Repr

/-- An engine window in progress (R256): its last timeline tick, its landing cycle, its pseudo-channel and descriptor number, its output lines
as (cluster, line, bytes), and the cause raised at its end with the second word of its detail (R257, Table 11.5). -/
structure EngineRun where
  endTick : Nat
  cycle   : Nat
  pch     : Nat
  desc    : Nat
  out     : List (Nat × Nat × Bytes)
  fault   : Option (Nat × Nat)
  deriving DecidableEq, Repr

/-- A memory sequencer with its stack. `kernel` owns the compiled timeline `prog` with its descriptors; `pos` is the next
word, `word` and `tick` the word in turn and its timeline tick (R237); `seam` is the number of the SEAM executed last, when
no later command has executed, and `seams` how many have. `engCmd` and `seamCmd` are ticks of the latest such commands
(R238), `starts` the starts of near-bank issues that R260 looks back on, `rises` the rises of refresh debt (R245). `taken`
is the tick at which a firmware timeline took the stack, `delayed` the pseudo-channels whose period starts later than
8p after it (R414, R415), and `reopen` the rows that were open at a stop as (pseudo-channel, bank, row) (R252). An engine window stands in `engines` until its
lines are written, which for an odd k is half a cycle after its last tick. -/
structure Stack where
  driver  : Driver
  kernel  : Option Nat
  prog    : List Word
  descs   : List Bytes
  pos     : Nat
  word    : Nat
  tick    : Nat
  seam    : Option Nat
  seams   : Nat
  lands   : List LineLand
  writes  : List WrlFlight
  engines : List EngineRun
  engCmd  : Option Nat
  seamCmd : Option Nat
  starts  : List Nat
  rises   : Nat
  taken   : Nat
  delayed : SMap Nat
  reopen  : List (Nat × Nat × Nat)
  pchs    : SMap Pch
  deriving DecidableEq, Repr

/-- A stack after uncore reset, driven by the idle timeline. -/
def Stack.reset : Stack :=
  { driver := .idle, kernel := none, prog := [], descs := [], pos := 0, word := 0, tick := 0, seam := none, seams := 0,
    lands := [], writes := [], engines := [], engCmd := none, seamCmd := none, starts := [], rises := 0, taken := 0,
    delayed := [], reopen := [], pchs := [] }

end Sys2Proof.Machine
end

