-- ==== Sys2Proof/Machine/KernelState.lean ====
section
/-! DEFINITION. Contexts, queues, kernels, barriers, pages and service accesses as plain data (chapters 10 to 16). -/

namespace Sys2Proof.Machine

/-- A service access between issue and landing (R118, R275 to R282). `after` lists the accesses that must have performed
first, by acquire, release and FENCE; `base` is the frame that the page's first byte lies in; `result` is the value and the
status (Table 10.4) of an access that has performed and not yet landed. -/
structure Access where
  id      : Nat
  core    : Option Nat
  peer    : Option Nat
  ctx     : Nat
  kind    : AccessKind
  ea      : Word
  pa      : Nat
  base    : Nat
  cmp     : Bool
  size    : Nat
  width   : Nat
  data    : Word
  data2   : Word
  bytes   : Bytes
  lp      : Option Nat
  tag     : Nat
  hub     : Nat
  word    : Nat
  acq     : Bool
  arrived : Option Nat
  after   : List Nat
  result  : Option (Word × Nat)
  deriving DecidableEq, Repr

/-- A page request waiting for firmware (R361): the hub cycle it was issued in, the core, the OP of major 0x3E, the block and its granule's
offset. A host command that invalidates (R362, R411) waits in the same way: `req` is its request, OP its VERB. `ranges` are the pages
being invalidated, as (context, address, size); `acks` the dies still to acknowledge, and `waits` the accesses translated through the
entries they dropped. -/
structure PageReq where
  hub     : Nat
  req     : Option Req
  core    : Nat
  ctx     : Nat
  op      : Nat
  block   : Bytes
  lp      : Nat
  tag     : Nat
  ranges  : List (Nat × Nat × Nat)
  acks    : List Nat
  waits   : List Nat
  dropped : Nat
  started : Bool
  deriving DecidableEq, Repr

/-- States of a page (Table 16.4). -/
inductive PageState where
  | free | offered | mapped | shared | releasing | retired | scrubbing
  deriving DecidableEq, Repr

/-- A mapping of a context (R354 to R358). -/
structure Page where
  va    : Nat
  pa    : Nat
  code  : BitVec 16
  state : PageState
  rtag  : Option (Nat × BitVec 32)
  tier  : Option Nat
  deriving DecidableEq, Repr

/-- A frame in use: its size in bytes, owner, reference count, state and offer handle. Unlisted memory is free. -/
structure Frame where
  size   : Nat
  owner  : Nat
  refc   : Nat
  state  : PageState
  handle : Word
  code   : BitVec 16
  deriving DecidableEq, Repr

/-- A TLB entry (R355): locked while it translates a region of a bound kernel. -/
structure TlbEntry where
  ctx    : Nat
  va     : Nat
  pa     : Nat
  code   : BitVec 16
  locked : Nat
  deriving DecidableEq, Repr

/-- A barrier (R343). `last` and `lastn` are the core and the reference of the latest arrival counted for the current phase and the next. -/
structure Barrier where
  done    : Nat
  arr     : Nat
  exp     : Option Nat
  arrn    : Nat
  expn    : Option Nat
  remote  : Bool
  remoten : Bool
  last    : Option (Nat × Word)
  lastn   : Option (Nat × Word)
  deriving DecidableEq, Repr

/-- A barrier at launch binding. -/
def Barrier.reset : Barrier :=
  { done := 0, arr := 0, exp := none, arrn := 0, expn := none, remote := false, remoten := false,
    last := none, lastn := none }

/-- A stage-ring slot (R349). -/
structure RingSlot where
  full  : Bool
  owner : Option Nat
  mode  : Nat
  deriving DecidableEq, Repr

/-- A slot at launch binding: empty and unowned. -/
def RingSlot.reset : RingSlot := { full := false, owner := none, mode := 0 }

/-- A BARR (op 0), SACQ (2) or SREL (3) that has not counted yet (R345, R350), or a link contribution (op 4). -/
structure SyncOp where
  count : Nat
  issue : Nat
  core  : Nat
  op    : Nat
  value : Word
  deriving DecidableEq, Repr

/-- One fault report of a cycle: what R290 chooses from and R291 and R293 write. `rank` is 0 for a machine check, 1 for
a bundle's issue, 2 for a timeline, 3 for an engine or micro-word. `late` marks a report whose boundary is the one after
the cycle: a TRAP (R126), whose bundle's position `pos` keeps, and a timeline fault in the second half of the cycle (R239). -/
structure Report where
  rank    : Nat
  late    : Bool
  die     : Nat
  cluster : Nat
  core    : Nat
  word    : Nat
  cause   : Nat
  detail  : List Nat
  pos     : Option Nat
  kernel  : Option Nat
  deriving DecidableEq, Repr

/-- States of a kernel (Table 13.5). -/
inductive KernelState where
  | waiting | binding | bound | running | held | stopped | saved | hibernated | completed | ended
  deriving DecidableEq, Repr

/-- Why a stop happened (FCAUSE.KIND, Table 11.2). -/
inductive StopKind where
  | fault | trap | preempt | powerFail
  deriving DecidableEq, Repr

/-- The stop of a kernel: its boundary, its kind, the report, and whether other faults fell there; the hub cycle it stands since, and the
invalidation that has to end before a fault resolved by copying a page lets it go on (R360, R362). -/
structure Stop where
  kind     : StopKind
  boundary : Nat
  hub      : Nat
  inval    : Option Nat
  report   : Option Report
  more     : Bool
  collateral : Bool
  deriving DecidableEq, Repr

/-- The reasons a kernel is held for (R326, R328, R333): the step point, whether HOLDs wait and each core's since which WALLC, the end of a duty
hold, an operating-point change, shedding or hibernation, pre-emption. `due` says that the release or resume is due and the
stacks are being handed back (R416). -/
structure Holds where
  step    : Option Nat
  waiting : Bool
  since   : SMap Nat
  duty    : Option Nat
  opPoint : Bool
  shed    : Bool
  preempt : Bool
  due     : Bool
  deriving DecidableEq, Repr

/-- No reason to hold. -/
def Holds.none : Holds :=
  { step := .none, waiting := false, since := [], duty := .none, opPoint := false, shed := false, preempt := false,
    due := false }

/-- A page pinned for a kernel (R356, R452): its address, the attribute code that it has once the kernel leaves it, and whether launch mapped
it. -/
structure Pin where
  va   : Nat
  code : BitVec 16
  new  : Bool
  deriving DecidableEq, Repr

/-- A kernel. `dies` lists the physical die of each logical die (R317); `readyAt` is the Gnomon value at which it starts or
restarts; `save` is the address of its own save area (R288, R301); `saving` is the WALLC at which its save began and `lost` whether accesses
were lost in it (R297); `launch` is its number in a graph's replay (R311). -/
structure Kernel where
  state   : KernelState
  ctx     : Nat
  queue   : Nat
  obj     : Nat
  arg     : Word
  variant : Nat
  dies    : List Nat
  lead    : Bool
  start   : Nat
  readyAt : Nat
  holds   : Holds
  stop    : Option Stop
  barriers : SMap Barrier
  rings   : SMap RingSlot
  ops     : List SyncOp
  succ    : List (Nat × Bytes)
  pinned  : List Pin
  status  : Nat
  cause   : Nat
  save    : Nat
  saving  : Option Nat
  lost    : Bool
  launch  : Option Nat
  deriving DecidableEq, Repr

/-- A section of a kernel object (Tables 4.11 and 4.12). -/
structure Section where
  type : Nat
  u0   : Nat
  u1   : Nat
  u2   : Nat
  u3   : Nat
  data : Bytes
  deriving DecidableEq, Repr

/-- A loaded kernel object that passed checks 1 to 4 of Table 13.6: its context, the addresses of the save areas allocated for its kernels
(R301: the first at LOAD-KERNEL, another when every one is in use), its file and its sections. -/
structure KObj where
  ctx      : Nat
  saves    : List Nat
  file     : Bytes
  sections : List Section
  deriving DecidableEq, Repr

/-- A graph object (R311): launches (object, variants allowed, the launches waited for), a parameter area, the replay slot
(the queue whose replay holds it) and list, and the staged patch; of the replay in progress the launches begun, whether one has been bound, those done, and
the status and report of one that ended. -/
structure Graph where
  ctx     : Nat
  launches : List (Nat × Nat × List Nat)
  params  : Bytes
  slot    : Option Nat
  waitList : List Nat
  patch   : Option Bytes
  begun   : List Nat
  bound   : Bool
  done    : List Nat
  ended   : Option (Nat × Word × Word × List Nat)
  deriving DecidableEq, Repr

/-- States of a queue (Table 12.1). -/
inductive QueueState where
  | absent | idle | waiting | running
  deriving DecidableEq, Repr

/-- A raise of a signal word (R341, R342): the kernel that raised it, the word's number, its value, and the accesses that it waits for. -/
structure Raise where
  kernel : Nat
  word   : Nat
  value  : Word
  after  : List Nat
  deriving DecidableEq, Repr

/-- A layer group that is being retired (R364), with the invalidation of its pages once that has begun. -/
structure Retiring where
  stack : Nat
  group : Nat
  inval : Option Nat
  deriving DecidableEq, Repr

/-- An invalidation of firmware's own (R362): its number, the ranges as (context, address, size), the dies that have still to acknowledge it,
and the accesses translated through the entries that they dropped. -/
structure Inval where
  no     : Nat
  ranges : List (Nat × Nat × Nat)
  acks   : List Nat
  waits  : List Nat
  deriving DecidableEq, Repr

/-- A queue (R305 to R309, R340). `entry` is the head entry as it was read, when `valid`; `ready` the WALLC since which it is
ready (R313), negative when that was before the power loss that restarted WALLC (R103). `sigs` are raised values and `pubs` published ones. -/
structure Queue where
  ctx     : Nat
  num     : Nat
  cap     : Nat
  ring    : Word
  tail    : Nat
  head    : Nat
  err     : Nat
  state   : QueueState
  ready   : Option Int
  valid   : Bool
  entry   : Bytes
  sigs    : SMap Word
  pubs    : SMap Word
  raises  : List Raise
  deriving DecidableEq, Repr

/-- States of a context (Table 11.1). -/
inductive CtxState where
  | empty | created | loaded | active | suspended | hibernated | destroyed
  deriving DecidableEq, Repr

/-- A context (R287). `owner` is the owner key hash of CREATE-CONTEXT, `mkey` and `fkey` the memory and fingerprint
keys of confidential mode (R399, R400), `own` the addresses of its pages for firmware's structures (R405). -/
structure Context where
  state  : CtxState
  owner  : Bytes
  mkey   : Bytes
  fkey   : Bytes
  queues : List Nat
  pages  : List Page
  own    : List Nat
  deriving DecidableEq, Repr

/-- A cluster (R12, R337): its dictionary and L2, and the context it serves or served last. -/
structure Cluster where
  dict  : SMap (BitVec 384)
  l2    : Mem
  owner : Option Nat
  last  : Option Nat
  keys  : Option Nat
  deriving DecidableEq, Repr

/-- A cluster after core and uncore reset. -/
def Cluster.reset : Cluster := { dict := [], l2 := [], owner := none, last := none, keys := none }

/-- Whether a die's Gnomon copy advances, and why not (R14, R96, R326, R386). -/
inductive DieRun where
  | running | held | stopped | shed
  deriving DecidableEq, Repr

/-- A compute die: its Gnomon copy, run state, TLBs and last measured temperature (R418). -/
structure Die where
  gnomon   : Nat
  run      : DieRun
  equalise : Nat
  tlb      : List TlbEntry
  coreTlbs : SMap (List TlbEntry)
  theta    : Int
  deriving DecidableEq, Repr

/-- A die after uncore reset (Table 1.6). -/
def Die.reset : Die := { gnomon := 0, run := .running, equalise := 0, tlb := [], coreTlbs := [], theta := 0 }

/-- A save (R297, R301): the header's fields, and the records of cores, clusters and stacks by logical number, with their times as at
boundary n; `step` is the held step point of a step-point save, and `retained` lists the dies on which the saved stores still stand
(R387). The bytes of the save area are written from it (`Sys.writeSave`), and a restore reads them (`Sys.readArea`). -/
structure Saved where
  step    : Option Nat
  stepno  : Nat
  boundary : Nat
  valid   : Bool
  lost    : Bool
  mc      : Bool
  pairOpen : Bool
  stop    : Option Stop
  retained : List Nat
  cores   : SMap Core
  clusters : SMap Cluster
  stackRecs : SMap Stack
  deriving DecidableEq, Repr

end Sys2Proof.Machine
end

