-- ==== Sys2Proof/Machine/HubState.lean ====
section
/-! DEFINITION. The hub as plain data: the link (chapter 17), the supply, the hibernation sequence and the manifest
(chapter 18), the trust mailbox (chapter 19) and firmware's own registers (chapter 20). -/

namespace Sys2Proof.Machine

/-- States of a Lattice port (Table 17.1). -/
inductive PortState where
  | down | training | up | keyed | retrying | answeringHold | rejoining | faulted
  deriving DecidableEq, Repr

/-- A flit as the hub sends it (Table 17.2): KIND and the fields that KIND carries, before enciphering, and `image`, the 256 bytes that go
over the wire (R368), empty until it is sent. -/
structure SentFlit where
  seq   : Nat
  kind  : Nat
  xfer  : Nat
  dcore : Nat
  win   : Nat
  last  : Bool
  goff  : Nat
  csum  : Nat
  data  : Bytes
  image : Bytes
  deriving DecidableEq, Repr

/-- A port: its state, the module at its far end, keys and salts of both directions, the SEQ of the next flit sent and
expected, the replay buffer, the flit that the peer's last NAK named with its consecutive retries, how many of the flits sent after it may
still be answered with that NAK (`nakAhead`) and the SEQ that was next when it was last sent again (`nakAt`), the SEQ that this hub has
asked for again with its failures, the NAKs that this hub has sent, the flits buffered toward a holding peer, whether an end holds (this
module, the peer) with the peer's recorded steps, the acknowledgement-kind flits not yet acknowledged, the collectives whose rejoin
the peer has still to answer, in order, the window-open flits accepted under the present key, and those of an earlier key that the peer may
send again after a rekey (R366 to R377, R444). -/
structure Port where
  state   : PortState
  peer    : Option Nat
  txKey   : Bytes
  rxKey   : Bytes
  txSalt  : Bytes
  rxSalt  : Bytes
  txSeq   : Nat
  rxSeq   : Nat
  replay  : List SentFlit
  nak     : Option Nat
  retries : Nat
  nakAhead : Nat
  nakAt   : Nat
  asked   : Option Nat
  rxRetries : Nat
  naks    : List Nat
  held    : List SentFlit
  ownHold : Bool
  peerHold : Option (List (Nat × Nat))
  acks    : List SentFlit
  joins   : List Nat
  opens   : List WindowOpen
  resent  : List WindowOpen
  deriving DecidableEq, Repr

/-- A port after a hub reset. -/
def Port.reset : Port :=
  { state := .down, peer := none, txKey := [], rxKey := [], txSalt := [], rxSalt := [], txSeq := 0, rxSeq := 0,
    replay := [], nak := none, retries := 0, nakAhead := 0, nakAt := 0, asked := none, rxRetries := 0, naks := [], held := [],
    ownHold := false, peerHold := none, acks := [], joins := [], opens := [], resent := [] }

/-- A peer's open window that this hub knows (R374). -/
structure KnownWin where
  port  : Nat
  peer  : Nat
  dcore : Nat
  win   : Nat
  xfer  : Nat
  ngran : Nat
  deriving DecidableEq, Repr

/-- A transfer of LSEND that the sender's hub keeps until it is settled (R373, R374). `block` is the scratchpad offset
of the send block; `data` is the plaintext read so far. -/
structure Transfer where
  core    : Nat
  block   : Nat
  start   : Nat
  src     : Nat
  port    : Nat
  peer    : Nat
  dcore   : Nat
  win     : Nat
  xfer    : Nat
  ngran   : Nat
  data    : Bytes
  sent    : Bool
  resends : Nat
  deriving DecidableEq, Repr

/-- What a receiving hub has of a transfer: plaintext so far and whether its flits are being discarded (R372). -/
structure Incoming where
  port    : Nat
  peer    : Nat
  xfer    : Nat
  dcore   : Nat
  win     : Nat
  refused : Bool
  got     : SMap Bytes
  deriving DecidableEq, Repr

/-- An LREJOIN in flight (R377): its block's scratchpad offset, the ports that have not answered, and a refusal. -/
structure Rejoin where
  core    : Nat
  block   : Nat
  start   : Nat
  coll    : Nat
  step    : Nat
  waiting : List Nat
  refused : Bool
  deriving DecidableEq, Repr

/-- A kept announcement of R444: core, barrier, phase, EXP. -/
structure Announce where
  core  : Nat
  num   : Nat
  phase : Nat
  exp   : Nat
  deriving DecidableEq, Repr

/-- The export window of R367: the context, first address and length in space 0. -/
structure Export where
  ctx  : Nat
  base : Nat
  size : Nat
  deriving DecidableEq, Repr

/-- A space-5 access this module has sent, by its access number and port (R367). -/
structure Remote where
  id   : Nat
  port : Nat
  deriving DecidableEq, Repr

/-- The link of the hub. -/
structure LinkState where
  ports     : SMap Port
  known     : List KnownWin
  transfers : List Transfer
  incoming  : List Incoming
  rejoins   : List Rejoin
  colls     : SMap Nat
  announces : List Announce
  exportWin : Option Export
  remotes   : List Remote
  nextPeer  : Nat
  host      : HostLinkState
  deriving DecidableEq, Repr

/-- The link after a hub reset. -/
def LinkState.reset : LinkState :=
  { ports := [], known := [], transfers := [], incoming := [], rejoins := [], colls := [], announces := [],
    exportWin := none, remotes := [], nextPeer := 0, host := .down }

/-- What the PCIe host link returns to the host: for a read of device memory the bytes, and whether they are poisoned; the Unsupported
Request with which it answers a request (R279, R396); and the release or addition of an extent of 128 MiB (R364). -/
inductive HostReply where
  | data (addr : Nat) (bytes : Bytes) (poison : Bool)
  | unsupported (addr : Nat)
  | extent (addr : Nat) (added : Bool)
  deriving DecidableEq, Repr

/-- States of the manifest (Table 18.3). -/
inductive ManifestState where
  | none | armed | draining | sealed | valid | replaying | consumed | rejected
  deriving DecidableEq, Repr

/-- The sequence of Table 18.2 in progress: wall time W in WALLC ticks, the step, REASON (0 for a SAG, which ends in shedding), the
selection of each kernel (kernel, whether its step point is selected, the boundary), the request of a HIBERNATE-NOW, the bytes drained,
and the slot and SERIAL of the seal; `since` is the WALLC at which the step in turn began. -/
structure Hibernation where
  w       : Nat
  step    : Nat
  since   : Nat
  reason  : Nat
  chosen  : List (Nat × Bool × Nat)
  request : Option Req
  drained : Nat
  slot    : Nat
  serial  : Nat
  deriving DecidableEq, Repr

/-- Supply, thermal limit and manifest. `good` is the WALLC tick since which supply has been good (R387), `dropped` the
pages that ageing took from the drain list (R383) and `aged` the WALLC of its latest run, `waiting` a sealed module that waits for RESUME
(R405), `began` the WALLC at which a replay began and `joining` whether all of it is done but the answers of its rejoins (R393). -/
structure PowerState where
  supply   : SupplyState
  granted  : Nat
  reserve  : Nat
  limit    : Nat
  forced   : Bool
  good     : Option Nat
  shed     : Bool
  hib      : Option Hibernation
  manifest : ManifestState
  dropped  : List (Nat × Nat)
  aged     : Nat
  waiting  : Bool
  began    : Nat
  joining  : Bool
  powered  : Bool
  deriving DecidableEq, Repr

/-- Supply state at reset by Table 20.5; T for a die at 0 °C (R418). -/
def PowerState.reset : PowerState :=
  { supply := .normal, granted := 0, reserve := 0, limit := 1900, forced := false, good := none, shed := false, hib := none,
    manifest := .none, dropped := [], aged := 0, waiting := false, began := 0, joining := false, powered := true }

/-- A secure session (R406): its number, the hash of the requester's key when mutually authenticated, the number of its transcript
(log 11), and the key and initial value of its responses (R397). -/
structure Session where
  id    : Nat
  owner : Option Bytes
  transcript : Nat
  key   : Bytes
  iv    : Bytes
  deriving DecidableEq, Repr

/-- An object being assembled by LOAD-KERNEL. -/
structure Assembly where
  total : Nat
  got   : Bytes
  deriving DecidableEq, Repr

/-- A response firmware has sent: the session, and its bytes as the host link carries them (R397). -/
structure Response where
  session : Nat
  bytes   : Bytes
  deriving DecidableEq, Repr

/-- Firmware's own structures of the control class (R382) as a drain writes them to the tier: the spec gives them no byte form (log 20).
`serial` is the manifest's SERIAL, and `wallc` its WALLC, which is 0 once the power has been lost. -/
structure Vault where
  serial  : Nat
  ctxs    : SMap Context
  queues  : SMap Queue
  kernels : SMap Kernel
  objs    : SMap KObj
  graphs  : SMap Graph
  frames  : SMap Frame
  saved   : SMap Saved
  nextId  : Nat
  log     : Bytes
  wallc   : Nat
  deriving DecidableEq, Repr

/-- R103, R313: the structures after a power loss, which restarts WALLC at 0: the times in it are told from the manifest's WALLC on (log 163). -/
def Vault.restarted (v : Vault) : Vault :=
  { v with queues := v.queues.map fun q => (q.1, { q.2 with ready := q.2.ready.map fun t => t - v.wallc }), wallc := 0 }

/-- The security processor and the mailbox (chapter 19). `fuses` are the anti-rollback pairs, `image` the firmware image
in place as SVN and bytes, `recovery` the ROM recovery image running (R409), `negotiated` the requesters with which algorithms stand
agreed (R406), `stamp` the hub cycle in which the request in turn arrived and `barred` whether R405 restricted what was served then
(R412), `scrubbing` the CONF that a reset with scrub will write (R395), `resume` a RESUME whose response is due after its replay
(R405). -/
structure TrustState where
  conf     : Bool
  form     : Nat
  fuses    : List (Bool × Bool)
  svn      : Nat
  image    : Bytes
  recovery : Bool
  fwmeas   : Bytes
  cd       : Bytes
  cdseq    : Nat
  log      : Bytes
  dieKeys  : SMap Bytes
  negotiated : List Nat
  sessions : List Session
  nextSession : Nat
  loads    : SMap Assembly
  releases : List (Nat × Nat × Req)
  out      : List Response
  scrubbing : Option Bool
  resume   : Option Req
  module   : Nat
  stamp    : Nat
  barred   : Bool
  hklog    : List Word
  deriving DecidableEq, Repr

end Sys2Proof.Machine
end

