-- ==== Sys2Proof/Machine/State.lean ====
section
/-! DEFINITION. The state of the N9-M: the whole module as plain data (`Sys`), and the schedule of the present cycle.
`old` is the module at the boundary that begins the present cycle, with the results of this cycle landed and before its
writes (R73, R102); `cur` is the module with the writes made so far. -/

namespace Sys2Proof.Machine

/-- Reasons a step stops with a fault. -/
inductive Fault where
  /-- Raised by `step` on a module that has no power (Table 18.2, step 7): nothing executes. Safe. -/
  | unpowered
  deriving DecidableEq, Repr

/-- Reasons a step gives no meaning. -/
inductive Refusal where
  /-- Raised by an arm of `exec` whose instruction has no meaning yet. Safe. -/
  | notModelled (mnemonic : String)
  deriving DecidableEq, Repr

/-- The module: time, dies, clusters, cores, stacks, memories, firmware's objects, and the hub. `poison` lists the
64-byte units of HBM that carry an uncorrectable error (R241), `macs` the integrity tags of its columns by unit number, where an unlisted
column has that of zeros (R398); `invals` the invalidations that firmware has under way (R362); `opNext` is an operating point that waits for every die to be
held (R333); `retired` the layer groups in deep retention and `retiring` those on their way there (R364); `ecc` the four counts of
corrected errors since start (HKCECC, Table 20.3); `hostOut` what the host link has returned to the host. -/
structure Sys where
  hub      : Nat
  wallc    : Word
  wallAcc  : Nat
  opNum    : Nat
  opDen    : Nat
  opNext   : Option (Nat × Nat)
  dies     : SMap Die
  clusters : SMap Cluster
  cores    : SMap Core
  stks     : SMap Stack
  hbm      : Mem
  tier     : Mem
  poison   : List Nat
  macs     : SMap Bytes
  failed   : BitVec 80
  retired  : List (Nat × Nat)
  retiring : List Retiring
  ecc      : List Nat
  hostOut  : List HostReply
  ctxs     : SMap Context
  queues   : SMap Queue
  kernels  : SMap Kernel
  objs     : SMap KObj
  graphs   : SMap Graph
  frames   : SMap Frame
  saved    : SMap Saved
  vaults   : List Vault
  accesses : List Access
  pageReqs : List PageReq
  invals   : List Inval
  nextId   : Nat
  link     : LinkState
  power    : PowerState
  trust    : TrustState
  deriving DecidableEq, Repr

/-- A prefix that waits for the instruction it modifies (R63). -/
structure Pfx where
  x : Bool
  m : BitVec 3
  r : Bool
  a : Bool
  s : BitVec 2
  t : Bool
  p : BitVec 6
  v : Bool
  e : Bool
  i : BitVec 12
  deriving DecidableEq, Repr

/-- The bundle being issued: its core, the words left, the number of the word in turn, the
prefix in force, the service accesses the bundle has issued so far (R276), the stream registers it has popped so far, and
the one that a stream-class word of it has written (R211). -/
structure Issue where
  active : Bool
  core   : Nat
  words  : List Word32
  word   : Nat
  pfx    : Option Pfx
  sent   : Nat
  pops   : List Nat
  zset   : Option Nat
  deriving DecidableEq, Repr

/-- No bundle. -/
def Issue.none : Issue := { active := false, core := 0, words := [], word := 0, pfx := .none, sent := 0, pops := [], zset := .none }

/-- A step that is due: an event for a unit, the index at a core's index pointer, or a word that a sequencer issues. -/
inductive Due where
  | ev (u : Nat) (e : Event)
  | idle (core : Nat)
  | index (core : Nat) (i : BitVec 16)
  | mx (core : Nat) (w : Word)
  | cmd (stack : Nat) (w : Word)
  | nb (pch : Nat) (w : Word32)
  deriving DecidableEq, Repr

/-- An access to scratchpad banks in the present cycle (R203): its bytes, the accessor code of Table 11.5a, the bundle
word that makes it, the cycle its instruction issued or started, the instruction or copy it belongs to (accesses of one
group do not collide), whether it reads, and the tag check on its first byte (offset, expected tag). -/
structure BankUse where
  core  : Nat
  off   : Nat
  size  : Nat
  code  : Nat
  word  : Option Nat
  since : Nat
  group : Nat
  read  : Bool
  tag   : Option (Nat × Nat)
  deriving DecidableEq, Repr

/-- An input that has been sent to the module and not yet taken: the hub cycle it arrives in, its unit, and what it is; `barred` is set on
a request that arrives while R405 restricts what is served (R412). -/
structure Input where
  time  : Nat
  unit_ : Nat
  event : Event
  barred : Bool := false
  deriving DecidableEq, Repr

/-- The machine. `phase` is the part of the hub cycle in progress, `fresh` the counter of free values (log 9). -/
structure State where
  old    : Sys
  cur    : Sys
  unit   : Nat
  issue  : Issue
  todo   : List Due
  faults : List Report
  uses   : List BankUse
  inputs : List Input
  fresh  : Nat
  phase  : Nat
  deriving DecidableEq, Repr

/-- The trust state at a package reset: form N9-M (log 7), fuses and image by log 8, CONF by log 6. -/
def TrustState.reset : TrustState :=
  { conf := false, form := 3, fuses := List.replicate 64 (false, false), svn := 1, image := [], recovery := false,
    fwmeas := [], cd := [], cdseq := 0, log := [], dieKeys := [], negotiated := [], sessions := [], nextSession := 1, loads := [], releases := [],
    out := [], scrubbing := none, resume := none, module := 0, stamp := 0, barred := false, hklog := List.replicate 8 0 }

/-- The module at a package reset (R24). -/
def Sys.reset : Sys :=
  { hub := 0, wallc := 0, wallAcc := 0, opNum := 1, opDen := 1, opNext := none, dies := [], clusters := [], cores := [], stks := [],
    hbm := [], tier := [], poison := [], macs := [], failed := 0, retired := [], retiring := [], ecc := [0, 0, 0, 0], hostOut := [], ctxs := [], queues := [], kernels := [], objs := [],
    graphs := [], frames := [], saved := [], vaults := [], accesses := [], pageReqs := [], invals := [], nextId := 1, link := LinkState.reset,
    power := PowerState.reset, trust := TrustState.reset }

/-- The machine right after a package reset: the start of Table 20.2 is the first step (log 17). -/
def State.reset : State :=
  { old := Sys.reset, cur := Sys.reset, unit := 0, issue := Issue.none, todo := [.ev 0 .start], faults := [], uses := [],
    inputs := [], fresh := 0, phase := 0 }

end Sys2Proof.Machine
end

