-- ==== Sys2Proof/Machine/Ops.lean ====
section
/-! DEFINITION. The named operations over the state: reading and writing registers, results in flight, the guard and the
prefix, and raising a fault. -/

namespace Sys2Proof.Machine

/-- What a step answers. -/
abbrev Out := Host.Outcome State Fault Refusal

/-- A cause of Table 11.4 with the three words of its detail (Table 11.5). -/
structure Trouble where
  cause  : Nat
  detail : List Nat
  deriving DecidableEq, Repr

/-- A cause with detail zero. -/
def trouble (c : Nat) : Trouble := ⟨c, [0, 0, 0]⟩

/-- The detail of causes 0x30 to 0x35 (Table 11.5). -/
def addrTrouble (c : Nat) (ea : Word) : Trouble :=
  ⟨c, [ea.toNat % 2 ^ 32, ea.toNat / 2 ^ 32, ea.toNat / 2 ^ 61]⟩

/-- A check that raises a cause when it does not hold. -/
def need (ok : Bool) (e : Trouble) : Except Trouble Unit := if ok then .ok () else .error e

/-! ### Units -/

/-- The die of a core. -/
def dieOf (core : Nat) : Nat := core / 160
/-- The cluster rank of a core (R6). -/
def clusterOf (core : Nat) : Nat := core / 8

/-- A core by number. -/
def Sys.core (y : Sys) (c : Nat) : Core := SMap.getD y.cores c Core.reset
/-- A die by number. -/
def Sys.die (y : Sys) (d : Nat) : Die := SMap.getD y.dies d Die.reset
/-- A cluster by rank. -/
def Sys.cluster (y : Sys) (r : Nat) : Cluster := SMap.getD y.clusters r Cluster.reset
/-- A stack by number. -/
def Sys.stk (y : Sys) (k : Nat) : Stack := SMap.getD y.stks k Stack.reset
/-- The module with a core replaced. -/
def Sys.setCore (y : Sys) (c : Nat) (k : Core) : Sys := { y with cores := SMap.put y.cores c k }
/-- The module with a die replaced. -/
def Sys.setDie (y : Sys) (d : Nat) (x : Die) : Sys := { y with dies := SMap.put y.dies d x }
/-- The module with a cluster replaced. -/
def Sys.setCluster (y : Sys) (r : Nat) (x : Cluster) : Sys := { y with clusters := SMap.put y.clusters r x }
/-- The module with a stack replaced. -/
def Sys.setStk (y : Sys) (k : Nat) (x : Stack) : Sys := { y with stks := SMap.put y.stks k x }
/-- The Gnomon of a core's die (R14). -/
def Sys.gn (y : Sys) (c : Nat) : Nat := (y.die (dieOf c)).gnomon
/-- The tick of every stack at the start of this hub cycle (R16, R242). -/
def Sys.tick (y : Sys) : Nat := 2 * y.hub

/-- Whether the second half of the hub cycle is in turn. What a part has put in `todo` runs while `phase` already names the next part,
and the parts of the odd tick are numbered from 10 (`advance`). -/
def State.half (s : State) : Nat := if 11 ≤ s.phase then 1 else 0
/-- The stack tick in turn (R16, R242). -/
def State.tickNow (s : State) : Nat := s.cur.tick + s.half

/-- The core in turn, as before this cycle's writes (R73). -/
def State.me (s : State) : Core := s.old.core s.unit
/-- The core in turn with the writes made so far. -/
def State.mine (s : State) : Core := s.cur.core s.unit
/-- The cycle of the core in turn. -/
def State.now (s : State) : Nat := s.old.gn s.unit
/-- The state with the module changed. -/
def State.onCur (s : State) (f : Sys → Sys) : State := { s with cur := f s.cur }
/-- The state with the core in turn changed. -/
def State.onMine (s : State) (f : Core → Core) : State := { s with cur := s.cur.setCore s.unit (f s.mine) }
/-- The state with any core changed. -/
def State.onCore (s : State) (c : Nat) (f : Core → Core) : State := { s with cur := s.cur.setCore c (f (s.cur.core c)) }
/-- The state with a stack changed. -/
def State.onStk (s : State) (k : Nat) (f : Stack → Stack) : State := { s with cur := s.cur.setStk k (f (s.cur.stk k)) }
/-- A free value (log 9): the counter is advanced. -/
def State.free (s : State) : Word × State := (Config.freeWord s.fresh, { s with fresh := s.fresh + 1 })

/-! ### Registers (R99, R100, R134) -/

/-- A scalar register; s0 reads zero. -/
def Core.sreg (k : Core) (n : Nat) : Word := if n == 0 then 0 else SMap.getD k.s n 0
/-- A scalar register written; a write to s0 is discarded. -/
def Core.setS (k : Core) (n : Nat) (v : Word) : Core := if n == 0 then k else { k with s := SMap.set 0 k.s n v }
/-- The physical number of a vector name (R100). -/
def Core.physv (k : Core) (n : Nat) : Nat := if n < 32 then n else 32 + (n - 32 + k.csr.rotv.toNat % 32) % 32
/-- The physical number of a predicate name (R100). -/
def Core.physp (k : Core) (n : Nat) : Nat := if n < 32 then n else 32 + (n - 32 + k.csr.rotp.toNat % 32) % 32
/-- A physical predicate; p0 reads 1. -/
def Core.preg (k : Core) (r : Nat) : Bool := if r == 0 then true else SMap.getD k.p r false
/-- A physical predicate written; a write to p0 is discarded. -/
def Core.setP (k : Core) (r : Nat) (b : Bool) : Core := if r == 0 then k else { k with p := SMap.set false k.p r b }
/-- A predicate by its name. -/
def Core.pname (k : Core) (n : Nat) : Bool := k.preg (k.physp n)
/-- A physical vector register. -/
def Core.vreg (k : Core) (r : Nat) : Vec := SMap.getD k.v r 0
/-- A physical vector register written. -/
def Core.setV (k : Core) (r : Nat) (v : Vec) : Core := { k with v := SMap.set 0 k.v r v }
/-- A vector register by its name. -/
def Core.vname (k : Core) (n : Nat) : Vec := k.vreg (k.physv n)
/-- A mask; k0 is all ones. -/
def Core.kreg (k : Core) (n : Nat) : Mask := if n == 0 then BitVec.allOnes 512 else SMap.getD k.k n 0
/-- A mask written; a write to k0 is discarded. -/
def Core.setK (k : Core) (n : Nat) (m : Mask) : Core := if n == 0 then k else { k with k := SMap.set 0 k.k n m }

/-- The scalar that a field names, as before this cycle's writes. -/
def State.sv (s : State) (f : BitVec 6) : Word := s.me.sreg f.toNat

/-! ### CSRs (R101, R102, R303, Table 4.5) -/

/-- ROWS values that VSH takes (R131). -/
def rowsOk (n : Nat) : Bool := [1, 2, 4, 8, 16, 32, 64].contains n

/-- The CSR file with a value written, under each CSR's own rules (R303). -/
def Csrs.write (f : Csrs) (c : Nat) (v : Word) : Csrs :=
  match c with
  | 0x10 => if rowsOk (v.toNat % 128) then { f with vsh := v &&& 0x7F } else f
  | 0x11 => { f with lc := v &&& 0x1FFFFFFFFF }
  | 0x12 => { f with rotv := v &&& 0x1F }
  | 0x13 => { f with rotp := v &&& 0x1F }
  | 0x14 => { f with mpc := v &&& 0xFFFF }
  | 0x15 => { f with seed := if v == 0 then 0x9E3779B97F4A7C15 else v }
  | 0x16 => { f with qmod := v ||| 1 }
  | 0x17 => { f with qinv := v }
  | 0x18 => if 5 < v.toNat % 8 then f else { f with rmode := v &&& 7 }
  | 0x19 => { f with fflags := v &&& 0x3F }
  | _ => f

/-- A CSR of a core as CSRR reads it (R102, R103). -/
def Sys.readCsr (y : Sys) (core c : Nat) : Word :=
  let f := (y.core core).csr
  match c with
  | 0x00 => BitVec.ofNat 64 (y.gn core)
  | 0x01 => y.wallc
  | 0x02 => f.tcoord
  | 0x03 => f.stepno
  | 0x04 => f.fcause
  | 0x05 => f.fbix
  | 0x06 => f.outst
  | 0x10 => f.vsh
  | 0x11 => f.lc
  | 0x12 => f.rotv
  | 0x13 => f.rotp
  | 0x14 => f.mpc
  | 0x15 => f.seed
  | 0x16 => f.qmod
  | 0x17 => f.qinv
  | 0x18 => f.rmode
  | _ => f.fflags

/-! ### Results in flight (R104 to R107) -/

/-- A result of the word being issued, landing `lat` cycles later, with the flags that join FFLAGS then (R41). -/
def State.later (s : State) (lat : Nat) (d : Dest) (fl : Flags) : State :=
  s.onMine fun k =>
    { k with pending := k.pending ++
        [{ land := s.now + lat, issue := s.now, word := s.issue.word, flags := fl, dest := d }] }

/-- A scalar result. -/
def State.laterS (s : State) (lat : Nat) (d : BitVec 6) (v : Word) (fl : Flags) : State :=
  s.later lat (.scalar d.toNat v) fl
/-- A predicate result, in the physical predicate resolved at issue. -/
def State.laterP (s : State) (lat : Nat) (p : BitVec 6) (b : Bool) : State :=
  s.later lat (.pred (s.me.physp p.toNat) b) 0
/-- A whole vector result, in the physical register resolved at issue, written where `map` has ones (R135). -/
def State.laterV (s : State) (lat : Nat) (r : Nat) (v map : Vec) (fl : Flags) : State := s.later lat (.vector r v map) fl

/-! ### The prefix (R63 to R66) -/

/-- Whether the guard of the word being issued is true (R65, R66). -/
def State.guardOn (s : State) : Bool :=
  match s.issue.pfx with
  | some x => !x.e || xor (s.me.pname x.p.toNat) x.v
  | none => true

/-- The rounding mode of the word being issued (R36). -/
def State.rm (s : State) : Nat :=
  match s.issue.pfx with
  | some x => if x.r then x.m.toNat else s.me.csr.rmode.toNat
  | none => s.me.csr.rmode.toNat

/-- Whether the word being issued saturates (R65). -/
def State.sat (s : State) : Bool :=
  match s.issue.pfx with
  | some x => x.a
  | none => false

/-- The expected tag of a tag check on the word being issued (R65). -/
def State.tagWanted (s : State) : Option Nat :=
  match s.issue.pfx with
  | some x => if x.t then some x.i.toNat else none
  | none => none

/-- An immediate of a signed field, extended by IMMX when the prefix says so (R65, R77). -/
def State.immS {w : Nat} (s : State) (f : BitVec w) : Int :=
  match s.issue.pfx with
  | some x => if x.x then (x.i ++ f).toInt else f.toInt
  | none => f.toInt

/-- An immediate of an unsigned field; extended, it is signed (R65). -/
def State.immU {w : Nat} (s : State) (f : BitVec w) : Int :=
  match s.issue.pfx with
  | some x => if x.x then (x.i ++ f).toInt else (f.toNat : Int)
  | none => (f.toNat : Int)

/-- trunc(a + imm, 64). -/
def State.addImm {w : Nat} (s : State) (a : BitVec 6) (f : BitVec w) : Word := s.sv a + BitVec.ofInt 64 (s.immS f)

/-! ### Kernels -/

/-- A kernel by number. -/
def Sys.kern (y : Sys) (q : Nat) : Option Kernel := SMap.get? y.kernels q
/-- The module with a kernel replaced. -/
def Sys.setKern (y : Sys) (q : Nat) (x : Kernel) : Sys := { y with kernels := SMap.put y.kernels q x }
/-- The module with a kernel changed, if there is one. -/
def Sys.onKern (y : Sys) (q : Nat) (f : Kernel → Kernel) : Sys :=
  match y.kern q with
  | some x => y.setKern q (f x)
  | none => y
/-- The cores bound to a kernel (R337), ascending. -/
def Sys.coresOf (y : Sys) (q : Nat) : List Nat := (y.cores.filter fun c => c.2.kernel == some q).map (·.1)
/-- The module with every core of a kernel changed. -/
def Sys.onCoresOf (y : Sys) (q : Nat) (f : Core → Core) : Sys :=
  { y with cores := y.cores.map fun c => if c.2.kernel == some q then (c.1, f c.2) else c }
/-- The position of the bundle that a core issues next; inside an idle run, that of its index (R55). -/
def Core.bundlePos (k : Core) : Nat := if k.idle != 0 then k.ip - 1 else k.ip
/-- Whether a kernel occupies its dies: bound, running, held or stopped (Table 13.5). -/
def Kernel.placed (x : Kernel) : Bool :=
  x.state == .bound || x.state == .running || x.state == .held || x.state == .stopped
/-- The kernels that occupy a die. -/
def Sys.kernelsOn (y : Sys) (d : Nat) : List (Nat × Kernel) := y.kernels.filter fun x => x.2.placed && x.2.dies.contains d
/-- Dies, and every die that a kernel of one of them occupies. -/
def Sys.widen (y : Sys) (ds : List Nat) : List Nat :=
  (List.range 4).filter fun d => ds.contains d || (y.kernelsOn d).any fun x => x.2.dies.any ds.contains
/-- The dies that stop when dies stop: every kernel stops on all of its dies together (R289). -/
def Sys.reach (y : Sys) (ds : List Nat) : List Nat := y.widen (y.widen (y.widen (y.widen ds)))

/-! ### Faults (R71, R97, R177, R203, R239, R289 to R293) -/

/-- A report of the core in turn. -/
def State.reportOf (s : State) (rank : Nat) (e : Trouble) : Report :=
  { rank := rank, late := false, die := dieOf s.unit, cluster := clusterOf s.unit % 20, core := s.unit % 8, word := s.issue.word,
    cause := e.cause, detail := e.detail, pos := none, kernel := s.old.core s.unit |>.kernel }

/-- TAKING AN EXCEPTION at a bundle's issue: the fault is reported for its cycle. The words after it are still read, so
that every fault of the cycle is known (R71, R290), and none of them takes effect: the end of the cycle returns the module
to the boundary before the cycle, stops the dies of the reporting kernel there, and writes FCAUSE and FBIX (R97, R289 to
R291, `Sys.stopAt`). -/
def takeFault (s : State) (e : Trouble) : State := { s with faults := s.faults ++ [s.reportOf 1 e] }

/-- The same for a fault of an engine or a micro-word of the core in turn (rank 3, R290). -/
def engineFault (s : State) (e : Trouble) : State :=
  { s with faults := s.faults ++ [{ s.reportOf 3 e with word := 0 }] }

/-- KIND of Table 11.2. -/
def StopKind.code : StopKind → Nat
  | .fault => 1 | .trap => 2 | .preempt => 3 | .powerFail => 4

/-- FCAUSE of Table 11.2. -/
def fcauseWord (kind : StopKind) (r : Option Report) (more : Bool) : Word :=
  let base := match r with
    | some r =>
      r.detail.headD 0 % 2 ^ 32 * 2 ^ 32 + r.word * 2 ^ 25 + r.core * 2 ^ 22 + r.cluster * 2 ^ 17 + r.die * 2 ^ 15 + r.cause
    | none => if kind == .powerFail then 0x60 else 0
  BitVec.ofNat 64 (base + kind.code * 2 ^ 29 + (if more then 256 else 0))

/-- The number of the core that a report names. -/
def Report.coreNo (r : Report) : Nat := 160 * r.die + 8 * r.cluster + r.core

/-- R198, R199: a core's sequencer when its die stops or is held, or its kernel is held, at boundary `n`: the routines
of open pairs are abandoned with the parameter copies that their MCALLs made, and nothing of their landings is kept; another routine is
suspended, and every load that it or an earlier one started stands. -/
def Core.freezeSeq (k : Core) (n : Nat) : Core :=
  let q := k.mx.seq
  let give := fun (r : Seq) =>
    { r with st := .abandoned, done := false, cycles := n - 1 - r.called, params := (r.pair.map Pair.params).getD r.params }
  let rest := fun (r : Seq) => if r.pair.isSome then give r else if r.st == .running then { r with st := .suspended } else r
  match k.mx.prior ++ (if q.pair.isSome then [q] else []) with
  | [] => { k with mx := { k.mx with seq := rest q } }
  | r :: rs =>
    if (r :: rs).any fun r => r.st == .abandoned then k
    else
      let ours := fun (p : Pending) => match p.dest with
        | .acc _ _ g => g.isSome
        | .exch .. => true
        | _ => false
      { k with pending := k.pending.filter fun p => !ours p,
               mx := { k.mx with loads := k.mx.loads.filter (fun l => !l.paired), prior := k.mx.prior.map give, seq := rest q } }

/-- R199: a suspended sequencer goes on. -/
def Core.thawSeq (k : Core) : Core :=
  if k.mx.seq.st == .suspended then { k with mx := { k.mx with seq := { k.mx.seq with st := .running } } } else k

/-- The order in which R290 chooses among reports. -/
def Report.key (r : Report) : List Nat :=
  if r.rank == 0 then [0]
  else if r.rank == 1 then [1, r.die, r.cluster, r.core, r.word]
  else [2, r.die, r.rank, if r.rank == 2 then r.detail.headD 0 % 8 else r.cluster, r.core]

/-- Whether a list of numbers comes before another. -/
def ageLt : List Nat → List Nat → Bool
  | x :: xs, y :: ys => x < y || (x == y && ageLt xs ys)
  | _, _ => false

/-- The report that stands for those of one boundary. -/
def firstReport (l : List Report) : Option Report :=
  l.foldl (fun o r => match o with | none => some r | some p => if ageLt r.key p.key then some r else some p) none

/-- R290: kernels that stand stopped at this boundary already take one more report: FCAUSE reports the first of theirs and sets MORE. A
kernel that stopped without a report takes this one. -/
def Sys.stopAgain (y : Sys) (r : Report) (qs : List Nat) : Sys :=
  let one := fun (y : Sys) (q : Nat) =>
    match y.kern q with
    | none => y
    | some x =>
      match x.stop with
      | none => y
      | some t =>
        let first := (firstReport (t.report.toList ++ [r])).getD r
        let more := t.more || t.report.isSome
        let kind := if first == r then .fault else t.kind
        let fc := fcauseWord kind (some first) more
        let mark := fun (k : Core) => { k with csr := { k.csr with fcause := fc, fbix := if t.report.isSome then k.csr.fbix
                                                                                       else BitVec.ofNat 64 k.bundlePos } }
        (y.setKern q { x with stop := some { t with kind := kind, report := some first, more := more, collateral := false } }).onCoresOf q mark
  qs.foldl one y

/-- R97, R289, R291: the kernels `qs` stop at this boundary on all of their dies, and every other kernel of those dies stops
with them as collateral. Running and held tile tasks become stopped, and halted and bound ones stay so; those of `qs`, and the reporting core when it is bound to
no kernel, take FCAUSE and FBIX. -/
def Sys.stopAt (y : Sys) (kind : StopKind) (r : Option Report) (more : Bool) (qs ds : List Nat) : Sys :=
  let ds := y.reach ds
  let hit := fun (q : Nat) (x : Kernel) =>
    (x.state == .running || x.state == .held || (x.state == .bound && qs.contains q)) && x.dies.any ds.contains
  let stopped := (y.kernels.filter fun x => hit x.1 x.2).map (·.1)
  let fc := fcauseWord kind r more
  let core := fun (n : Nat) (k : Core) =>
    let k := if ds.contains (dieOf n) then k.freezeSeq (y.die (dieOf n)).gnomon else k
    let mine := match k.kernel with | some q => qs.contains q | none => r.any fun r => r.coreNo == n
    let held := match k.kernel with | some q => stopped.contains q | none => mine
    let pos := match r with
      | some r => if r.coreNo == n then r.pos.getD k.bundlePos else k.bundlePos
      | none => k.bundlePos
    let k := if held && (k.task == .running || k.task == .held) then { k with task := .stopped } else k
    if mine then { k with csr := { k.csr with fcause := fc, fbix := BitVec.ofNat 64 pos } } else k
  let kern := fun (q : Nat) (x : Kernel) =>
    if hit q x then
      let mine := qs.contains q
      { x with state := .stopped,
               stop := some { kind := kind, boundary := (y.die (x.dies.headD 0)).gnomon, hub := y.hub, inval := none,
                              report := if mine then r else none, more := mine && more, collateral := !mine } }
    else x
  let y := { y with cores := y.cores.map fun c => (c.1, core c.1 c.2), kernels := y.kernels.map fun q => (q.1, kern q.1 q.2) }
  ds.foldl (fun y d => let x := y.die d
    if x.run == .shed then y else y.setDie d { x with run := .stopped }) y

/-- R290: a kernel takes a report found outside a cycle: one that stands at a stop joins it to what that boundary has, and any other one
stops here with its dies. -/
def Sys.reportNow (y : Sys) (r : Report) (q : Nat) : Sys :=
  match y.kern q with
  | none => y
  | some x => if x.stop.isSome then y.stopAgain r [q] else y.stopAt .fault (some r) false [q] x.dies

/-- A word of a bundle: its prefix is consumed, and under a true guard `f` takes effect or raises its fault. A guarded-off
word does nothing (R66). -/
def word (s : State) (f : State → Except Trouble State) : Out :=
  let s' := if s.guardOn then
      match f s with
      | .ok t => t
      | .error e => takeFault s e
    else s
  .next { s' with issue := { s'.issue with pfx := none } }

/-- A word that may round with `sr`: its draws are taken whichever way the guard falls (R40, R66). -/
def wordDraw (s : State) (n : Nat) (f : List Nat → State → Except Trouble State) : Out :=
  if s.rm == 5 then
    let (us, g) := draws s.mine.csr.seed n
    word (s.onMine fun k => { k with csr := { k.csr with seed := g } }) (f us)
  else word s (f [])

/-- Checks made on what the word's own access has read: the access stands even when one of them fails (R203). -/
def checked (s : State) (f : Except Trouble State) : Except Trouble State :=
  match f with
  | .ok t => .ok t
  | .error e => .ok (takeFault s e)

/-- A word with no check. -/
def plain (s : State) (f : State → State) : Out := word s fun s => .ok (f s)

end Sys2Proof.Machine
end

