-- ==== Sys2Proof/Machine/Operands.lean ====
section
/-! DEFINITION. Operand forms: scratchpad addresses and accesses (R114, R203), translation (R116, R355, R357), the
physical address map (R234 to R236), landing pointers (R115) and the issue of a service access (R118, R276). -/

namespace Sys2Proof.Machine

/-! ### Scratchpad -/

/-- The checks of R114 on a scratchpad pointer: space 1, the own rank or 127, bits [53:21] zero, and an alignment. -/
def scratchEa (core : Nat) (align : Nat) (ea : Word) : Except Trouble Nat := do
  need (ea.extractLsb' 61 3 == 1) (addrTrouble 0x32 ea)
  let rank := (ea.extractLsb' 54 7).toNat
  need (rank == clusterOf core || rank == 127) (addrTrouble 0x32 ea)
  need (ea.extractLsb' 21 33 == 0) (addrTrouble 0x32 ea)
  need (ea.toNat % align == 0) (addrTrouble 0x33 ea)
  .ok (ea.toNat % 2 ^ 21)

/-- An access of the bundle word in turn to the scratchpad: `n` bytes at `off`, with a tag check when the prefix asks for
one and `checked` names the access that carries it (R65, R202, R203). -/
def State.touch (s : State) (code off n : Nat) (read checked : Bool) : State :=
  let use : BankUse :=
    { core := s.unit, off := off, size := n, code := code, word := some s.issue.word, since := s.now,
      group := s.issue.word, read := read, tag := if checked then s.tagWanted.map (fun t => (off, t)) else none }
  { s with uses := s.uses ++ [use] }

/-- The group of a store's perform access: stores, copies, units and drains have groups of their own, none below 12. -/
def groupStore (issue word : Nat) : Nat := 16 * (16 * issue + word) + 12
/-- The group of a copy's accesses. -/
def groupCopy (start slot : Nat) : Nat := 16 * (16 * start + slot) + 13
/-- The groups of a micro-word's accesses: its A row or pattern, and its scales. -/
def groupUnit (j : Nat) : Nat := 16 * j + 14
/-- The group of an MDRAIN. -/
def groupDrain : Nat := 15

/-- An access made by something that is not a word of this cycle's bundle, with its group (12 and above). -/
def State.touchBy (s : State) (code off n since group : Nat) (read : Bool) : State :=
  let use : BankUse :=
    { core := s.unit, off := off, size := n, code := code, word := none, since := since, group := group, read := read,
      tag := none }
  { s with uses := s.uses ++ [use] }

/-- Scratchpad bytes as before this cycle's writes. -/
def State.spadRead (s : State) (off n : Nat) : Bytes := Mem.read s.me.spad off n

/-- The tag of a granule with its poison bit in bit 15 (R201). -/
def Core.tag (k : Core) (g : Nat) : Nat := SMap.getD k.tags g 0
/-- A granule's tag written, which clears its poison (R201). -/
def Core.setTag (k : Core) (g t : Nat) : Core := { k with tags := SMap.set 0 k.tags g (t % 4096) }

/-- A landing through the landing port: 64 bytes at a granule with its tag (R118, R271). -/
def Core.landGranule (k : Core) (off tag : Nat) (bs : Bytes) : Core :=
  { k with spad := Mem.write k.spad (off / 64 * 64) bs }.setTag (off / 64) tag

/-- A landing's 64 bytes: a value, a status (Table 10.4), zeros. -/
def landingBytes (v : Word) (status : Nat) : Bytes := natLe 8 v.toNat ++ natLe 1 status ++ List.replicate 55 0

/-! ### Physical addresses -/

/-- 48 GiB. -/
def stackBytes : Nat := 48 * 2 ^ 30

/-- A place in a stack: pseudo-channel, bank (layer group, bank group, bank), row, byte of the row. -/
structure Place where
  stack : Nat
  pch   : Nat
  bank  : Nat
  row   : Nat
  byte  : Nat
  deriving DecidableEq, Repr

/-- R234: where a physical address below 384 GiB lies. -/
def placeOf (pa : Nat) : Place :=
  let o := pa % stackBytes
  let f := o / 2 ^ 21
  let b := o % 2 ^ 21
  { stack := pa / stackBytes, pch := f % 64, bank := f / 64 % 4 * 16 + b / 1024 % 16, row := 128 * (f / 256) + b / 16384,
    byte := b % 1024 }

/-- R234 read backwards: the physical address of a place. -/
def addressOf (p : Place) : Nat :=
  p.stack * stackBytes + (256 * (p.row / 128) + 64 * (p.bank / 16) + p.pch) * 2 ^ 21 +
    (p.row % 128 * 16384 + p.bank % 16 * 1024 + p.byte)

/-- Whether a physical address lies in the capacity tier (Table 16.1). -/
def inTier (pa : Nat) : Bool := 0x10000000000 ≤ pa && pa ≤ 0x2FFFFFFFFFF
/-- Whether a physical address names HBM (Table 16.1). -/
def inHbm (pa : Nat) : Bool := pa < 384 * 2 ^ 30

/-- R398: the MAC of a column's bytes: 32 bits of AES-256-GMAC under the integrity key of its die, over them and the column's place. -/
def Sys.macOf (y : Sys) (pa : Nat) (bs : Bytes) : Bytes :=
  let p := placeOf pa
  let place := natLe 1 p.stack ++ natLe 1 p.pch ++ natLe 1 p.bank ++ natLe 4 p.row ++ natLe 1 (p.byte / 64)
  (gcmTag (SMap.getD y.trust.dieKeys (p.stack / 2) []) (Config.macNonce pa) (bs ++ place) []).take 4

/-- The MAC that the bytes of a column call for. -/
def Sys.columnMac (y : Sys) (pa : Nat) : Bytes := y.macOf pa (Mem.read y.hbm (pa / 64 * 64) 64)

/-- R398: whether the MAC that a column carries differs from what its bytes call for. -/
def Sys.macFails (y : Sys) (pa : Nat) : Bool :=
  (SMap.get? y.macs (pa / 64)).getD (y.macOf pa (List.replicate 64 0)) != y.columnMac pa

/-- R241, R398: whether a column of HBM carries an uncorrectable error, or in confidential mode a MAC that does not match. -/
def Sys.poisoned (y : Sys) (pa : Nat) : Bool := y.poison.contains (pa / 64) || (y.trust.conf && y.macFails pa)

/-- The columns that a run of memory meets, by unit number. -/
def columnsIn (pa n : Nat) : List Nat := (List.range ((pa % 64 + n + 63) / 64)).map (pa / 64 + ·)

/-- R241, R398: after a write to a run of HBM the columns that it covers whole carry no error, and in confidential mode each column that it
meets the MAC of its bytes. -/
def Sys.resealed (y : Sys) (pa n : Nat) : Sys :=
  let macs := if y.trust.conf then (columnsIn pa n).foldl (fun m u => SMap.put m u (y.columnMac (64 * u))) y.macs else y.macs
  { y with poison := y.poison.filter fun u => !(pa ≤ 64 * u && 64 * u + 64 ≤ pa + n), macs := macs }

/-- A write to HBM (R241, R398). -/
def Sys.hbmWrite (y : Sys) (pa : Nat) (bs : Bytes) : Sys := { y with hbm := Mem.write y.hbm pa bs }.resealed pa bs.length

/-- HBM cleared, with the errors and MACs of its columns. -/
def Sys.hbmClear (y : Sys) (pa n : Nat) : Sys :=
  let inside := fun (u : Nat) => decide (pa ≤ 64 * u && 64 * u < pa + n)
  { y with hbm := Mem.clear y.hbm pa n, poison := y.poison.filter fun u => !inside u, macs := y.macs.filter fun m => !inside m.1 }

/-- Bytes of physical memory: HBM or the tier. -/
def Sys.memRead (y : Sys) (pa n : Nat) : Bytes := if inTier pa then Mem.read y.tier pa n else Mem.read y.hbm pa n
/-- Physical memory written. -/
def Sys.memWrite (y : Sys) (pa : Nat) (bs : Bytes) : Sys :=
  if inTier pa then { y with tier := Mem.write y.tier pa bs } else y.hbmWrite pa bs
/-- Physical memory cleared. -/
def Sys.memClear (y : Sys) (pa n : Nat) : Sys :=
  if inTier pa then { y with tier := Mem.clear y.tier pa n } else y.hbmClear pa n

/-- The size of a page by its attribute code (Table 16.2). -/
def pageSize (code : BitVec 16) : Nat :=
  match (code.extractLsb' 0 2).toNat with
  | 0 => 2 ^ 12 | 1 => 2 ^ 16 | 2 => 2 ^ 21 | _ => 2 ^ 26
/-- W of a page code. -/
def codeW (c : BitVec 16) : Bool := c.getLsbD 2
/-- PIN. -/
def codePin (c : BitVec 16) : Bool := c.getLsbD 3
/-- CC. -/
def codeCC (c : BitVec 16) : Bool := c.getLsbD 4
/-- CMP. -/
def codeCmp (c : BitVec 16) : Bool := c.getLsbD 5
/-- DD. -/
def codeDD (c : BitVec 16) : Bool := c.getLsbD 6
/-- DCLASS. -/
def codeDclass (c : BitVec 16) : Nat := (c.extractLsb' 8 4).toNat
/-- RLG. -/
def codeRlg (c : BitVec 16) : Nat := (c.extractLsb' 12 3).toNat

/-! ### Translation -/

/-- A context by number. -/
def Sys.ctx (y : Sys) (c : Nat) : Context :=
  SMap.getD y.ctxs c { state := .empty, owner := [], mkey := [], fkey := [], queues := [], pages := [], own := [] }

/-- The context of the kernel that a core is bound to; 0 when it is bound to none. -/
def Sys.ctxOf (y : Sys) (core : Nat) : Nat :=
  match (y.core core).kernel with
  | some k => ((SMap.get? y.kernels k).map (·.ctx)).getD 0
  | none => 0

/-- Whether an entry translates an address for a context. -/
def TlbEntry.covers (e : TlbEntry) (ctx va : Nat) : Bool := e.ctx == ctx && e.va ≤ va && va < e.va + pageSize e.code

/-- R355: the translation a core finds, in its own TLB and then in the die TLB. -/
def Sys.lookup (y : Sys) (core ctx va : Nat) : Option TlbEntry :=
  let d := y.die (dieOf core)
  match (SMap.getD d.coreTlbs core []).find? (fun e => e.covers ctx va) with
  | some e => some e
  | none => d.tlb.find? (fun e => e.covers ctx va)

/-- R355: a hit in the die TLB refills the core-level TLB. -/
def Sys.refill (y : Sys) (core : Nat) (e : TlbEntry) : Sys :=
  let d := y.die (dieOf core)
  let l := SMap.getD d.coreTlbs core []
  if l.contains e then y else y.setDie (dieOf core) { d with coreTlbs := SMap.put d.coreTlbs core (e :: l) }

/-- Whether a page permits a store (R357). -/
def storeOk (code : BitVec 16) : Bool := codeW code && !codeDD code

/-- R236: the place that a bank-direct pointer names, or none when it breaks a rule of the form. -/
def bankDirect (ea : Word) : Option Place :=
  let row := (ea.extractLsb' 16 14).toNat
  if ea.extractLsb' 54 7 == 127 && ea.extractLsb' 45 9 == 0 && ea.extractLsb' 10 6 == 0 && row ≤ 12287 then
    some { stack := (ea.extractLsb' 42 3).toNat, pch := (ea.extractLsb' 36 6).toNat, bank := (ea.extractLsb' 30 6).toNat,
           row := row, byte := (ea.extractLsb' 0 10).toNat }
  else none

/-- Whether a physical address lies in a compute-capable page of a context (R235, R236). -/
def Sys.computeCapable (y : Sys) (ctx pa : Nat) : Bool :=
  (y.ctx ctx).pages.any fun p => codeCC p.code && p.pa ≤ pa && pa < p.pa + pageSize p.code

/-- What a service address leads to: the physical address, whether the page is compressed, and the TLB entry used. -/
structure Target where
  pa    : Nat
  base  : Nat
  cmp   : Bool
  entry : Option TlbEntry
  deriving DecidableEq, Repr

/-- Steps 1 to 4 of R116 on a service address, with the form of space 5 (R267) and of space 7 (R236). -/
def serviceEa (y : Sys) (core size : Nat) (store : Bool) (ea : Word) : Except Trouble Target := do
  let space := (ea.extractLsb' 61 3).toNat
  let ctx := y.ctxOf core
  let peer := (ea.extractLsb' 45 9).toNat
  need (space == 0 || space == 5 || space == 6 || space == 7) (addrTrouble 0x32 ea)
  need (space != 5 || (peer ≤ 319 && peer != y.trust.module)) (addrTrouble 0x32 ea)
  need (space != 7 || (bankDirect ea).isSome) (addrTrouble 0x32 ea)
  need (ea.toNat % size == 0) (addrTrouble 0x33 ea)
  match space with
  | 0 =>
    let va := ea.toNat % 2 ^ 54
    match y.lookup core ctx va with
    | none => .error (addrTrouble 0x30 ea)
    | some e =>
      need (!store || storeOk e.code) (addrTrouble 0x31 ea)
      .ok { pa := e.pa + (va - e.va), base := e.pa, cmp := codeCmp e.code, entry := some e }
  | 7 =>
    let pa := ((bankDirect ea).map addressOf).getD 0
    need (y.computeCapable ctx pa) (addrTrouble 0x31 ea)
    .ok { pa := pa, base := 0, cmp := false, entry := none }
  | _ => .ok { pa := 0, base := 0, cmp := false, entry := none }

/-! ### Issue of a service access -/

/-- OUTST.COUNT of a core as before this cycle's writes, and the accesses this bundle has issued before (R276). -/
def State.outstanding (s : State) : Nat := s.me.csr.outst.toNat + s.issue.sent

/-- OUTST.COUNT raised by one for an access of the bundle (R118). -/
def State.countOut (s : State) : State :=
  let t := s.onMine fun k => { k with csr := { k.csr with outst := k.csr.outst + 1 } }
  { t with issue := { t.issue with sent := t.issue.sent + 1 } }

/-- OUTST.COUNT of a core lowered by one (R118). -/
def Core.outDone (k : Core) : Core := { k with csr := { k.csr with outst := k.csr.outst - 1 } }

/-- The accesses of the core in turn that have not performed, in issue order. -/
def State.ownAccesses (s : State) : List Access := s.cur.accesses.filter fun a => a.core == some s.unit

/-- R118, R275, R281, R282: the access is issued. It must perform after every access that a FENCE or an earlier acquire
orders before it, and, as a release, after every earlier access of the core. -/
def State.issueAccess (s : State) (kind : AccessKind) (ea : Word) (tgt : Target) (size width : Nat) (data data2 : Word)
    (lp : Option Nat) (acq rel : Bool) : State :=
  let own := s.ownAccesses
  let a : Access :=
    { id := s.cur.nextId, core := some s.unit, peer := none, ctx := s.old.ctxOf s.unit, kind := kind, ea := ea, pa := tgt.pa,
      base := tgt.base, cmp := tgt.cmp, size := size, width := width, data := data, data2 := data2, bytes := [], lp := lp,
      tag := s.now % 4096, hub := s.old.hub, word := s.issue.word, acq := acq, arrived := none,
      after := s.mine.fenced ++ ((own.filter fun b => rel || b.acq).map (·.id)), result := none }
  let t := s.onCur fun y =>
    let y := { y with accesses := y.accesses ++ [a], nextId := y.nextId + 1 }
    match tgt.entry with
    | some e => y.refill s.unit e
    | none => y
  t.countOut

end Sys2Proof.Machine
end

