-- ==== Sys2Proof/Machine/Barrier.lean ====
section
/-! DEFINITION. Barriers and stage rings (chapter 15): BARR, BCHK, SACQ, SREL, and the cycles at which they count. -/

namespace Sys2Proof.Machine

/-- The fields of a barrier reference (Table 15.1): NUM, REMOTE, EXP, PHASE. -/
def refNum (v : Word) : Nat := (v.extractLsb' 0 6).toNat
/-- REMOTE of a barrier reference. -/
def refRemote (v : Word) : Bool := v.getLsbD 6
/-- EXP of a barrier reference. -/
def refExp (v : Word) : Nat := (v.extractLsb' 8 16).toNat
/-- PHASE of a barrier reference. -/
def refPhase (v : Word) : Nat := (v.extractLsb' 32 32).toNat
/-- Whether the reserved bits of a barrier reference are zero. -/
def refOk (v : Word) : Bool := !v.getLsbD 7 && v.extractLsb' 24 8 == 0
/-- Whether the reserved bits of a stage reference are zero (Table 15.3). -/
def stageOk (v : Word) : Bool := v.extractLsb' 17 47 == 0 && v.extractLsb' 14 2 == 0 && v.extractLsb' 3 5 == 0
/-- The slot that a stage reference names, as 64 times the ring plus the slot. -/
def stageSlot (v : Word) : Nat := 64 * (v.extractLsb' 0 3).toNat + (v.extractLsb' 8 6).toNat
/-- MODE of a stage reference: 1 consumes. -/
def stageMode (v : Word) : Nat := (v.extractLsb' 16 1).toNat

/-- The detail of a barrier or stage fault: bits [31:0] of the reference (R345). -/
def syncTrouble (v : Word) : Trouble := ⟨0x1F, [v.toNat % 2 ^ 32, 0, 0]⟩

/-- A barrier of a kernel. -/
def Kernel.barrier (x : Kernel) (n : Nat) : Barrier := SMap.getD x.barriers n Barrier.reset
/-- A stage-ring slot of a kernel. -/
def Kernel.slot (x : Kernel) (n : Nat) : RingSlot := SMap.getD x.rings n RingSlot.reset

/-- R343: whether phase p of a barrier is complete. -/
def Barrier.complete (b : Barrier) (p : Nat) : Bool :=
  let d := (b.done + 2 ^ 32 - p % 2 ^ 32) % 2 ^ 32
  1 ≤ d && d ≤ 2 ^ 31

/-- R345: one arrival for phase p with its EXP and REMOTE; none is a late or far-early arrival, or one whose EXP differs. -/
def Barrier.count (b : Barrier) (p e : Nat) (rem : Bool) : Option Barrier :=
  if p == b.done then
    if b.exp.all (· == e) then some { b with exp := some e, arr := b.arr + 1, remote := b.remote || rem } else none
  else if p == (b.done + 1) % 2 ^ 32 then
    if b.expn.all (· == e) then some { b with expn := some e, arrn := b.arrn + 1, remoten := b.remoten || rem } else none
  else none

/-- R345: the end of a counting cycle: too many arrivals, or the completion of the current phase. -/
def Barrier.finish (b : Barrier) : Option Barrier :=
  match b.exp with
  | none => some b
  | some e =>
    if e < b.arr then none
    else if e == b.arr then
      some { done := (b.done + 1) % 2 ^ 32, arr := b.arrn, exp := b.expn, arrn := 0, expn := none, remote := b.remoten,
             remoten := false, last := b.lastn, lastn := none }
    else some b

/-- R350: a SACQ (op 2) or SREL (op 3) of core number `self` counts; none is its fault. -/
def RingSlot.count (r : RingSlot) (op self mode : Nat) : Option RingSlot :=
  if op == 2 then
    if r.owner.isSome || r.full != (mode == 1) then none else some { r with owner := some self, mode := mode }
  else if r.owner != some self || r.mode != mode then none
  else some { full := mode == 0, owner := none, mode := r.mode }

/-- A core's number in its kernel: TCOORD.Y × 160 + TCOORD.X (R338, R349). -/
def Core.number (k : Core) : Nat := (k.csr.tcoord.extractLsb' 16 16).toNat * 160 + (k.csr.tcoord.extractLsb' 0 16).toNat

/-- The latest arrival of its phase noted. -/
def Barrier.note (b : Barrier) (o : SyncOp) : Barrier :=
  if refPhase o.value == b.done then { b with last := some (o.core, o.value) } else { b with lastn := some (o.core, o.value) }

/-- One operation counts on its kernel. -/
def Kernel.countOp (x : Kernel) (self : Nat) (o : SyncOp) : Option Kernel :=
  if o.op == 0 || o.op == 4 then
    ((x.barrier (refNum o.value)).count (refPhase o.value) (refExp o.value) (o.op == 4 || refRemote o.value)).map fun b =>
      { x with barriers := SMap.put x.barriers (refNum o.value) (b.note o) }
  else
    ((x.slot (stageSlot o.value)).count o.op self (stageMode o.value)).map fun r =>
      { x with rings := SMap.put x.rings (stageSlot o.value) r }

/-- The barriers with more arrivals than their EXP. -/
def Kernel.overCounted (x : Kernel) : SMap Barrier := x.barriers.filter fun b => b.2.finish.isNone

/-- The end of a counting cycle on every barrier, or the barrier at fault. -/
def Kernel.finish (x : Kernel) : Except Nat Kernel :=
  match x.barriers.find? fun b => b.2.finish.isNone with
  | some b => .error b.1
  | none => .ok { x with barriers := x.barriers.map fun b => (b.1, b.2.finish.getD b.2) }

/-- R345: whether a barrier's current phase has all its arrivals and completes in the coming cycle. -/
def Kernel.carried (x : Kernel) : Bool := x.barriers.any fun b => b.2.exp.any fun e => decide (e ≤ b.2.arr)

/-- The cycle of a kernel's dies. -/
def Sys.kernelNow (y : Sys) (x : Kernel) : Nat := (y.die (x.dies.headD 0)).gnomon

/-- A fault that a counting operation raises at its core. -/
def syncFault (s : State) (o : SyncOp) : State := { engineFault { s with unit := o.core } (syncTrouble o.value) with unit := s.unit }

/-- Operations counted in order, with their faults. -/
def countAll (q : Nat) (ops : List SyncOp) (s : State) : State :=
  ops.foldl (fun s o =>
    match s.cur.kern q with
    | none => s
    | some x =>
      match x.countOp (s.cur.core o.core).number o with
      | some x => s.onCur fun y => y.setKern q x
      | none => syncFault s o) s

/-- The operations of a kernel that are due in its cycle, of some kinds. -/
def Sys.dueOps (y : Sys) (x : Kernel) (kinds : List Nat) : List SyncOp :=
  kinds.flatMap fun k => x.ops.filter fun o => o.op == k && o.count ≤ y.kernelNow x

/-- R345: the fault of a barrier with too many arrivals names its last one. Of a kernel restored from a changed save area, which holds
neither core nor reference (Table 11.6), it names the kernel's first core, with the reference that the barrier's fields give (log 142). -/
def overFault (y : Sys) (q : Nat) (s : State) (b : Nat × Barrier) : State :=
  let r := b.2.last.getD ((y.coresOf q).headD 0, BitVec.ofNat 64 (b.1 + 64 * b.2.remote.toNat + 256 * b.2.exp.getD 0))
  syncFault s { count := 0, issue := 0, core := r.1, op := 0, value := r.2 }

/-- R345: BARRIER_ARRIVAL_COUNT. Core arrivals count before link contributions; then each barrier's phase may complete. -/
def execBarrierArrivalCount (kernel : Nat) (s : State) : Out :=
  match s.cur.kern kernel with
  | none => .next s
  | some x =>
    let due := s.cur.dueOps x [0, 4]
    let t := s.onCur fun y => y.setKern kernel { x with ops := x.ops.filter fun o => !due.contains o }
    let t := countAll kernel due t
    match t.cur.kern kernel with
    | none => .next t
    | some x =>
      match x.finish with
      | .ok x => .next (t.onCur fun y => y.setKern kernel x)
      | .error _ => .next (x.overCounted.foldl (overFault t.cur kernel) t)

/-- R350: STAGE_OPERATION_COUNT. -/
def execStageOperationCount (kernel : Nat) (s : State) : Out :=
  match s.cur.kern kernel with
  | none => .next s
  | some x =>
    let due := x.ops.filter fun o => (o.op == 2 || o.op == 3) && o.count ≤ s.cur.kernelNow x
    let t := s.onCur fun y => y.setKern kernel { x with ops := x.ops.filter fun o => !due.contains o }
    .next (countAll kernel due t)

/-- An operation of the core in turn that counts 24 cycles after its issue (R345, R350). -/
def State.syncLater (s : State) (op : Nat) (v : Word) : State :=
  match s.me.kernel with
  | none => s
  | some q =>
    s.onCur fun y => y.onKern q fun x =>
      { x with ops := x.ops ++ [{ count := s.now + 24, issue := s.now, core := s.unit, op := op, value := v }] }

/-- R344, R345: BARR. -/
def execBarr (a : BitVec 6) (s : State) : Out :=
  word s fun s => do
    let v := s.sv a
    need (refOk v && refExp v != 0) (syncTrouble v)
    .ok (s.syncLater 0 v)

/-- The barrier that a reference of the core in turn names, with every count made so far. -/
def State.barrierOf (s : State) (v : Word) : Barrier :=
  match s.me.kernel.bind s.cur.kern with
  | some x => x.barrier (refNum v)
  | none => Barrier.reset

/-- R346: BCHK. -/
def execBchk (a : BitVec 6) (s : State) : Out :=
  word s fun s => do
    let v := s.sv a
    need (refOk v) (syncTrouble v)
    need ((s.barrierOf v).complete (refPhase v)) (syncTrouble v)
    .ok s

/-- R349, R350: SACQ. -/
def execSacq (a : BitVec 6) (s : State) : Out :=
  word s fun s => do
    let v := s.sv a
    need (stageOk v) (syncTrouble v)
    .ok (s.syncLater 2 v)

/-- R349, R350: SREL. -/
def execSrel (a : BitVec 6) (s : State) : Out :=
  word s fun s => do
    let v := s.sv a
    need (stageOk v) (syncTrouble v)
    .ok (s.syncLater 3 v)

/-! ### The projection of a hold (R347) -/

/-- One step of the projection: the kernel reached, the counting cycle in turn, and whether an operation has faulted. -/
structure Projection where
  kern  : Kernel
  cycle : Nat
  ended : Bool
  deriving DecidableEq, Repr

/-- The end of the counting cycle in turn. -/
def Projection.finish (p : Projection) : Projection :=
  match p.kern.finish with
  | .ok x => { p with kern := x }
  | .error _ => { p with ended := true }

/-- One pending operation. Carried counts complete their phase in the cycle after (R345). -/
def Projection.take (number : Nat → Nat) (p : Projection) (o : SyncOp) : Projection :=
  let p := if o.count == p.cycle then p
    else if o.count == p.cycle + 1 then { p.finish with cycle := o.count }
    else { p.finish.finish with cycle := o.count }
  if p.ended then p
  else
    match p.kern.countOp (number o.core) o with
    | some x => if x.overCounted.isEmpty then { p with kern := x } else { p with ended := true }
    | none => { p with ended := true }

/-- R347: the kernel as it stands once every BARR, SACQ and SREL in flight has counted, up to the first that would fault. -/
def Sys.project (y : Sys) (x : Kernel) : Kernel :=
  let ops := x.ops.filter fun o => o.op != 4
  let order := sortBy (· ≤ ·) (ops.map (·.count)).eraseDups
  let p := (order.flatMap fun c => ops.filter fun o => o.count == c).foldl (Projection.take fun c => (y.core c).number)
    { kern := x, cycle := y.kernelNow x, ended := false }
  p.finish.finish.kern

end Sys2Proof.Machine
end

