-- ==== Sys2Proof/Machine/LinkOps.lean ====
section
/-! DEFINITION. The operations of the hub's link that several families share (chapter 17): ports and flits, landing windows,
link contributions, and landings of answers. -/

namespace Sys2Proof.Machine

/-! ### Ports and flits -/

/-- A port by number. -/
def Sys.port (y : Sys) (p : Nat) : Port := SMap.getD y.link.ports p Port.reset
/-- The module with a port replaced. -/
def Sys.setPort (y : Sys) (p : Nat) (x : Port) : Sys := { y with link := { y.link with ports := SMap.put y.link.ports p x } }
/-- A port in a state in which LOPEN, LSEND and space-5 accesses may use it (Table 17.1). -/
def Port.usable (x : Port) : Bool :=
  x.state == .keyed || x.state == .retrying || x.state == .answeringHold || x.state == .rejoining
/-- Whether traffic toward the far end is buffered (R375, R377). -/
def Port.holding (x : Port) : Bool := x.state == .answeringHold || x.state == .rejoining

/-- R387: whether firmware's own rejoin flits, beside those of LREJOINs, still wait for answers. -/
def LinkState.rejoining (l : LinkState) : Bool :=
  l.ports.any fun p => p.2.state == .rejoining && decide ((l.rejoins.filter fun r => r.waiting.contains p.1).length < p.2.joins.length)

/-- R367: the port that leads to a module: for one cabled directly the lowest keyed port that leads to it; else the port that starts a path
of fewest hops, ties to the lower one. The hops are the domain's cabling, which firmware learns at training (log 31). A directly cabled
peer none of whose ports is keyed is still reached through one that R366 lets space-5 accesses use (log 31). -/
def Sys.routeTo (y : Sys) (m : Nat) : Option Nat :=
  let l := y.link.ports.filter fun p => p.2.usable
  let direct := l.filter fun p => p.2.peer == some m
  match direct.find? fun p => p.2.state == .keyed with
  | some p => some p.1
  | none =>
    match direct with
    | p :: _ => some p.1
    | [] =>
      let less := fun (a b : Nat) => decide (Config.hops a m < Config.hops b m)
      (l.map (·.1)).foldl (fun o p => match o with | some q => if less p q then some p else some q | none => some p) none

/-- KIND codes of Table 17.2. -/
def kindData : Nat := 1
/-- Window open. -/
def kindOpen : Nat := 2
/-- Acknowledgement. -/
def kindAck : Nat := 3
/-- Checksum failure. -/
def kindBad : Nat := 4
/-- Hold. -/
def kindHold : Nat := 5
/-- Rejoin. -/
def kindRejoin : Nat := 6
/-- Rejoin answer. -/
def kindRejoined : Nat := 7
/-- Space-5 request. -/
def kindRequest : Nat := 8
/-- Space-5 answer. -/
def kindAnswer : Nat := 9
/-- Refusal. -/
def kindRefusal : Nat := 10

/-- A flit of a kind with a transfer number and every other field zero. -/
def flitOf (kind xfer : Nat) : SentFlit :=
  { seq := 0, kind := kind, xfer := xfer, dcore := 0, win := 0, last := false, goff := 0, csum := 0, data := [], image := [] }

/-- The 32 bytes of a flit's header (Table 17.2). -/
def SentFlit.header (f : SentFlit) : Bytes :=
  natLe 8 f.seq ++ natLe 1 f.kind ++ natLe 3 f.xfer ++ natLe 2 f.dcore ++ natLe 1 f.win ++ natLe 1 (if f.last then 1 else 0) ++
    natLe 4 f.goff ++ natLe 4 f.csum ++ natLe 8 0

/-- R368, R397: the 256 bytes of a flit: its header, the data field enciphered with AES-256-GCM under the port's key and a nonce of salt and
SEQ, the header being additional authenticated data, and the tag. -/
def Port.encipher (x : Port) (f : SentFlit) : Bytes :=
  let nonce := x.txSalt ++ natLe 8 f.seq
  let ct := gcmCrypt x.txKey nonce (f.data ++ List.replicate (192 - f.data.length) 0)
  f.header ++ ct ++ gcmTag x.txKey nonce f.header ct ++ List.replicate 16 0

/-- R368: a flit of this port with its SEQ and its bytes. -/
def Port.formed (x : Port) (f : SentFlit) : SentFlit :=
  let g := { f with seq := x.txSeq }
  { g with image := x.encipher g }

/-- R368, R369: a new flit takes the next SEQ and stays in the replay buffer as it went over the wire. -/
def Port.transmit (x : Port) (f : SentFlit) : Port :=
  { x with txSeq := x.txSeq + 1, replay := x.replay ++ [x.formed f] }

/-- R370: acknowledgements, checksum failures and refusals are kept until they are acknowledged themselves. -/
def SentFlit.kept (f : SentFlit) : Bool := f.kind == kindAck || f.kind == kindBad || f.kind == kindRefusal

/-- A flit is sent, or buffered toward a holding end (R375). Hold, rejoin and answer flits pass at once. -/
def Port.send (x : Port) (f : SentFlit) : Port :=
  let x := if f.kept then { x with acks := x.acks ++ [x.formed f] } else x
  if x.holding && f.kind != kindHold && f.kind != kindRejoin && f.kind != kindRejoined && !f.kept then
    { x with held := x.held ++ [f] }
  else x.transmit f

/-- A flit sent through a port. -/
def Sys.sendFlit (y : Sys) (p : Nat) (f : SentFlit) : Sys := y.setPort p ((y.port p).send f)

/-- Table 17.1: a port that retries is keyed again once nothing is to be sent or received again. -/
def Port.settled (x : Port) : Port :=
  if x.state == .retrying && x.nak.isNone && x.asked.isNone then { x with state := .keyed } else x

/-- R369, R370: the peer has acknowledged every flit before a SEQ: they leave the replay buffer, and acknowledgement-kind flits need not be
kept. -/
def Port.acknowledged (x : Port) (upto : Nat) : Port :=
  let ended := x.nak.any fun n => decide (n < upto)
  Port.settled { x with
    replay := x.replay.filter fun f => decide (upto ≤ f.seq), acks := x.acks.filter fun f => decide (upto ≤ f.seq),
    nak := if ended then none else x.nak, retries := if ended then 0 else x.retries }

/-! ### Landings of answers (R118, R361, R374) -/

/-- R271, Table 10.3: writes through the landing port. The bytes that timed writes of the same cycle wrote stand, and so do the tag and the
poison of a granule whose timed write writes tags. -/
def Core.landing (k : Core) (f : Core → Core) : Core :=
  let t := f k
  let tag := fun (m : SMap Nat) (g : Nat) => SMap.set 0 m g (SMap.getD k.tags g 0)
  { t with
      spad := k.wrote.foldl (fun m w => Mem.write m w.1 (Mem.read k.spad w.1 w.2.1)) t.spad,
      tags := (k.wrote.filter fun w => w.2.2).foldl (fun m w => (List.range (w.2.1 / 64)).foldl (fun m i => tag m (w.1 / 64 + i)) m) t.tags }

/-- The scratchpad ranges of a core that timed writes have written, with whether each wrote tags: a copy sector does (R201, R203). -/
def timedWrites (uses : List BankUse) (core : Nat) : List (Nat × Nat × Bool) :=
  (uses.filter fun u => u.core == core && !u.read).map fun u => (u.off, u.size, u.code == 0x0B)

/-- The core in turn with a landing of the cycle in turn. -/
def State.landMine (s : State) (f : Core → Core) : State :=
  s.onMine fun k => { ({ k with wrote := timedWrites s.uses s.unit }.landing f) with wrote := k.wrote }

/-- An answer lands in a granule of a core with a tag; OUTST.COUNT falls by one. -/
def Sys.landAnswer (y : Sys) (core off tag : Nat) (v : Word) (status : Nat) : Sys :=
  y.setCore core ((y.core core).landing fun k => k.landGranule off tag (landingBytes v status)).outDone

/-- An entry of the error log (HKLOG, Table 20.3): a byte each of cause, die, space and status, and the address as far as the
eight bytes hold it (log 30). -/
def hkEntry (cause die space status addr : Nat) : Word :=
  BitVec.ofNat 64 (cause % 256 + 256 * (die % 256) + 2 ^ 16 * (space % 256) + 2 ^ 24 * (status % 256) + 2 ^ 32 * (addr % 2 ^ 32))

/-- The module with an entry added to the error log, which keeps the last eight. -/
def Sys.hkAdd (y : Sys) (w : Word) : Sys := { y with trust := { y.trust with hklog := (y.trust.hklog ++ [w]).drop 1 } }

/-! ### Landing windows (R371) -/

/-- WSTATE of a window block (Table 17.3). -/
def LandWin.state (w : LandWin) : Nat := fieldLe w.block 32 1
/-- RCVD. -/
def LandWin.rcvd (w : LandWin) : Nat := fieldLe w.block 36 4
/-- NGRAN. -/
def LandWin.ngran (w : LandWin) : Nat := fieldLe w.block 8 4
/-- PEER. -/
def LandWin.peer (w : LandWin) : Nat := fieldLe w.block 12 2
/-- PORT. -/
def LandWin.port (w : LandWin) : Nat := fieldLe w.block 14 1
/-- XFER. -/
def LandWin.xfer (w : LandWin) : Nat := fieldLe w.block 16 3
/-- COLL. -/
def LandWin.coll (w : LandWin) : Nat := fieldLe w.block 20 2
/-- STEP. -/
def LandWin.step (w : LandWin) : Nat := fieldLe w.block 24 4
/-- BAR. -/
def LandWin.bar (w : LandWin) : Word := BitVec.ofNat 64 (fieldLe w.block 48 8)
/-- The scratchpad offset of granule j of a window. -/
def LandWin.granuleAt (w : LandWin) (j : Nat) : Nat := (fieldLe w.block 0 8) % 2 ^ 21 + 64 * j

/-- A window's block with WSTATE, RCVD and PSTEP written; the other bytes that the hub writes are zero. -/
def LandWin.change (w : LandWin) (st rcvd pstep : Nat) : LandWin :=
  { w with block := w.block.take 32 ++ natLe 1 st ++ natLe 3 0 ++ natLe 4 rcvd ++ natLe 4 pstep ++ natLe 4 0 ++ w.block.drop 48 }

/-- R371: a window with its changed state, written to bytes 32 to 63 of its block's granule with the window's tag. -/
def Core.putWin (k : Core) (n : Nat) (w : LandWin) : Core :=
  { k with wins := SMap.put k.wins n w, spad := Mem.write k.spad (w.granule + 32) (w.block.drop 32) }.setTag (w.granule / 64) w.tag

/-- R372: a granule set to zero and poisoned. -/
def Core.poison (k : Core) (off tag : Nat) : Core :=
  { k with spad := Mem.write k.spad off (List.replicate 64 0), tags := SMap.set 0 k.tags (off / 64) (tag % 4096 + 2 ^ 15) }

/-- R372: every granule that the transfer wrote is zeroed and poisoned. -/
def Core.poisonWin (k : Core) (w : LandWin) : Core := w.written.foldl (fun k j => k.poison (w.granuleAt j) w.tag) k

/-- The bound core of a number (R338), among those that satisfy a test. -/
def Sys.coreNumbered (y : Sys) (n : Nat) (f : Core → Bool) : Option Nat :=
  (y.cores.find? fun c => c.2.kernel.isSome && c.2.number == n && f c.2).map (·.1)

/-! ### Link contributions (R345, R347, R372, R444) -/

/-- A barrier reference for the phase before. -/
def refBefore (v : Word) : Word := v - 0x100000000

/-- R345: a contribution that counts at once, with the completions that its barrier has come to; none is its fault. -/
def Kernel.countNow (x : Kernel) (self : Nat) (o : SyncOp) : Option Kernel :=
  let n := refNum o.value
  (x.countOp self o).bind fun x => ((x.barrier n).finish.bind Barrier.finish).map fun b => { x with barriers := SMap.put x.barriers n b }

/-- A contribution to the barrier that `v` names, for the kernel of a core: it counts in the first cycle of the die after this,
or at once while that kernel does not run or its die does not. A fault raised then stops the kernel where it stands, or joins the report of
one that stopped at this boundary (R290). -/
def contribute (s : State) (core : Nat) (v : Word) : State :=
  match (s.cur.core core).kernel with
  | none => s
  | some q =>
    match s.cur.kern q with
    | none => s
    | some x =>
      let o : SyncOp := { count := s.cur.kernelNow x, issue := s.cur.kernelNow x, core := core, op := 4, value := v }
      if x.state == .running && (s.cur.die (dieOf core)).run == .running then
        s.onCur fun y => y.setKern q { x with ops := x.ops ++ [o] }
      else
        match x.countNow (s.cur.core core).number o with
        | some x => s.onCur fun y => y.setKern q x
        | none =>
          let r : Report :=
            { rank := 3, late := false, die := dieOf core, cluster := clusterOf core % 20, core := core % 8, word := 0,
              cause := 0x1F, detail := (syncTrouble v).detail, pos := none, kernel := some q }
          s.onCur fun y => y.reportNow r q

/-- R345, R347: when a kernel comes to be held, the contributions it has received and not yet counted count at once, and so does a
phase whose carried counts are already complete. -/
def settleContributions (s : State) (q : Nat) : State :=
  match s.cur.kern q with
  | none => s
  | some x =>
    let due := x.ops.filter fun o => o.op == 4
    let t := due.foldl (fun s o => contribute s o.core o.value)
      (s.onCur fun y => y.setKern q { x with ops := x.ops.filter fun o => o.op != 4 })
    t.onCur fun y => y.onKern q fun x => x.finish.toOption.getD x

/-! ### Transfers (R373, R374, R376) -/

/-- A transfer's data flits: three granules each, the last with the CRC-32C of the plaintext (Table 17.2). -/
def transferFlits (x : Transfer) : List SentFlit :=
  let n := (x.ngran + 2) / 3
  let csum := (crc32c x.data).toNat
  (List.range n).map fun i =>
    let part := (x.data.drop (192 * i)).take 192
    { flitOf kindData x.xfer with
        dcore := x.dcore, win := x.win, last := i + 1 == n, goff := 3 * i, csum := if i + 1 == n then csum else 0,
        data := part ++ List.replicate (192 - part.length) 0 }

/-- The module with a transfer replaced. -/
def Sys.setTransfer (y : Sys) (x z : Transfer) : Sys :=
  { y with link := { y.link with transfers := y.link.transfers.map fun w => if w == x then z else w } }

/-- A transfer's flits sent through its port. -/
def Sys.sendTransfer (y : Sys) (x : Transfer) : Sys := (transferFlits x).foldl (fun y f => y.sendFlit x.port f) y

/-- Whether a transfer has read all of its source. -/
def Transfer.whole (x : Transfer) : Bool := decide (64 * x.ngran ≤ x.data.length)

/-- R374: transfers between two modules on one port are sent in the issue order of their LSENDs, each once its source has been read. -/
def Sys.sendReady (y : Sys) (port peer : Nat) : Sys :=
  let mine := y.link.transfers.filter fun x => x.port == port && x.peer == peer && !x.sent
  (mine.takeWhile Transfer.whole).foldl (fun y x => (y.setTransfer x { x with sent := true }).sendTransfer x) y

/-- R374: a transfer of the core in turn reads its source sector of this cycle, and is sent once its last is read and the transfers before it
are. -/
def readTransfer (s : State) (x : Transfer) : State :=
  let i := s.cur.gn s.unit - x.start - 1
  if x.core != s.unit || x.whole || s.cur.gn s.unit ≤ x.start then s
  else
    let n := Nat.min 256 (64 * x.ngran - 256 * i)
    let t := s.touchBy 0x16 (x.src + 256 * i) n x.start (groupCopy x.start 0) true
    let data := x.data ++ s.spadRead (x.src + 256 * i) n
    t.onCur fun y => (y.setTransfer x { x with data := data }).sendReady x.port x.peer

/-- The module with a transfer ended and its status landed in the send block's granule (R374). -/
def Sys.settle (y : Sys) (x : Transfer) (v : Word) (status : Nat) : Sys :=
  { y with link := { y.link with transfers := y.link.transfers.filter fun z => z != x } }.landAnswer x.core x.block x.start v status

end Sys2Proof.Machine
end

