-- ==== Sys2Proof/Machine/Control.lean ====
section
/-! DEFINITION. The control class, majors 0x14 to 0x17 (R120 to R126), the die transfers (R127, R128), the CSR
instructions (R303), and the events of the control window. -/

namespace Sys2Proof.Machine

/-- The position and idle cycles left after one more cycle of sequential issue (Table 3.1). -/
def walkIndex (k : Core) (pos idle : Nat) : Nat × Nat :=
  if idle != 0 then (pos, idle - 1)
  else
    match decodeIndex (SMap.getD k.index pos 0) with
    | some (.idleRun n) => (pos + 1, n - 1)
    | some .literalBundle => (pos + 25, 0)
    | _ => (pos + 1, 0)

/-- R121: the position that sequential flow would consume next after the third delay cycle. -/
def linkPosition (k : Core) (pos : Nat) : Nat :=
  let a := walkIndex k pos 0
  let b := walkIndex k a.1 a.2
  (walkIndex k b.1 b.2).1

/-- R120: a transferring instruction opens its window; one inside another's window raises 0x16. -/
def openWindow (target : Nat) (transfer : Bool) (s : State) : Except Trouble State := do
  need s.me.window.isNone (trouble 0x16)
  .ok (s.onMine fun k => { k with window := some { issued := s.now, target := target, transfer := transfer, link := none } })

/-- R121: BR. -/
def execBr (t : BitVec 17) (s : State) : Out := word s (openWindow t.toNat true)

/-- R121: BRC, taken when p xor C = 1. -/
def execBrc (t : BitVec 17) (c : BitVec 1) (p : BitVec 6) (s : State) : Out :=
  word s fun s => openWindow t.toNat (xor (s.me.pname p.toNat) (c == 1)) s

/-- R121: CALL; the link is readable from the next cycle. -/
def execCall (t : BitVec 17) (p : BitVec 6) (s : State) : Out :=
  word s fun s => do
    let link := BitVec.ofNat 64 (linkPosition s.me s.mine.ip)
    let s' ← openWindow t.toNat true s
    .ok ((s'.onMine fun k => { k with window := k.window.map fun w => { w with link := some (p.toNat, link) } }).laterS 1 p link 0)

/-- R121: RET. -/
def execRet (i : BitVec 12) (a : BitVec 6) (s : State) : Out :=
  word s fun s => do
    let target := (s.addImm a i).toNat
    let s' ← openWindow target true s
    need (target ≤ 131071) (trouble 0x09)
    .ok s'

/-- R122: LOOPSET. -/
def execLoopset (d : BitVec 5) (a : BitVec 6) (s : State) : Out :=
  plain s fun s =>
    let lc : Word := BitVec.ofNat 64 (d.toNat * 2 ^ 32 + (s.sv a).toNat % 2 ^ 32)
    let s' := s.later 1 (.csr 0x11 lc false) 0
    (List.range 32).foldl (fun t j => t.later 1 (.pred (s.me.physp (32 + j)) (j == 0)) 0) s'

/-- CNT of LC (Table 5.2). -/
def lcCnt (lc : Word) : Nat := (lc.extractLsb' 0 32).toNat
/-- DEPTH of LC. -/
def lcDepth (lc : Word) : Nat := (lc.extractLsb' 32 5).toNat

/-- R123: whether a started iteration still has a stage to run. -/
def loopLive (k : Core) : Bool := (List.range (lcDepth k.csr.lc)).any fun j => k.pname (32 + j)

/-- R123: the rotated base. -/
def rotated (b : Word) : Word := BitVec.ofNat 64 ((b.toNat + 31) % 32)

/-- R123: LOOPB decides at issue; its writes are applied at the boundary between t + 3 and t + 4
(`execLoopbBoundaryWrites`). -/
def execLoopb (t : BitVec 17) (s : State) : Out :=
  word s fun s => do
    let f := s.me.csr
    let start := lcCnt f.lc != 0
    let taken := start || loopLive s.me
    let s' ← openWindow t.toNat taken s
    .ok (if taken then s'.later 4 (.loopb (f.lc - 1) (rotated f.rotv) (rotated f.rotp) start) 0 else s')

/-- R124: TCHK, unconditional. -/
def execTchk (i : BitVec 12) (a : BitVec 6) (s : State) : Out :=
  word s fun s => do
    let want := s.addImm a i
    let got := BitVec.ofInt 64 ((s.now : Int) - s.me.start)
    need (want == got) ⟨0x10, [(want - got).toNat % 2 ^ 32, 0, 0]⟩
    .ok s

/-- R125: HALT ends the tile task; an open window is abandoned with any pending LOOPB writes. -/
def execHalt (s : State) : Out :=
  plain s fun s => s.onMine fun k =>
    { k with task := .halted, window := none,
             pending := k.pending.filter fun p => match p.dest with | .loopb .. => false | _ => true }

/-- R126: TRAP reports cause 0x00 with its code; the stop falls at the boundary after the bundle, whose every word takes
effect. -/
def execTrap (i : BitVec 12) (a : BitVec 6) (s : State) : Out :=
  plain s fun s =>
    let code := (s.addImm a i).toNat
    { s with faults := s.faults ++ [{ s.reportOf 1 ⟨0x00, [code % 2 ^ 32, code / 2 ^ 32, 0]⟩ with late := true, pos := some s.me.bundlePos }] }

/-- R120: at the start of cycle t + 4 the window ends, and a transfer sets the index pointer and abandons an idle run
(R74). -/
def execControlTransfer (s : State) : Out :=
  .next (s.onMine fun k =>
    match k.window with
    | some w => { k with window := none, ip := if w.transfer then w.target else k.ip,
                         idle := if w.transfer then 0 else k.idle }
    | none => k)

/-! ### Die transfers -/

/-- The physical dies of the kernel of a core, by logical number (R317). -/
def Sys.diesOf (y : Sys) (core : Nat) : List Nat :=
  match (y.core core).kernel with
  | some k => ((SMap.get? y.kernels k).map (·.dies)).getD []
  | none => []

/-- R127: the physical die that DIE names, or 0x18 for its own die and for a logical die the kernel does not have. -/
def partnerDie (s : State) (e : BitVec 2) : Except Trouble Nat :=
  match (s.old.diesOf s.unit)[e.toNat]? with
  | some d => if d == dieOf s.unit then .error (trouble 0x18) else .ok d
  | none => .error (trouble 0x18)

/-- The vectors on their way to a core from a die, sent in a cycle. -/
def sentIn (k : Core) (die cycle : Nat) : Bool :=
  k.pending.any fun p => match p.dest with | .die d _ _ => d == die && p.issue == cycle | _ => false

/-- R127: XSEND; the vector arrives for cycle t + 20. A second XSEND of the cluster to the same die in one cycle raises
0x18 at the higher core. -/
def execXsend (e : BitVec 2) (v : BitVec 6) (s : State) : Out :=
  word s fun s => do
    let d ← partnerDie s e
    let first := d * 160 + s.unit % 160 / 8 * 8
    need (!((List.range 8).any fun j => sentIn (s.cur.core (first + j)) (dieOf s.unit) s.now)) (trouble 0x18)
    let p : Pending :=
      { land := s.now + 20, issue := s.now, word := s.issue.word, flags := 0,
        dest := .die (dieOf s.unit) (s.me.vname v.toNat) true }
    .ok (s.onCore (d * 160 + s.unit % 160) fun k => { k with pending := k.pending ++ [p] })

/-- R127, R128: XRECV takes the vector that arrived for its cycle; one that a link error spoilt writes no register. -/
def execXrecv (e : BitVec 2) (v : BitVec 6) (s : State) : Out :=
  word s fun s => do
    let d ← partnerDie s e
    match s.mine.arrived.find? (fun x => x.1 == d) with
    | none => .error (trouble 0x18)
    | some x =>
      let s' := s.onMine fun k => { k with arrived := k.arrived.filter fun y => y.1 != d }
      .ok (if x.2.2 then s'.laterV 2 (s.me.physv v.toNat) x.2.1 (BitVec.allOnes 4096) 0 else s')

/-- R127: the vectors due at the receiving core in this cycle have arrived. -/
def execDieTransferArrival (s : State) : Out :=
  .next (s.onMine fun k =>
    let due := k.pending.filterMap fun p =>
      match p.dest with
      | .die d v ok => if p.land == s.cur.gn s.unit then some (d, v, ok) else none
      | _ => none
    { k with arrived := k.arrived ++ due,
             pending := k.pending.filter fun p =>
               match p.dest with
               | .die .. => p.land != s.cur.gn s.unit
               | _ => true })

/-! ### CSR instructions -/

/-- R303: CSRR, readable from t + 2. -/
def execCsrr (c : BitVec 12) (d : BitVec 6) (s : State) : Out :=
  plain s fun s => s.laterS 2 d (s.old.readCsr s.unit c.toNat) 0

/-- R102, R303: a CSR takes a value that governs from the next cycle. A write of FFLAGS applies in its own cycle, before
the flags of that cycle's results join it (R41). -/
def csrWrite (c : BitVec 12) (v : Word) (s : State) : State :=
  if c == 0x19 then s.onMine fun k => { k with csr := k.csr.write 0x19 v }
  else s.later 1 (.csr c.toNat v true) 0

/-- R303: CSRW. -/
def execCsrw (c : BitVec 12) (a : BitVec 6) (s : State) : Out := plain s fun s => csrWrite c (s.sv a) s
/-- R303: CSRS. -/
def execCsrs (c : BitVec 12) (a : BitVec 6) (s : State) : Out :=
  plain s fun s => csrWrite c (s.old.readCsr s.unit c.toNat ||| s.sv a) s
/-- R303: CSRC. -/
def execCsrc (c : BitVec 12) (a : BitVec 6) (s : State) : Out :=
  plain s fun s => csrWrite c (s.old.readCsr s.unit c.toNat &&& ~~~(s.sv a)) s

/-! ### Results landing -/

/-- A result written to its place (Table 11.6a). Stores, accumulator rows, exchange rows and die transfers have events of
their own. -/
def Core.writeDest (k : Core) (d : Dest) : Core :=
  match d with
  | .scalar r v => k.setS r v
  | .pred r b => k.setP r b
  | .mask r m => k.setK r m
  | .csr c v _ => { k with csr := k.csr.write c v }
  | .vector r v map => k.setV r ((k.vreg r &&& ~~~map) ||| (v &&& map))
  | .store off bs _ => { k with spad := Mem.write k.spad off bs }
  | .acc .. => k
  | .exch row bs => { k with mx := { k.mx with exch := Mem.write k.mx.exch (512 * row) bs } }
  | .die .. => k
  | .loopb lc rotv rotp p32 =>
    let k := { k with csr := { k.csr with lc := if p32 then lc else k.csr.lc, rotv := rotv, rotp := rotp } }
    k.setP (k.physp 32) p32

/-- The results that land by RESULT_LAND at the start of a cycle. -/
def Dest.isRegister : Dest → Bool
  | .scalar .. | .pred .. | .mask .. | .csr .. | .vector .. => true
  | _ => false

/-- The writes of LOOPB. -/
def Dest.isLoopb : Dest → Bool
  | .loopb .. => true
  | _ => false

/-- A CSR instruction's write of LC, ROTV or ROTP, which a LOOPB's writes at the same boundary overwrite (R123). -/
def Dest.yields : Dest → Bool
  | .csr c _ byCsr => byCsr && 0x11 ≤ c && c ≤ 0x13
  | _ => false

/-- The results of a core that land in a cycle and satisfy a test, in landing order: the order of issue (R106), but for the
CSR writes that yield to a LOOPB of the same boundary. -/
def Core.due (k : Core) (now : Nat) (f : Dest → Bool) : List Pending :=
  let l := k.pending.filter fun p => p.land == now && f p.dest
  if l.any (fun p => p.dest.isLoopb) then l.filter (fun p => p.dest.yields) ++ l.filter (fun p => !p.dest.yields) else l

/-- The core with one result landed: written, its flags due in this cycle (R41), and removed from flight. -/
def Core.landOne (k : Core) (p : Pending) : Core :=
  let k := { k with pending := k.pending.erase p }
  { k.writeDest p.dest with flagsDue := k.flagsDue ||| p.flags }

/-- The first due result of a kind lands. -/
def landFirst (f : Dest → Bool) (s : State) : Out :=
  match (s.mine.due (s.cur.gn s.unit) fun d => d.isRegister || d.isLoopb).find? (fun p => f p.dest) with
  | some p => .next (s.onMine fun k => k.landOne p)
  | none => .next s

/-- R105, R106: the next result due in this cycle becomes readable. -/
def execResultLand (s : State) : Out := landFirst Dest.isRegister s

/-- R123: LOOPB's writes at its boundary. -/
def execLoopbBoundaryWrites (s : State) : Out := landFirst Dest.isLoopb s

/-- A store performs: its bytes reach the bank, as an access of this cycle (R117, R162, R203). -/
def performStore (codes : Nat → Bool) (s : State) : Out :=
  match s.mine.due (s.cur.gn s.unit) (fun d => match d with | .store _ _ c => codes c | _ => false) with
  | p :: _ =>
    match p.dest with
    | .store off bs c =>
      let s' := s.touchBy c off bs.length p.issue (groupStore p.issue p.word) false
      .next (s'.onMine fun k => k.landOne p)
    | _ => .next s
  | [] => .next s

/-- R117: an STS performs in cycle t + 2. -/
def execScalarStorePerform (s : State) : Out := performStore (· == 0x02) s
/-- R162: a VST performs in cycle t + 3. -/
def execVectorStorePerform (s : State) : Out := performStore (· == 0x05) s
/-- R213: an SSAVE writes its record in cycle t + 2. -/
def execStreamRecordWrite (s : State) : Out := performStore (· == 0x08) s

end Sys2Proof.Machine
end

