-- ==== Sys2Proof/Machine/Flags.lean ====
section
/-! DEFINITION. The accrued flags: how the flags of an operation join FFLAGS (R41). The flags themselves are computed with
each result in Num. -/

namespace Sys2Proof.Machine

/-- R41: flags of an operation that lands or performs in this cycle. They join FFLAGS at the end of the cycle. -/
def Core.raise (k : Core) (fl : Flags) : Core := { k with flagsDue := k.flagsDue ||| fl }

/-- R41: at the end of a cycle the flags of its landings join FFLAGS, after a CSR instruction's write of the cycle. -/
def Core.joinFlags (k : Core) : Core :=
  { k with flagsDue := 0, csr := { k.csr with fflags := k.csr.fflags ||| k.flagsDue.setWidth 64 } }

/-- The flags of a list of element results. -/
def joined (rs : List (Nat × Flags)) : Flags := rs.foldl (fun fl r => fl ||| r.2) 0

end Sys2Proof.Machine
end

