-- ==== Sys2Proof/Machine/Vector.lean ====
section
/-! DEFINITION. The vector class, majors 0x18 to 0x29 (chapter 06), but for VMOVS, which reads a stream. -/

namespace Sys2Proof.Machine

/-! ### Elements, groups and masks (R130, R134, R135) -/

/-- The elements of a register at width `w`. -/
def elems (w : Nat) (v : Vec) : List Nat := unpackN w (4096 / w) v.toNat

/-- The elements of a group of `f` registers based at a name (R130). -/
def groupElems (k : Core) (base f w : Nat) : List Nat := (List.range f).flatMap fun j => elems w (k.vname (base + j))

/-- The mask bit that governs element `e` of an operation of `n` elements (R134). -/
def maskPos (n e : Nat) : Nat := if n ≤ 512 then e else e / 2

/-- What a masked form governs its elements by: the mask, and ZM (R135). -/
structure Masking where
  m  : Mask
  zm : Bool
  deriving DecidableEq, Repr

/-- The one-word forms use k0 (R135). -/
def Masking.all : Masking := ⟨BitVec.allOnes 512, false⟩

/-- The mask of a two-word form, read at issue. -/
def State.masking (s : State) (k : BitVec 4) (zm : BitVec 1) : Masking := ⟨s.me.kreg k.toNat, zm == 1⟩

/-- Element results under a mask: the value written, and the write map of all ones, or zero where the element is left
unwritten; and the flags of the unmasked elements. -/
def applyMask (mk : Masking) (n w : Nat) (rs : List (Nat × Flags)) : List (Nat × Nat) × Flags :=
  let ones := 2 ^ w - 1
  let r := (rs.zip (List.range n)).map fun x =>
    if mk.m.getLsbD (maskPos n x.2) then ((x.1.1, ones), x.1.2)
    else if mk.zm then ((0, ones), (0 : Flags)) else ((0, 0), (0 : Flags))
  (r.map (·.1), r.foldl (fun a x => a ||| x.2) 0)

/-- The results of `f` registers from a name, landing together (R136). -/
def writeGroup (s : State) (lat d f w : Nat) (rs : List (Nat × Nat)) (fl : Flags) : State :=
  let per := 4096 / w
  (List.range f).foldl (fun t j =>
    let part := (rs.drop (j * per)).take per
    t.laterV lat (s.me.physv (d + j)) (BitVec.ofNat 4096 (packN w (part.map (·.1))))
      (BitVec.ofNat 4096 (packN w (part.map (·.2)))) (if j == 0 then fl else 0)) s

/-- Element results written to a group under a mask. -/
def masked (mk : Masking) (lat d f w : Nat) (rs : List (Nat × Flags)) (s : State) : State :=
  let r := applyMask mk (f * (4096 / w)) w rs
  writeGroup s lat d f w r.1 r.2

/-- One draw per element, zeros when the mode takes none. -/
def drawsFor (us : List Nat) (n : Nat) : List Nat := if us.isEmpty then List.replicate n 0 else us

/-! ### Elementwise arithmetic (R142, R143) -/

/-- An element operation of three operands: mode, saturation, draw, x, y, z. -/
abbrev ElemOp := Nat → Bool → Nat → Nat → Nat → Nat → Nat × Flags

/-- One rounding of an exact result with its flags (R37, R38). -/
def rounded (f mode : Nat) (sat : Bool) (u : Nat) (v : FVal × Flags) : Nat × Flags :=
  let r := roundVal f mode sat u v.1
  (r.1, v.2 ||| r.2)

/-- R143: VADD. -/
def addElem (f : Nat) : ElemOp := fun mode sat u x y _ =>
  if isFl f then rounded f mode sat u (fAdd mode (decodeF f x) (decodeF f y))
  else intResult f sat (intVal f x + intVal f y)
/-- R143: VSUB. -/
def subElem (f : Nat) : ElemOp := fun mode sat u x y _ =>
  if isFl f then rounded f mode sat u (fAdd mode (decodeF f x) (decodeF f y).negate)
  else intResult f sat (intVal f x - intVal f y)
/-- R143: VMUL. -/
def mulElem (f : Nat) : ElemOp := fun mode sat u x y _ =>
  if isFl f then rounded f mode sat u (fMul (decodeF f x) (decodeF f y))
  else intResult f sat (intVal f x * intVal f y)
/-- R143: VMIN and VMAX. -/
def minMaxElem (isMax : Bool) (f : Nat) : ElemOp := fun _ _ _ x y _ =>
  if isFl f then fMinMax isMax f x y
  else if isMax then (if intVal f x < intVal f y then y else x, 0) else (if intVal f y < intVal f x then y else x, 0)
/-- R143: VFMA. -/
def fmaElem (f : Nat) : ElemOp := fun mode sat u x y z =>
  rounded f mode sat u (fFma mode (decodeF f x) (decodeF f y) (decodeF f z))
/-- R143: VFMS. -/
def fmsElem (f : Nat) : ElemOp := fun mode sat u x y z =>
  rounded f mode sat u (fFma mode (decodeF f x) (decodeF f y) (decodeF f z).negate)

/-- Latency by the class of the format (R138). -/
def latFl (f : Nat) : Nat := if isFl f then 4 else 3

/-- A three-operand elementwise instruction (R141 to R143). `rounds` says whether it takes draws. -/
def vector3 (op : ElemOp) (rounds : Bool) (lat : Nat) (b a d f : BitVec 6) (mk : State → Masking) (s : State) : Out :=
  let w := fmtWidth f.toNat
  let n := 4096 / w
  let run := fun (us : List Nat) (s : State) =>
    let k := s.me
    let rs := List.zipWith (fun (u : Nat) (xyz : Nat × Nat × Nat) => op s.rm s.sat u xyz.1 xyz.2.1 xyz.2.2)
      (drawsFor us n)
      ((elems w (k.vname a.toNat)).zip ((elems w (k.vname b.toNat)).zip (elems w (k.vname d.toNat))))
    .ok (masked (mk s) lat d.toNat 1 w rs s)
  if rounds then wordDraw s n run else word s (run [])

/-- R143: VADD. -/
def execVadd (b a d f : BitVec 6) (s : State) : Out := vector3 (addElem f.toNat) (isFl f.toNat) (latFl f.toNat) b a d f (fun _ => .all) s
/-- R143, R135: VADD, two-word form. -/
def execVaddMasked (b a d f : BitVec 6) (k : BitVec 4) (zm : BitVec 1) (s : State) : Out :=
  vector3 (addElem f.toNat) (isFl f.toNat) (latFl f.toNat) b a d f (·.masking k zm) s
/-- R143: VMUL. -/
def execVmul (b a d f : BitVec 6) (s : State) : Out := vector3 (mulElem f.toNat) (isFl f.toNat) (latFl f.toNat) b a d f (fun _ => .all) s
/-- R143, R135: VMUL, two-word form. -/
def execVmulMasked (b a d f : BitVec 6) (k : BitVec 4) (zm : BitVec 1) (s : State) : Out :=
  vector3 (mulElem f.toNat) (isFl f.toNat) (latFl f.toNat) b a d f (·.masking k zm) s
/-- R143: VSUB. -/
def execVsub (b a d f : BitVec 6) (s : State) : Out := vector3 (subElem f.toNat) (isFl f.toNat) (latFl f.toNat) b a d f (fun _ => .all) s
/-- R143, R135: VSUB, two-word form. -/
def execVsubMasked (b a d f : BitVec 6) (k : BitVec 4) (zm : BitVec 1) (s : State) : Out :=
  vector3 (subElem f.toNat) (isFl f.toNat) (latFl f.toNat) b a d f (·.masking k zm) s
/-- R143: VMIN. -/
def execVmin (b a d f : BitVec 6) (s : State) : Out := vector3 (minMaxElem false f.toNat) false (latFl f.toNat) b a d f (fun _ => .all) s
/-- R143, R135: VMIN, two-word form. -/
def execVminMasked (b a d f : BitVec 6) (k : BitVec 4) (zm : BitVec 1) (s : State) : Out :=
  vector3 (minMaxElem false f.toNat) false (latFl f.toNat) b a d f (·.masking k zm) s
/-- R143: VMAX. -/
def execVmax (b a d f : BitVec 6) (s : State) : Out := vector3 (minMaxElem true f.toNat) false (latFl f.toNat) b a d f (fun _ => .all) s
/-- R143, R135: VMAX, two-word form. -/
def execVmaxMasked (b a d f : BitVec 6) (k : BitVec 4) (zm : BitVec 1) (s : State) : Out :=
  vector3 (minMaxElem true f.toNat) false (latFl f.toNat) b a d f (·.masking k zm) s
/-- R143: VFMA. -/
def execVfma (b a d f : BitVec 6) (s : State) : Out := vector3 (fmaElem f.toNat) true 5 b a d f (fun _ => .all) s
/-- R143, R135: VFMA, two-word form. -/
def execVfmaMasked (b a d f : BitVec 6) (k : BitVec 4) (zm : BitVec 1) (s : State) : Out :=
  vector3 (fmaElem f.toNat) true 5 b a d f (·.masking k zm) s
/-- R143: VFMS. -/
def execVfms (b a d f : BitVec 6) (s : State) : Out := vector3 (fmsElem f.toNat) true 5 b a d f (fun _ => .all) s
/-- R143, R135: VFMS, two-word form. -/
def execVfmsMasked (b a d f : BitVec 6) (k : BitVec 4) (zm : BitVec 1) (s : State) : Out :=
  vector3 (fmsElem f.toNat) true 5 b a d f (·.masking k zm) s

/-! ### Unary operations (R144 to R146) -/

/-- A unary elementwise instruction. -/
def vector1 (op : Nat → Bool → Nat → Nat → Nat × Flags) (rounds : Bool) (lat : Nat) (a d f : BitVec 6)
    (mk : State → Masking) (s : State) : Out :=
  let w := fmtWidth f.toNat
  let n := 4096 / w
  let run := fun (us : List Nat) (s : State) =>
    let rs := List.zipWith (fun u x => op s.rm s.sat u x) (drawsFor us n) (elems w (s.me.vname a.toNat))
    .ok (masked (mk s) lat d.toNat 1 w rs s)
  if rounds then wordDraw s n run else word s (run [])

/-- R145: floating VABS and VNEG on the sign bit; a NaN gives the canonical NaN. -/
def signElem (neg : Bool) (f x : Nat) : Nat × Flags :=
  let h := 2 ^ (fmtWidth f - 1)
  match decodeF f x with
  | .nan sg => (canonNaN f, flagIf sg fNV)
  | _ => (if neg then (x + h) % (2 * h) else x % h, 0)

/-- R145: VABS. -/
def absElem (f : Nat) (_mode : Nat) (sat : Bool) (_u x : Nat) : Nat × Flags :=
  if isFl f then signElem false f x else intResult f sat (intVal f x).natAbs
/-- R145: VNEG. -/
def negElem (f : Nat) (_mode : Nat) (sat : Bool) (_u x : Nat) : Nat × Flags :=
  if isFl f then signElem true f x else intResult f sat (-(intVal f x))
/-- R146: a transcendental. -/
def transElem (t : Trans) (f : Nat) (mode : Nat) (sat : Bool) (u x : Nat) : Nat × Flags :=
  transVal t f mode sat u (decodeF f x)
/-- A result that depends on the bits of the element alone (R145, R30). -/
def bitsElem (g : Nat → Nat) (_mode : Nat) (_sat : Bool) (_u x : Nat) : Nat × Flags := (g x, 0)

/-- R145: VABS. -/
def execVabs (a d f : BitVec 6) (s : State) : Out := vector1 (absElem f.toNat) false 3 a d f (fun _ => .all) s
/-- R145, R135: VABS, two-word form. -/
def execVabsMasked (a d f : BitVec 6) (k : BitVec 4) (zm : BitVec 1) (s : State) : Out :=
  vector1 (absElem f.toNat) false 3 a d f (·.masking k zm) s
/-- R145: VNEG. -/
def execVneg (a d f : BitVec 6) (s : State) : Out := vector1 (negElem f.toNat) false 3 a d f (fun _ => .all) s
/-- R145, R135: VNEG, two-word form. -/
def execVnegMasked (a d f : BitVec 6) (k : BitVec 4) (zm : BitVec 1) (s : State) : Out :=
  vector1 (negElem f.toNat) false 3 a d f (·.masking k zm) s
/-- R146: VEXP2. -/
def execVexp2 (a d f : BitVec 6) (s : State) : Out := vector1 (transElem .exp2 f.toNat) true 10 a d f (fun _ => .all) s
/-- R146, R135: VEXP2, two-word form. -/
def execVexp2Masked (a d f : BitVec 6) (k : BitVec 4) (zm : BitVec 1) (s : State) : Out :=
  vector1 (transElem .exp2 f.toNat) true 10 a d f (·.masking k zm) s
/-- R146: VLOG2. -/
def execVlog2 (a d f : BitVec 6) (s : State) : Out := vector1 (transElem .log2 f.toNat) true 10 a d f (fun _ => .all) s
/-- R146, R135: VLOG2, two-word form. -/
def execVlog2Masked (a d f : BitVec 6) (k : BitVec 4) (zm : BitVec 1) (s : State) : Out :=
  vector1 (transElem .log2 f.toNat) true 10 a d f (·.masking k zm) s
/-- R146: VRCP. -/
def execVrcp (a d f : BitVec 6) (s : State) : Out := vector1 (transElem .rcp f.toNat) true 10 a d f (fun _ => .all) s
/-- R146, R135: VRCP, two-word form. -/
def execVrcpMasked (a d f : BitVec 6) (k : BitVec 4) (zm : BitVec 1) (s : State) : Out :=
  vector1 (transElem .rcp f.toNat) true 10 a d f (·.masking k zm) s
/-- R146: VRSQ. -/
def execVrsq (a d f : BitVec 6) (s : State) : Out := vector1 (transElem .rsq f.toNat) true 10 a d f (fun _ => .all) s
/-- R146, R135: VRSQ, two-word form. -/
def execVrsqMasked (a d f : BitVec 6) (k : BitVec 4) (zm : BitVec 1) (s : State) : Out :=
  vector1 (transElem .rsq f.toNat) true 10 a d f (·.masking k zm) s
/-- R146: VSQRT. -/
def execVsqrt (a d f : BitVec 6) (s : State) : Out := vector1 (transElem .sqrt f.toNat) true 10 a d f (fun _ => .all) s
/-- R146, R135: VSQRT, two-word form. -/
def execVsqrtMasked (a d f : BitVec 6) (k : BitVec 4) (zm : BitVec 1) (s : State) : Out :=
  vector1 (transElem .sqrt f.toNat) true 10 a d f (·.masking k zm) s
/-- R146: VTANH. -/
def execVtanh (a d f : BitVec 6) (s : State) : Out := vector1 (transElem .tanh f.toNat) true 10 a d f (fun _ => .all) s
/-- R146, R135: VTANH, two-word form. -/
def execVtanhMasked (a d f : BitVec 6) (k : BitVec 4) (zm : BitVec 1) (s : State) : Out :=
  vector1 (transElem .tanh f.toNat) true 10 a d f (·.masking k zm) s
/-- R146: VSIGM. -/
def execVsigm (a d f : BitVec 6) (s : State) : Out := vector1 (transElem .sigm f.toNat) true 10 a d f (fun _ => .all) s
/-- R146, R135: VSIGM, two-word form. -/
def execVsigmMasked (a d f : BitVec 6) (k : BitVec 4) (zm : BitVec 1) (s : State) : Out :=
  vector1 (transElem .sigm f.toNat) true 10 a d f (·.masking k zm) s
/-- R145: VNOT. -/
def execVnot (a d f : BitVec 6) (s : State) : Out := vector1 (bitsElem fun x => 2 ^ fmtWidth f.toNat - 1 - x) false 3 a d f (fun _ => .all) s
/-- R145, R135: VNOT, two-word form. -/
def execVnotMasked (a d f : BitVec 6) (k : BitVec 4) (zm : BitVec 1) (s : State) : Out :=
  vector1 (bitsElem fun x => 2 ^ fmtWidth f.toNat - 1 - x) false 3 a d f (·.masking k zm) s
/-- R30, R145: VCLZ. -/
def execVclz (a d f : BitVec 6) (s : State) : Out := vector1 (bitsElem (clzNat (fmtWidth f.toNat))) false 3 a d f (fun _ => .all) s
/-- R30, R145, R135: VCLZ, two-word form. -/
def execVclzMasked (a d f : BitVec 6) (k : BitVec 4) (zm : BitVec 1) (s : State) : Out :=
  vector1 (bitsElem (clzNat (fmtWidth f.toNat))) false 3 a d f (·.masking k zm) s
/-- R30, R145: VFFS. -/
def execVffs (a d f : BitVec 6) (s : State) : Out := vector1 (bitsElem (ffsNat (fmtWidth f.toNat))) false 3 a d f (fun _ => .all) s
/-- R30, R145, R135: VFFS, two-word form. -/
def execVffsMasked (a d f : BitVec 6) (k : BitVec 4) (zm : BitVec 1) (s : State) : Out :=
  vector1 (bitsElem (ffsNat (fmtWidth f.toNat))) false 3 a d f (·.masking k zm) s
/-- R30, R145: VPOPC. -/
def execVpopc (a d f : BitVec 6) (s : State) : Out := vector1 (bitsElem (popcNat (fmtWidth f.toNat))) false 3 a d f (fun _ => .all) s
/-- R30, R145, R135: VPOPC, two-word form. -/
def execVpopcMasked (a d f : BitVec 6) (k : BitVec 4) (zm : BitVec 1) (s : State) : Out :=
  vector1 (bitsElem (popcNat (fmtWidth f.toNat))) false 3 a d f (·.masking k zm) s

/-! ### Logic and shifts (R147) -/

/-- The width of a W code of the vector class: 8, 16, 32 or 64 (R147). -/
def wBits (w : Nat) : Nat := 8 * 2 ^ (w % 4)

/-- An elementwise operation on the bits of two operands. -/
def vectorBits (op : Nat → Nat → Nat → Nat) (b a d : BitVec 6) (w : BitVec 3) (mk : State → Masking) (s : State) : Out :=
  plain s fun s =>
    let n := wBits w.toNat
    let rs := List.zipWith (fun x y => (op n x y, (0 : Flags))) (elems n (s.me.vname a.toNat)) (elems n (s.me.vname b.toNat))
    masked (mk s) 3 d.toNat 1 n rs s

/-- R147: VAND. -/
def execVand (b a d : BitVec 6) (w : BitVec 3) (s : State) : Out := vectorBits (fun _ x y => x &&& y) b a d w (fun _ => .all) s
/-- R147, R135: VAND, two-word form. -/
def execVandMasked (b a d : BitVec 6) (w : BitVec 3) (k : BitVec 4) (zm : BitVec 1) (s : State) : Out :=
  vectorBits (fun _ x y => x &&& y) b a d w (·.masking k zm) s
/-- R147: VOR. -/
def execVor (b a d : BitVec 6) (w : BitVec 3) (s : State) : Out := vectorBits (fun _ x y => x ||| y) b a d w (fun _ => .all) s
/-- R147, R135: VOR, two-word form. -/
def execVorMasked (b a d : BitVec 6) (w : BitVec 3) (k : BitVec 4) (zm : BitVec 1) (s : State) : Out :=
  vectorBits (fun _ x y => x ||| y) b a d w (·.masking k zm) s
/-- R147: VXOR. -/
def execVxor (b a d : BitVec 6) (w : BitVec 3) (s : State) : Out := vectorBits (fun _ x y => x ^^^ y) b a d w (fun _ => .all) s
/-- R147, R135: VXOR, two-word form. -/
def execVxorMasked (b a d : BitVec 6) (w : BitVec 3) (k : BitVec 4) (zm : BitVec 1) (s : State) : Out :=
  vectorBits (fun _ x y => x ^^^ y) b a d w (·.masking k zm) s
/-- R147: VSHL. -/
def execVshl (b a d : BitVec 6) (w : BitVec 3) (s : State) : Out := vectorBits (fun n x y => x * 2 ^ (y % n) % 2 ^ n) b a d w (fun _ => .all) s
/-- R147, R135: VSHL, two-word form. -/
def execVshlMasked (b a d : BitVec 6) (w : BitVec 3) (k : BitVec 4) (zm : BitVec 1) (s : State) : Out :=
  vectorBits (fun n x y => x * 2 ^ (y % n) % 2 ^ n) b a d w (·.masking k zm) s
/-- R147: VSHR. -/
def execVshr (b a d : BitVec 6) (w : BitVec 3) (s : State) : Out := vectorBits (fun n x y => x / 2 ^ (y % n)) b a d w (fun _ => .all) s
/-- R147, R135: VSHR, two-word form. -/
def execVshrMasked (b a d : BitVec 6) (w : BitVec 3) (k : BitVec 4) (zm : BitVec 1) (s : State) : Out :=
  vectorBits (fun n x y => x / 2 ^ (y % n)) b a d w (·.masking k zm) s
/-- R147: VSAR. -/
def execVsar (b a d : BitVec 6) (w : BitVec 3) (s : State) : Out := vectorBits (fun n x y => truncInt n (sval n x / 2 ^ (y % n))) b a d w (fun _ => .all) s
/-- R147, R135: VSAR, two-word form. -/
def execVsarMasked (b a d : BitVec 6) (w : BitVec 3) (k : BitVec 4) (zm : BitVec 1) (s : State) : Out :=
  vectorBits (fun n x y => truncInt n (sval n x / 2 ^ (y % n))) b a d w (·.masking k zm) s

/-! ### Comparison and selection (R148, R149) -/

/-- R148: a floating comparison with its flag. -/
def cmpFloat (c f x y : Nat) : Bool × Flags :=
  let p := decodeF f x
  let q := decodeF f y
  let nan := p.isNaN || q.isNaN
  let lt := fLt p q
  let gt := fLt q p
  let eq := !nan && !lt && !gt
  (match c with
    | 0 => eq
    | 1 => !eq
    | 2 => lt
    | 3 => lt || eq
    | 4 => gt
    | 5 => gt || eq
    | _ => nan, flagIf (p.isSNaN || q.isSNaN) fNV)

/-- R148: an integer comparison. -/
def cmpInt (c f x y : Nat) : Bool :=
  let p := intVal f x
  let q := intVal f y
  match c with
  | 0 => p == q
  | 1 => p != q
  | 2 => p < q
  | 3 => p ≤ q
  | 4 => q < p
  | _ => q ≤ p

/-- R148: VCMP; bits n to 511 are written zero. -/
def execVcmp (b a : BitVec 6) (c k : BitVec 4) (f : BitVec 4) (s : State) : Out :=
  plain s fun s =>
    let g := f.toNat
    let w := fmtWidth g
    let rs := List.zipWith (fun x y => if isFl g then cmpFloat c.toNat g x y else (cmpInt c.toNat g x y, 0))
      (elems w (s.me.vname a.toNat)) (elems w (s.me.vname b.toNat))
    let m : Mask := BitVec.ofNat 512 (packN 1 (rs.map fun r => if r.1 then 1 else 0))
    s.later 3 (.mask k.toNat m) (rs.foldl (fun fl r => fl ||| r.2) 0)

/-- R149: VSEL. -/
def execVsel (b a d : BitVec 6) (k : BitVec 4) (w : BitVec 2) (s : State) : Out :=
  plain s fun s =>
    let n := wBits w.toNat
    let m := s.me.kreg k.toNat
    let xs := elems n (s.me.vname a.toNat)
    let ys := elems n (s.me.vname b.toNat)
    let rs := ((xs.zip ys).zip (List.range (4096 / n))).map fun x =>
      (if m.getLsbD x.2 then x.1.1 else x.1.2, (0 : Flags))
    masked .all 3 d.toNat 1 n rs s

/-! ### Conversion and quantisation (R150 to R153) -/

/-- R151: one element from format `fs` to format `fd`. -/
def cvtElem (fs fd mode : Nat) (sat : Bool) (u x : Nat) : Nat × Flags :=
  if isIn fs then
    if isIn fd then intResult fd sat (intVal fs x)
    else roundVal fd mode sat u (.fin (decide (intVal fs x < 0)) (intVal fs x).natAbs 0)
  else if isIn fd then floatToInt fd mode u (decodeF fs x)
  else roundVal fd mode sat u (decodeF fs x)

/-- R150, R151: VCVT under a mask. -/
def vcvt (sf : BitVec 4) (a d f : BitVec 6) (mk : State → Masking) (s : State) : Out :=
  let ws := fmtWidth sf.toNat
  let wd := fmtWidth f.toNat
  let n := 4096 / Nat.min ws wd
  let ints := isIn sf.toNat && isIn f.toNat
  let run := fun (us : List Nat) (s : State) =>
    let rs := List.zipWith (fun u x => cvtElem sf.toNat f.toNat s.rm s.sat u x) (drawsFor us n)
      (groupElems s.me a.toNat (n * ws / 4096) ws)
    .ok (masked (mk s) (if ints then 3 else 4) d.toNat (n * wd / 4096) wd rs s)
  if ints then word s (run []) else wordDraw s n run

/-- The blocks of R152 in order: the elements of each block as positions. -/
def vectorBlocks (rows cols : Nat) : List (List Nat) :=
  (List.range rows).flatMap fun r => (List.range ((cols + 31) / 32)).map fun b =>
    (List.range (Nat.min 32 (cols - 32 * b))).map fun c => r * cols + 32 * b + c

/-- ROWS of VSH (Table 6.1). -/
def vshRows (vsh : Word) : Nat := vsh.toNat % 128

/-- R152: the scales and elements of VQNT: flags of the blocks, the scale bytes, and the element results in order. -/
def quantise (mk : Masking) (fs fd mode n rows : Nat) (us xs : List Nat) : List Nat × Flags × List (Nat × Flags) :=
  let rs := (vectorBlocks rows (n / rows)).map fun blk =>
    let real := blk.filter fun e => mk.m.getLsbD (maskPos n e)
    let sc := blockScale fd (real.map fun e => decodeF fs (xs.getD e 0))
    (sc, blk.map fun e => quantElem fd mode (us.getD e 0) sc.1 (decodeF fs (xs.getD e 0)))
  (rs.map (·.1.1), rs.foldl (fun fl r => fl ||| r.1.2) 0, rs.flatMap (·.2))

/-- R152: VQNT under a mask. The scale register vD + 1 is written in full. -/
def vqnt (sf : BitVec 4) (a d f : BitVec 6) (mk : State → Masking) (s : State) : Out :=
  let ws := fmtWidth sf.toNat
  let wd := fmtWidth f.toNat
  let n := 4096 / wd
  wordDraw s n fun us s =>
    let q := quantise (mk s) sf.toNat f.toNat s.rm n (vshRows s.me.csr.vsh) (drawsFor us n)
      (groupElems s.me a.toNat (ws / wd) ws)
    let t := masked (mk s) 4 d.toNat 1 wd q.2.2 s
    .ok (t.laterV 4 (s.me.physv (d.toNat + 1)) (BitVec.ofNat 4096 (packN 8 q.1)) (BitVec.allOnes 4096) q.2.1)

/-- R153: VDQNT under a mask. -/
def vdqnt (sf : BitVec 4) (a d f : BitVec 6) (mk : State → Masking) (s : State) : Out :=
  let ws := fmtWidth sf.toNat
  let wd := fmtWidth f.toNat
  let n := 4096 / ws
  wordDraw s n fun us s =>
    let xs := elems ws (s.me.vname a.toNat)
    let sc := elems 8 (s.me.vname (a.toNat + 1))
    let rows := vshRows s.me.csr.vsh
    let scs := ((vectorBlocks rows (n / rows)).zip sc).flatMap fun b => b.1.map fun _ => b.2
    let rs := List.zipWith (fun (u : Nat) (x : Nat × Nat) =>
      roundVal f.toNat s.rm s.sat u (decodeScaled sf.toNat x.1 x.2)) (drawsFor us n) (xs.zip scs)
    .ok (masked (mk s) 4 d.toNat (wd / ws) wd rs s)

/-- R151: VCVT. -/
def execVcvt (sf : BitVec 4) (a d f : BitVec 6) (s : State) : Out := vcvt sf a d f (fun _ => .all) s
/-- R151, R135: VCVT, two-word form. -/
def execVcvtMasked (sf : BitVec 4) (a d f : BitVec 6) (k : BitVec 4) (zm : BitVec 1) (s : State) : Out :=
  vcvt sf a d f (·.masking k zm) s
/-- R152: VQNT. -/
def execVqnt (sf : BitVec 4) (a d f : BitVec 6) (s : State) : Out := vqnt sf a d f (fun _ => .all) s
/-- R152, R135: VQNT, two-word form. -/
def execVqntMasked (sf : BitVec 4) (a d f : BitVec 6) (k : BitVec 4) (zm : BitVec 1) (s : State) : Out :=
  vqnt sf a d f (·.masking k zm) s
/-- R153: VDQNT. -/
def execVdqnt (sf : BitVec 4) (a d f : BitVec 6) (s : State) : Out := vdqnt sf a d f (fun _ => .all) s
/-- R153, R135: VDQNT, two-word form. -/
def execVdqntMasked (sf : BitVec 4) (a d f : BitVec 6) (k : BitVec 4) (zm : BitVec 1) (s : State) : Out :=
  vdqnt sf a d f (·.masking k zm) s

/-! ### Reduction and rearrangement (R154 to R157) -/

/-- R154: the exact sum of floating terms rounded once. An exact zero is +0, but −0 under `rdn` and when every term is −0. -/
def sumFloat (f mode : Nat) (sat : Bool) (u : Nat) (xs : List FVal) : Nat × Flags :=
  let v := (xs.foldl ExactSum.addVal .zero).value
  match v.1 with
  | .fin _ 0 _ => (withSign f (mode == 3 || xs.all fun x => x.isNeg) 0, v.2)
  | x => rounded f mode sat u (x, v.2)

/-- R154: one reduced element. -/
def reduce (o f mode : Nat) (sat : Bool) (u : Nat) (xs : List Nat) : Nat × Flags :=
  match o with
  | 0 =>
    if isFl f then sumFloat f mode sat u (xs.map (decodeF f))
    else intResult f sat ((xs.map (intVal f)).foldl (· + ·) 0)
  | _ =>
    match xs with
    | [] => (0, 0)
    | x :: r =>
      let first := minMaxElem (o == 2) f 0 false 0 x x 0
      r.foldl (fun acc y => let v := minMaxElem (o == 2) f 0 false 0 acc.1 y 0; (v.1, acc.2 ||| v.2)) first

/-- R154: VRED; elements past the reduced ones are written zero. -/
def execVred (o : BitVec 2) (m : BitVec 1) (a d f : BitVec 6) (s : State) : Out :=
  let w := fmtWidth f.toNat
  let n := 4096 / w
  let run := fun (us : List Nat) (s : State) =>
    let rows := vshRows s.me.csr.vsh
    let cols := n / rows
    let xs := elems w (s.me.vname a.toNat)
    let lists := if m == 0 then (List.range rows).map fun r => (xs.drop (r * cols)).take cols
      else (List.range cols).map fun c => (List.range rows).map fun r => xs.getD (r * cols + c) 0
    let rs := List.zipWith (fun u l => reduce o.toNat f.toNat s.rm s.sat u l) (drawsFor us n) lists
    .ok (masked .all (latFl f.toNat) d.toNat 1 w (rs ++ List.replicate (n - rs.length) (0, 0)) s)
  if o == 0 && isFl f.toNat then wordDraw s n run else word s (run [])

/-- A result whose element `e` is `g e`, with no flag. -/
def rearrange (w : BitVec 3) (d : BitVec 6) (g : Nat → Nat) (s : State) : State :=
  let n := wBits w.toNat
  masked .all 3 d.toNat 1 n ((List.range (4096 / n)).map fun e => (g e, 0)) s

/-- R155: VTRN; element c·R + r of the result is element r·C + c of the source. -/
def execVtrn (a d : BitVec 6) (w : BitVec 3) (s : State) : Out :=
  plain s fun s =>
    let n := 4096 / wBits w.toNat
    let rows := vshRows s.me.csr.vsh
    let xs := elems (wBits w.toNat) (s.me.vname a.toNat)
    rearrange w d (fun e => xs.getD (e % rows * (n / rows) + e / rows) 0) s

/-- R156: VSHUF. -/
def execVshuf (b a d : BitVec 6) (w : BitVec 3) (s : State) : Out :=
  plain s fun s =>
    let n := 4096 / wBits w.toNat
    let xs := elems (wBits w.toNat) (s.me.vname a.toNat)
    let is := elems (wBits w.toNat) (s.me.vname b.toNat)
    rearrange w d (fun e => xs.getD (if n == 512 then is.getD e 0 + 256 * (e / 256) else is.getD e 0 % n) 0) s

/-- R157: VBCST. -/
def execVbcst (a d : BitVec 6) (w : BitVec 3) (s : State) : Out :=
  plain s fun s => rearrange w d (fun _ => (s.sv a).toNat % 2 ^ wBits w.toNat) s

/-- R157: VINS writes one element; every other is left unwritten (R136). -/
def execVins (b a d : BitVec 6) (w : BitVec 3) (s : State) : Out :=
  plain s fun s =>
    let n := wBits w.toNat
    let e := (s.sv b).toNat % (4096 / n)
    s.laterV 3 (s.me.physv d.toNat) (BitVec.ofNat 4096 ((s.sv a).toNat % 2 ^ n * 2 ^ (n * e)))
      (BitVec.ofNat 4096 ((2 ^ n - 1) * 2 ^ (n * e))) 0

/-! ### Loads, stores and bank formats (R159 to R162) -/

/-- A bank format register: KIND, SF, TF (Table 6.7). -/
structure BankFormat where
  kind : Nat
  sf   : Nat
  tf   : Nat
  deriving DecidableEq, Repr

/-- BFMT of the bank of a scratchpad offset. -/
def Core.bfmtAt (k : Core) (off : Nat) : BankFormat :=
  let b := (SMap.getD k.bfmt (off / 65536) 0).toNat
  { kind := b % 4, sf := b / 16 % 16, tf := b / 256 % 16 }

/-- R159: a permitted KIND 1. -/
def BankFormat.widening (b : BankFormat) : Bool :=
  b.kind == 1 && 1 ≤ b.sf && b.sf ≤ 5 && b.tf ≤ 2 && fmtWidth b.sf < fmtWidth b.tf

/-- R159: width(TF) / width(SF), 1 for a raw bank. -/
def BankFormat.factor (b : BankFormat) : Nat := if b.widening then fmtWidth b.tf / fmtWidth b.sf else 1

/-- The effective address of the vector memory forms (R160). -/
def State.vecEa (s : State) (o a : BitVec 6) : Word := s.sv a + BitVec.ofInt 64 (s.immU o * 512)

/-- The checks of R160 in order: the offset and the bank's format. -/
def vectorEa (s : State) (raw : Bool) (ea : Word) : Except Trouble (Nat × BankFormat) := do
  let off ← scratchEa s.unit 1 ea
  let b := s.me.bfmtAt off
  need (raw || b.kind == 0 || b.widening) (addrTrouble 0x34 ea)
  need (off % (if raw then 512 else 512 / b.factor) == 0) (addrTrouble 0x33 ea)
  .ok (off, b)

/-- R161: the register value of the bytes of a bank. -/
def widen (b : BankFormat) (bs : Bytes) : Vec × Flags :=
  if b.widening then
    let rs := (unpackN (fmtWidth b.sf) (4096 / fmtWidth b.tf) (leNat bs)).map fun x =>
      roundVal b.tf 0 false 0 (decodeF b.sf x)
    (BitVec.ofNat 4096 (packN (fmtWidth b.tf) (rs.map (·.1))), rs.foldl (fun fl r => fl ||| r.2) 0)
  else (vecOfBytes bs, 0)

/-- R161: VLD. -/
def execVld (o a d : BitVec 6) (s : State) : Out :=
  word s fun s => do
    let (off, b) ← vectorEa s false (s.vecEa o a)
    let n := 512 / b.factor
    let (v, fl) := widen b (s.spadRead off n)
    .ok ((s.touch 0x03 off n true true).laterV 5 (s.me.physv d.toNat) v (BitVec.allOnes 4096) fl)

/-- R161: VLDX. -/
def execVldx (o a d : BitVec 6) (s : State) : Out :=
  word s fun s => do
    let (off, _) ← vectorEa s true (s.vecEa o a)
    .ok ((s.touch 0x04 off 512 true true).laterV 5 (s.me.physv d.toNat) (vecOfBytes (s.spadRead off 512))
      (BitVec.allOnes 4096) 0)

/-- The bytes that a VST writes and their flags (R161). -/
def narrow (b : BankFormat) (mode : Nat) (sat : Bool) (us : List Nat) (v : Vec) : Bytes × Flags :=
  if b.widening then
    let n := 4096 / fmtWidth b.tf
    let rs := List.zipWith (fun u x => roundVal b.sf mode sat u (decodeF b.tf x)) (drawsFor us n) (elems (fmtWidth b.tf) v)
    (natLe (512 / b.factor) (packN (fmtWidth b.sf) (rs.map (·.1))), rs.foldl (fun fl r => fl ||| r.2) 0)
  else (bytesOfVec v, 0)

/-- R161, R162: VST. Its draws are fixed by the BFMT read at issue, whatever its guard. -/
def execVst (o a d : BitVec 6) (s : State) : Out :=
  let ea := s.vecEa o a
  let b := s.me.bfmtAt (ea.toNat % 2 ^ 21)
  wordDraw s (if b.widening then 4096 / fmtWidth b.tf else 0) fun us s => do
    let (off, b) ← vectorEa s false ea
    let (bs, fl) := narrow b s.rm s.sat us (s.me.vname d.toNat)
    .ok (s.later 3 (.store off bs 0x05) fl)

/-! ### Modular arithmetic and butterflies (R163, R164) -/

/-- A modular operation on the 64 elements, with QMOD and QINV read at issue. -/
def vectorMod (op : Nat → Nat → Nat → Nat → Nat) (b a d : BitVec 6) (s : State) : Out :=
  plain s fun s =>
    let q := s.me.csr.qmod.toNat
    let qi := s.me.csr.qinv.toNat
    let rs := List.zipWith (fun x y => (op q qi x y, (0 : Flags))) (elems 64 (s.me.vname a.toNat))
      (elems 64 (s.me.vname b.toNat))
    masked .all 7 d.toNat 1 64 rs s

/-- R163: VADDMOD. -/
def execVaddmod (b a d : BitVec 6) (s : State) : Out := vectorMod (fun q _ x y => addmod q x y) b a d s
/-- R163: VSUBMOD. -/
def execVsubmod (b a d : BitVec 6) (s : State) : Out := vectorMod (fun q _ x y => submod q x y) b a d s
/-- R163: VMULMOD. -/
def execVmulmod (b a d : BitVec 6) (s : State) : Out := vectorMod mulmod b a d s

/-- A butterfly on the pair vB, vB + 1 with twiddles vA, into the pair vD, vD + 1 (R164). -/
def butterfly (op : Nat → Nat → Nat → Nat → Nat → Nat × Nat) (b : BitVec 5) (a : BitVec 6) (d : BitVec 5) (s : State) : Out :=
  plain s fun s =>
    let q := s.me.csr.qmod.toNat
    let qi := s.me.csr.qinv.toNat
    let xs := elems 64 (s.me.vname (2 * b.toNat))
    let ys := elems 64 (s.me.vname (2 * b.toNat + 1))
    let ts := elems 64 (s.me.vname a.toNat)
    let rs := List.zipWith (fun x (yt : Nat × Nat) => op q qi x yt.1 yt.2) xs (ys.zip ts)
    let t := masked .all 7 (2 * d.toNat) 1 64 (rs.map fun r => (r.1, 0)) s
    masked .all 7 (2 * d.toNat + 1) 1 64 (rs.map fun r => (r.2, 0)) t

/-- R164: VBFLY. -/
def execVbfly (b : BitVec 5) (a : BitVec 6) (d : BitVec 5) (s : State) : Out :=
  butterfly (fun q qi x y tw => let t := mulmod q qi y tw; (addmod q x t, submod q x t)) b a d s
/-- R164: VIBFLY. -/
def execVibfly (b : BitVec 5) (a : BitVec 6) (d : BitVec 5) (s : State) : Out :=
  butterfly (fun q qi x y tw => (addmod q x y, mulmod q qi (submod q x y) tw)) b a d s

/-! ### Masks and shape (R132, R137) -/

/-- R137: KAND. -/
def execKand (b a d : BitVec 4) (s : State) : Out :=
  plain s fun s => s.later 1 (.mask d.toNat (s.me.kreg a.toNat &&& s.me.kreg b.toNat)) 0
/-- R137: KOR. -/
def execKor (b a d : BitVec 4) (s : State) : Out :=
  plain s fun s => s.later 1 (.mask d.toNat (s.me.kreg a.toNat ||| s.me.kreg b.toNat)) 0
/-- R137: KNOT. -/
def execKnot (a d : BitVec 4) (s : State) : Out := plain s fun s => s.later 1 (.mask d.toNat (~~~(s.me.kreg a.toNat))) 0
/-- R137: KMOV. -/
def execKmov (a d : BitVec 4) (s : State) : Out := plain s fun s => s.later 1 (.mask d.toNat (s.me.kreg a.toNat)) 0

/-- R132: VSHAPE. -/
def execVshape (i : BitVec 12) (a : BitVec 6) (s : State) : Out :=
  word s fun s => do
    let v := s.addImm a i
    need (rowsOk v.toNat) (trouble 0x19)
    .ok (s.later 1 (.csr 0x10 v false) 0)

end Sys2Proof.Machine
end

