-- ==== Sys2Proof/Machine/Matrix.lean ====
section
/-! DEFINITION. The matrix class, majors 0x2C to 0x2F: setting up, calling and draining the matrix unit (R169 to R173,
R188 to R196), and the landing of its rows. -/

namespace Sys2Proof.Machine

/-- The matrix unit of the core in turn changed. -/
def State.onMx (s : State) (f : MxUnit → MxUnit) : State := s.onMine fun k => { k with mx := f k.mx }

/-- R75, R188, R189: a bundle with a matrix-class word takes metadata word MPC and delivers it, whatever the word's
guard: mode 0 discards it and mode 1 queues it. In seeded mode nothing is read. A full queue raises 0x46, but not at a word
whose guard is false (R66, R200), whose delivery is then lost (log 29). Fullness is judged on the queue as before the cycle,
so words that an MXSPAR takes in it leave no room yet (log 130). Of several causes of a word 0x0B is raised before 0x46, and both before
its own (log 165). -/
def deliver (s : State) : Except Trouble State :=
  let m := s.me.csr.mpc.toNat
  let room := s.me.mx.mmode == 0 || s.me.mx.mqueue.length < 16
  if s.me.mx.seeded then .ok s
  else do
    need (m != 65535) (trouble 0x0B)
    need (room || !s.guardOn) (trouble 0x46)
    let w : Word32 := SMap.getD s.me.index (2 * m + 1) 0 ++ SMap.getD s.me.index (2 * m) 0
    let s := s.onMine fun k => { k with csr := { k.csr with mpc := BitVec.ofNat 64 (m + 1) } }
    .ok (if s.me.mx.mmode == 0 || !room then s else s.onMx fun x => { x with mqueue := x.mqueue ++ [w] })

/-- A word whose fault does not depend on its guard: the prefix is consumed. -/
def faultWord (s : State) (e : Trouble) : Out :=
  let t := takeFault s e
  .next { t with issue := { t.issue with pfx := none } }

/-- A word of the matrix class: its delivery, then its effect. -/
def matrixWord (s : State) (f : State → Except Trouble State) : Out :=
  match deliver s with
  | .ok t => word t f
  | .error e => faultWord s e

/-- R172: an accumulator pointer of `n` bytes: space 2, the own rank or 127, bits [53:20] zero, within 1 MiB (0x32), and
aligned (0x33), tested in that order (log 165). -/
def accEa (core align n : Nat) (ea : Word) : Except Trouble Nat := do
  let off := ea.toNat % 2 ^ 20
  let rank := (ea.extractLsb' 54 7).toNat
  need (ea.extractLsb' 61 3 == 2) (addrTrouble 0x32 ea)
  need (rank == clusterOf core || rank == 127) (addrTrouble 0x32 ea)
  need (ea.extractLsb' 20 34 == 0) (addrTrouble 0x32 ea)
  need (off + n ≤ 2 ^ 20) (addrTrouble 0x32 ea)
  need (off % align == 0) (addrTrouble 0x33 ea)
  .ok off

/-- R170, R195: whether a routine still runs after this cycle: its MXEND has not executed yet. -/
def State.unitBusy (s : State) : Bool := s.mine.mx.seq.st == .running || s.mine.mx.seq.st == .paired

/-- R167: a sequencer that starts routine `n` of entry `e`, called in cycle `t`. -/
def Seq.called' (n : Nat) (e : Nat × Nat) (t : Nat) (params : SMap Word) (qmod qinv : Word) (pair : Option Pair) : Seq :=
  { Seq.reset with
      st := if pair.isSome then .paired else .running, routine := n, first := e.1, count := e.2, called := t,
      params := params, qmod := qmod, qinv := qinv, pair := pair, done := false }

/-- R196: what a paired MCALL clears in the cycle after it: the pair region, the B tile register and the exchange
buffer. -/
def State.clearPair (s : State) (p : Pair) : State :=
  let s := s.later 1 (.acc (512 * p.row0) (.clear (512 * p.nrows)) none) 0
  s.onMx fun x => { x with btile := { x.btile with present := false, bytes := [] }, exch := [] }

/-- R196: a routine that has ended while its pair is still open stands aside for the next one. -/
def MxUnit.setAside (x : MxUnit) : MxUnit := if x.seq.pair.isSome then { x with prior := x.prior ++ [x.seq] } else x

/-- R170: MCALL. A paired one is matched with its partner's at the end of the cycle (R196). An absent entry is found before a busy unit
(log 165). -/
def execMcall (r : BitVec 8) (s : State) : Out :=
  matrixWord s fun s => do
    let n := r.toNat
    match SMap.get? s.me.mx.table n with
    | none => .error ⟨0x43, [n, 0, 0]⟩
    | some e =>
      need (!s.unitBusy) ⟨0x1B, [n, 0, 0]⟩
      let q := Seq.called' n e s.now s.me.mx.params s.me.csr.qmod s.me.csr.qinv
      let s := s.onMx MxUnit.setAside
      match s.me.mx.arm with
      | none => .ok (s.onMx fun x => { x with seq := q none })
      | some a =>
        let p : Pair := { a with word := s.issue.word, params := s.me.mx.params, m := s.me.mx.m }
        .ok ((s.onMx fun x => { x with seq := q (some p), arm := none }).clearPair p)

/-- R77, R171: MOVA; its IMM is zero-extended, and signed when a prefix extends it (R65). -/
def execMova (i : BitVec 8) (a : BitVec 6) (d : BitVec 3) (s : State) : Out :=
  matrixWord s fun s => .ok (s.onMx fun x => { x with params := SMap.set 0 x.params d.toNat (s.sv a + BitVec.ofInt 64 (s.immU i)) })

/-- R171, R189: MSEED; it stands over what a micro-word of the same cycle leaves in M (log 135). -/
def execMseed (a : BitVec 6) (s : State) : Out :=
  matrixWord s fun s => .ok (s.onMx fun x =>
    { x with m := if s.sv a == 0 then 0x9E3779B97F4A7C15 else s.sv a, seeded := true })

/-- R171, R188: MMETA. -/
def execMmeta (i : BitVec 8) (s : State) : Out :=
  matrixWord s fun s => do
    need (i.toNat ≤ 1) (trouble 0x45)
    .ok (s.onMx fun x => { x with seeded := false, mmode := i.toNat })

/-- R195: MPAIR: the partner cluster, the descriptor, then the busy rule. -/
def execMpair (i : BitVec 8) (a : BitVec 6) (s : State) : Out :=
  matrixWord s fun s => do
    let v := s.sv a
    let row0 := (v.extractLsb' 0 11).toNat
    let nrows := (v.extractLsb' 12 11).toNat + 1
    need (i.toNat ≤ 19 && i.toNat != clusterOf s.unit % 20) (trouble 0x45)
    need (v.getLsbD 11 == false && v.extractLsb' 23 41 == 0 && row0 + nrows ≤ 2048) (trouble 0x45)
    need (!s.unitBusy) (trouble 0x1B)
    let p : Pair := { cluster := i.toNat, row0 := row0, nrows := nrows, word := 0, params := [], m := 0 }
    .ok (s.onMx fun x => { x with arm := some p, seq := { x.seq with st := .armed } })

/-- R173: MCLR; IMM extended is signed, and a negative count leaves the accumulator's range. -/
def execMclr (i : BitVec 8) (a : BitVec 6) (s : State) : Out :=
  matrixWord s fun s => do
    let n := s.immU i
    need (0 ≤ n) (addrTrouble 0x32 (s.sv a))
    let rows := n.toNat + 1
    let off ← accEa s.unit 512 (512 * rows) (s.sv a)
    .ok (s.later 1 (.acc off (.clear (512 * rows)) none) 0)

/-- The static checks that MRTLD adds to R82 (Table 7.6), for a routine of `count` words. -/
def mxStaticOk (count : Nat) : Instr → Bool
  | .mxlda _ _ c i => 1 ≤ c.toNat && i.toNat % 64 == 0
  | .mxldb _ f c i =>
    c.toNat ≤ 2 && (c.toNat != 1 || f.toNat == 3 || f.toNat == 4) && (c.toNat != 2 || f.toNat == 1) &&
      i.toNat % 1024 == 0
  | .mxmac _ _ _ c => 1 ≤ c.toNat && c.toNat ≤ 2048
  | .mxprom _ _ c => c.toNat ≤ 7
  | .mxmod _ _ c => 1 ≤ c.toNat && c.toNat ≤ 2048
  | .mxred _ c i => 1 ≤ c.toNat && c.toNat ≤ 128 && i.toNat + c.toNat ≤ 128
  | .mxxch _ i => 1 ≤ i.toNat && i.toNat ≤ 128
  | .mxloop _ c i => 1 ≤ c.toNat && i.toNat < count
  | .mxspar _ c => c.toNat == 0 || c.toNat == 8
  | .mxgen c _ => 1 ≤ c.toNat && c.toNat ≤ 2048
  | .mxsplit _ _ c => 1 ≤ c.toNat && c.toNat ≤ 2048
  | _ => true

/-- Whether a word may be loaded in a routine of `count` words (R82, Table 7.6). -/
def mxWordOk (count : Nat) (w : Word) : Bool :=
  match decodeMx w with
  | some i => mxStaticOk count i
  | none => false

/-- The little-endian 64-bit words of an image. -/
def wordsOf (n : Nat) (bs : Bytes) : List Word := (unpackN 64 n (leNat bs)).map (BitVec.ofNat 64)

/-- The index of the first word that may not be loaded. -/
def firstBadMx (count : Nat) (ws : List Word) : Option Nat := ws.findIdx? fun w => !mxWordOk count w

/-- A routine written to the store and the table (R169). -/
def MxUnit.load (x : MxUnit) (n start : Nat) (ws : List Word) : MxUnit :=
  { x with table := SMap.put x.table n (start, ws.length),
           store := (List.range ws.length).foldl (fun m i => SMap.set mxEndWord m (start + i) (ws.getD i 0)) x.store }

/-- R169: MRTLD. The bank access precedes the checks of the words, so it stands even when they fail. -/
def execMrtld (i : BitVec 8) (a : BitVec 6) (s : State) : Out :=
  matrixWord s fun s => do
    let n := i.toNat
    let off ← scratchEa s.unit 8 (s.sv a)
    let h : Word := BitVec.ofNat 64 (leNat (s.spadRead off 8))
    let start := (h.extractLsb' 0 12).toNat
    let count := (h.extractLsb' 16 13).toNat
    need (h &&& 0xFFFFFFFFE000F000 == 0 && count != 0 && start + count ≤ 4096) ⟨0x44, [n, 0, 0]⟩
    need (off + 8 + 8 * count ≤ 2 ^ 21) (addrTrouble 0x32 (s.sv a))
    let s := s.touch 0x0D off (8 + 8 * count) true false
    let ws := wordsOf count (s.spadRead (off + 8) (8 * count))
    let q := s.mine.mx.seq
    match firstBadMx count ws with
    | some j => .ok (takeFault s ⟨0x41, [n + j * 256, start + j, 0]⟩)
    | none =>
      if s.unitBusy && start < q.first + q.count && q.first < start + count then .ok (takeFault s ⟨0x1B, [n, 0, 0]⟩)
      else .ok (s.onMx fun x => x.load n start ws)

/-- R191: MRDAC. -/
def execMrdac (a d : BitVec 6) (s : State) : Out :=
  matrixWord s fun s => do
    let off ← accEa s.unit 512 512 (s.sv a)
    .ok (s.laterV 4 (s.me.physv d.toNat) (vecOfBytes (Mem.read s.me.mx.acc off 512)) (BitVec.allOnes 4096) 0)

/-- R191: MWRAC. -/
def execMwrac (a d : BitVec 6) (s : State) : Out :=
  matrixWord s fun s => do
    let off ← accEa s.unit 512 512 (s.sv a)
    .ok (s.later 2 (.acc off (.write (bytesOfVec (s.me.vname d.toNat))) none) 0)

/-! ### Draining (R193, R194) -/

/-- Bytes of the elements of a row slot (Table 7.8). -/
def drainElems (f : Nat) : Nat := 128 * fmtWidth f / 8
/-- Bytes of the block scales. -/
def drainScales (f : Nat) : Nat := if 3 ≤ f && f ≤ 5 then 4 else 0
/-- SLOT of Table 7.8. -/
def drainSlot (f srcKind : Nat) (zrc : Bool) : Nat :=
  if srcKind == 2 then 64
  else ((if zrc then 16 else 0) + drainScales f + drainElems f + 63) / 64 * 64
/-- Bytes of an accumulator row of a source. -/
def drainRow (srcKind : Nat) : Nat := if srcKind == 2 then 64 else 512

/-- R194: the elements of a row as exact values. -/
def drainVals (srcKind : Nat) (bs : Bytes) : List FVal :=
  (unpackN 32 128 (leNat bs)).map fun x =>
    if srcKind == 0 then decodeF 0 x else .fin (decide (sval 32 x < 0)) (sval 32 x).natAbs 0

/-- R194: elements of format F = 3, 4 or 5, quantised by R44 into four blocks: the scales and the elements. -/
def drainBlocks (f mode : Nat) (us : List Nat) (xs : List FVal) : List Nat × List (Nat × Flags) :=
  let bl := (List.range 4).map fun b =>
    let ys := (xs.drop (32 * b)).take 32
    let sc := blockScale f ys
    (sc, List.zipWith (fun u x => quantElem f mode u sc.1 x) ((us.drop (32 * b)).take 32) ys)
  (bl.map fun b => b.1.1, bl.flatMap fun b => match b.2 with
    | e :: r => (e.1, e.2 ||| b.1.2) :: r
    | [] => [])

/-- R194: one element in a format that has no blocks. -/
def drainElem (srcKind f mode : Nat) (sat : Bool) (u : Nat) (x : FVal) : Nat × Flags :=
  if isFl f then roundVal f mode sat u x
  else if srcKind == 1 then
    match x with
    | .fin n m _ => intResult f sat (signed n m)
    | _ => (0, 0)
  else floatToInt f mode u x

/-- R194, Table 7.8: a row's slot and its flags. -/
def drainBytes (d : Drain) (us : List Nat) (bs : Bytes) : Bytes × Flags :=
  if d.srcKind == 2 then (bs.take 64, 0)
  else
    let us := drawsFor us 128
    let xs := drainVals d.srcKind bs
    let scaled := drainScales d.fmt != 0
    let sr := if scaled then drainBlocks d.fmt d.mode us xs
      else ([], List.zipWith (drainElem d.srcKind d.fmt d.mode d.sat) us xs)
    let es := sr.2.map (·.1)
    let w := fmtWidth d.fmt
    let zero := fun e => e == 0 || (d.fmt ≤ 5 && e == 2 ^ (w - 1))
    let body := if d.zrc then
        let kept := es.filter fun e => !zero e
        natLe 16 (packN 1 (es.map fun e => if zero e then 0 else 1)) ++ sr.1.map (BitVec.ofNat 8) ++
          natLe ((kept.length * w + 7) / 8) (packN w kept)
      else natLe (drainElems d.fmt) (packN w es) ++ sr.1.map (BitVec.ofNat 8)
    (body ++ List.replicate (drainSlot d.fmt d.srcKind d.zrc - body.length) 0, joined sr.2)

/-- Row `r` of a drain converted, with its flags; a row that a restore has taken converted stands as it is. -/
def Drain.convert (d : Drain) (r : Nat) (bs : Bytes) : Bytes × Flags :=
  match SMap.get? d.ready r with
  | some out => (out, 0)
  | none => drainBytes d ((d.draws.drop (128 * r)).take 128) bs

/-- R193: MDRAIN. Draws under `sr` are taken at issue whichever way the guard falls (R40, R66), none for `.n64` rows;
`.i32` rows take them in every format, also where nothing rounds (log 34). The order of its checks is log 165. -/
def execMdrain (b a c f : BitVec 6) (s : State) : Out :=
  let v := s.sv b
  let nrows := v.toNat % 2048 + 1
  let srcKind := (v.extractLsb' 12 2).toNat
  let zrc := v.getLsbD 11
  let run := fun (us : List Nat) (s : State) => do
    need (v.extractLsb' 14 50 == 0 && srcKind != 3 && f.toNat != 6) (trouble 0x45)
    need (srcKind != 2 || (f.toNat == 15 && !zrc)) (trouble 0x45)
    let src ← accEa s.unit (drainRow srcKind) (drainRow srcKind * nrows) (s.sv a)
    let dst ← scratchEa s.unit 64 (s.sv c)
    let size := drainSlot f.toNat srcKind zrc * nrows
    need (dst + size ≤ 2 ^ 21) (addrTrouble 0x32 (s.sv c))
    need ((List.range ((dst + size - 1) / 65536 + 1 - dst / 65536)).all fun j =>
      (s.me.bfmtAt (dst + 65536 * j)).kind == (if zrc then 2 else 0)) (addrTrouble 0x34 (s.sv c))
    need s.me.mx.drain.isNone (trouble 0x1B)
    let d : Drain :=
      { start := s.now, word := s.issue.word, src := src, dst := dst, nrows := nrows, zrc := zrc, srcKind := srcKind, fmt := f.toNat,
        mode := s.rm, sat := s.sat, draws := us, done := 0, rows := [], ready := [] }
    .ok (s.onMx fun x => { x with drain := some d })
  match deliver s with
  | .ok t => if srcKind == 2 then word t (run []) else wordDraw t (128 * nrows) run
  | .error e => faultWord s e

/-- R194: in a cycle of an MDRAIN the row due is read as the accumulator stands before the cycle's landings, and the row
read three cycles before is converted and written to its slot. -/
def execMdrainRowWrite (s : State) : Out :=
  match s.mine.mx.drain with
  | none => .next s
  | some d =>
    let c := s.cur.gn s.unit
    let n := drainRow d.srcKind
    let take := d.start + 1 ≤ c && c - (d.start + 1) < d.nrows
    let rows := if take then SMap.put d.rows (c - (d.start + 1)) (Mem.read s.me.mx.acc (d.src + n * (c - (d.start + 1))) n)
      else d.rows
    if d.start + 4 ≤ c then
      let r := c - (d.start + 4)
      let out := d.convert r (SMap.getD rows r [])
      let off := d.dst + drainSlot d.fmt d.srcKind d.zrc * r
      let s' := s.touchBy 0x11 off out.1.length d.start groupDrain false
      let d' : Drain := { d with rows := SMap.del rows r, ready := SMap.del d.ready r, done := r + 1 }
      .next (s'.onMine fun k =>
        { (k.raise out.2) with spad := Mem.write k.spad off out.1,
                               mx := { k.mx with drain := if r + 1 == d.nrows then none else some d' } })
    else .next (s.onMx fun x => { x with drain := some { d with rows := rows } })

/-! ### Landings of the accumulator, the exchange buffer and tiles -/

/-- R47, R180: one group's P added to C by `rne`, with its flags. -/
def addAcc (c p : Nat) : Nat × Flags :=
  let s := fAdd 0 (decodeF 0 c) (decodeF 0 p)
  let r := roundVal 0 0 false 0 s.1
  (r.1, s.2 ||| r.2)

/-- A group of P values added to a row. -/
def addGroup (row : List (Nat × Flags)) (ps : List Nat) : List (Nat × Flags) :=
  List.zipWith (fun c p => let r := addAcc c.1 p; (r.1, c.2 ||| r.2)) row ps

/-- R180, R182, R197: the bytes that a landing writes over the bytes `c` of its row before the cycle, and its flags. -/
def AccOp.apply (op : AccOp) (c : Nat → Bytes) : Bytes × Flags :=
  match op with
  | .write bs => (bs, 0)
  | .clear n => (List.replicate n 0, 0)
  | .addF32 gs =>
    let rs := gs.foldl addGroup ((unpackN 32 128 (leNat (c 512))).map fun x => (x, 0))
    (natLe 512 (packN 32 (rs.map (·.1))), joined rs)
  | .addI32 sat vs =>
    let rs := List.zipWith (fun x v => intResult 10 sat (sval 32 x + v)) (unpackN 32 128 (leNat (c 512))) vs
    (natLe 512 (packN 32 (rs.map (·.1))), joined rs)
  | .addMod q vs => (natLe 64 (packN 64 (List.zipWith (addmod q) (unpackN 64 8 (leNat (c 64))) vs)), 0)

/-- The bytes of a row that an operation writes. -/
def AccOp.size : AccOp → Nat
  | .write bs => bs.length
  | .clear n => n
  | .addF32 _ => 512
  | .addI32 _ _ => 512
  | .addMod _ _ => 64

/-- R196: whether a landing lies in its pair region. -/
def AccGuard.holds (g : AccGuard) (off n : Nat) : Bool := 512 * g.row0 ≤ off && off + n ≤ 512 * (g.row0 + g.nrows)

/-- Results that are accumulator landings. -/
def Dest.isAcc : Dest → Bool
  | .acc .. => true
  | _ => false

/-- Results that are exchange rows. -/
def Dest.isExch : Dest → Bool
  | .exch .. => true
  | _ => false

/-- R192: the accumulator landings of a cycle in the order of issue, which a catch-up run (R198) may have put in flight out of order: a
row of a paired micro-word comes before a bundle word's of the same cycle. -/
def Core.dueRows (k : Core) (g : Nat) : List Pending :=
  let key := fun (p : Pending) => 2 * p.issue + (match p.dest with | .acc _ _ (some _) => 0 | _ => 1)
  sortBy (fun a b => key a ≤ key b) (k.due g Dest.isAcc)

/-- R180, R185, R192: the next accumulator landing of this cycle, in the order of issue: a row reads C as it stands before
the cycle, a later-issued writer stands, and the flags join in this cycle. A row of a paired routine outside its region
raises 0x45 (R196). -/
def execAccumulatorRowLand (s : State) : Out :=
  match s.mine.dueRows (s.cur.gn s.unit) with
  | p :: _ =>
    match p.dest with
    | .acc off op g =>
      let out := op.apply fun n => Mem.read s.me.mx.acc off n
      let t := s.onMine fun k =>
        { (k.raise (p.flags ||| out.2)) with
            pending := k.pending.erase p, mx := { k.mx with acc := Mem.write k.mx.acc off out.1 } }
      match g with
      | none => .next t
      | some x => .next (if x.holds off op.size then t else engineFault t ⟨0x45, [x.routine + 256 * x.index, x.store, 0]⟩)
    | _ => .next s
  | [] => .next s

/-- R197: the next exchange row of this cycle. -/
def execExchangeRowLand (s : State) : Out :=
  match s.mine.due (s.cur.gn s.unit) Dest.isExch with
  | p :: _ => .next (s.onMine fun k => k.landOne p)
  | [] => .next s

/-- R179: the tile that lands in this cycle replaces the B tile register, the later-executed one last. -/
def execBTileLand (s : State) : Out :=
  let c := s.cur.gn s.unit
  .next (s.onMx fun x =>
    match x.loads.find? (fun l => l.land == c) with
    | some l =>
      let b : BTile := { present := true, kind := l.kind, fmt := l.fmt, bytes := l.got, pattern := l.pattern }
      { x with btile := b, loads := x.loads.erase l }
    | none => x)

/-- The partner of a core in cluster `cl` of its die (R195). -/
def partnerCore (core cl : Nat) : Nat := core / 160 * 160 + 8 * cl + core % 8

/-- R184: whether a routine is complete at cycle `g`: ended, and its last result has landed. -/
def Seq.ended (q : Seq) (g : Nat) : Bool := (q.st == .idle || q.st == .armed) && q.lastLand ≤ g

/-- The routines of a core whose pair may be open: those set aside, and the sequencer's own. -/
def MxUnit.routines (x : MxUnit) : List Seq := x.prior ++ [x.seq]

/-- R184: the routines that are complete at cycle `g` are done. -/
def MxUnit.markDone (g : Nat) (x : MxUnit) : MxUnit :=
  let mark := fun (q : Seq) => if q.ended g then { q with done := true } else q
  { x with prior := x.prior.map mark, seq := mark x.seq }

/-- R196: the pair that opened in cycle `t` closes. -/
def MxUnit.closePair (t : Nat) (x : MxUnit) : MxUnit :=
  { x with prior := x.prior.filter fun q => q.called != t,
           seq := if x.seq.called == t then { x.seq with pair := none } else x.seq }

/-- R184: the routine is complete in the cycle of its last landing; a pair closes when both partners are (R196). -/
def execRoutineCompletion (s : State) : Out :=
  let t := s.onMx (MxUnit.markDone (s.cur.gn s.unit))
  let close := fun (t : State) (q : Seq) =>
    match q.pair with
    | none => t
    | some p =>
      let other := partnerCore s.unit p.cluster
      if q.done && (t.cur.core other).mx.routines.any fun r => r.called == q.called && r.done then
        (t.onMx (MxUnit.closePair q.called)).onCore other fun k => { k with mx := k.mx.closePair q.called }
      else t
  .next (t.mine.mx.routines.foldl close t)

end Sys2Proof.Machine
end

