-- ==== Sys2Proof/Machine/Copies.lean ====
section
/-! DEFINITION. The copy engine, major 0x34 (R215 to R231), and the events of a copy in flight. -/

namespace Sys2Proof.Machine

/-- One level of a copy's nest: count, source and destination stride (Table 8.6). -/
structure Level where
  cnt  : Nat
  sstr : Int
  dstr : Int
  deriving DecidableEq, Repr

/-- A copy descriptor read by its fields (Tables 8.6 and 8.7). -/
structure CopyDesc where
  src  : Word
  dst  : Word
  len0 : Nat
  fmtv : Nat
  setf : Bool
  chk  : Bool
  exp  : Bool
  levels : List Level
  xsrc : Nat
  xdst : Nat
  deriving DecidableEq, Repr

/-- The fields of a slot's 128 bytes. -/
def copyDesc (bs : Bytes) : CopyDesc :=
  let c := fieldLe bs 20 4
  { src := BitVec.ofNat 64 (fieldLe bs 0 8), dst := BitVec.ofNat 64 (fieldLe bs 8 8), len0 := fieldLe bs 16 4,
    fmtv := bitsN c 15 4, setf := bitsN c 2 2 == 1, chk := bitsN c 1 1 == 1, exp := bitsN c 0 0 == 1,
    levels := (List.range 5).map fun l =>
      { cnt := fieldLe bs (32 + 16 * l) 4, sstr := fieldLeS bs (36 + 16 * l) 4, dstr := fieldLeS bs (40 + 16 * l) 4 },
    xsrc := fieldLe bs 112 8, xdst := fieldLe bs 120 8 }

/-- The space of a pointer. -/
def spaceOf (ea : Word) : Nat := (ea.extractLsb' 61 3).toNat

/-- The size of a copy's space (R217). -/
def spaceSize (sp : Nat) : Nat := match sp with | 1 => 2 ^ 21 | 3 => 2 ^ 23 | _ => 2 ^ 19

/-- The offset of a pointer in its space. -/
def copyOff (ea : Word) : Nat := ea.toNat % spaceSize (spaceOf ea)

/-- BYTES of R216. -/
def CopyDesc.bytes (d : CopyDesc) : Nat := d.levels.foldl (fun n l => n * l.cnt) d.len0
/-- N of R216. -/
def CopyDesc.n (d : CopyDesc) : Nat := (d.bytes + 255) / 256
/-- NB of R219. -/
def CopyDesc.nb (d : CopyDesc) : Nat := if d.exp then d.bytes / 4096 else 0
/-- Whether a side of the copy lies in L2. -/
def CopyDesc.inL2 (d : CopyDesc) : Bool := spaceOf d.src == 3 || spaceOf d.dst == 3

/-- R216: the stride sums of the run that holds position `n`, and the byte of the run. -/
def CopyDesc.at (d : CopyDesc) (n : Nat) : Int × Int × Nat :=
  let r := d.levels.foldl
    (fun (x : Int × Int × Nat) l =>
      let i := x.2.2 % l.cnt
      (x.1 + (i : Int) * l.sstr, x.2.1 + (i : Int) * l.dstr, x.2.2 / l.cnt))
    (0, 0, n / d.len0)
  (r.1, r.2.1, n % d.len0)

/-- The source offset of a position. -/
def CopyDesc.srcAt (d : CopyDesc) (n : Nat) : Nat := let x := d.at n; ((copyOff d.src : Int) + x.1 + x.2.2).toNat
/-- The destination offset of a position. -/
def CopyDesc.dstAt (d : CopyDesc) (n : Nat) : Nat := let x := d.at n; ((copyOff d.dst : Int) + x.2.1 + x.2.2).toNat

/-- R219: D, N, NB and F as kept by a copy. -/
def copyD (conf : Bool) (d : CopyDesc) : Nat := if conf && d.inL2 then 8 else 0
/-- R219: w(i) relative to the starting cycle. -/
def copyW (conf : Bool) (d : CopyDesc) (i : Nat) : Nat := 24 + copyD conf d + (if d.exp then 16 * (i / 16 + 1) else 0) + i
/-- R219: LD. -/
def copyLD (conf : Bool) (d : CopyDesc) : Nat := 24 + d.n + copyD conf d + 16 * d.nb
/-- R219: L. -/
def copyL (conf : Bool) (d : CopyDesc) (kind : Nat) : Nat := copyLD conf d + (if kind == 2 then 40 else 0)

/-- R221: the read cycles and the write cycles of a copy started in cycle `t`, as first and last. -/
def copyPorts (conf : Bool) (d : CopyDesc) (t : Nat) : (Nat × Nat) × (Nat × Nat) :=
  ((t + 1, t + (if d.exp then 17 * d.nb else d.n)), (t + copyW conf d 0, t + copyW conf d (d.n - 1)))

/-- Whether two spans of cycles intersect. -/
def crosses (a b : Nat × Nat) : Bool := a.1 ≤ b.2 && b.1 ≤ a.2

/-- R218, step 1: the fields of Table 8.6. -/
def copyFieldsOk (bs : Bytes) : Bool :=
  let d := copyDesc bs
  let c := fieldLe bs 20 4
  fieldLe bs 24 8 == 0 && (List.range 5).all (fun l => fieldLe bs (44 + 16 * l) 4 == 0) && bitsN c 31 16 == 0 &&
    bitsN c 3 3 == 0 && d.len0 % 64 == 0 && 64 ≤ d.len0 && d.len0 ≤ 8388608 &&
    d.levels.all (fun l => 1 ≤ l.cnt && l.cnt ≤ 65536 && l.sstr % 64 == 0 && l.dstr % 64 == 0) && d.bytes ≤ 8388608

/-- R218, step 2: Table 8.8. -/
def copyPairOk (d : CopyDesc) (kind : Nat) : Bool :=
  let toW := spaceOf d.dst == 4
  (spaceOf d.src == 1 || spaceOf d.src == 3) && (spaceOf d.dst == 1 || spaceOf d.dst == 3 || toW) &&
    (!d.exp || toW) && (kind != 3 || !toW)

/-- R159, R218: the values that FMTV may hold. -/
def fmtvOk (v : Nat) : Bool :=
  let b : BankFormat := { kind := v % 4, sf := v / 16 % 16, tf := v / 256 % 16 }
  v / 4 % 4 == 0 && (((b.kind == 0 || b.kind == 2) && b.sf == 0 && b.tf == 0) || b.widening)

/-- R217: a pointer's rank is the own cluster's or 127, and its offset lies within its space. -/
def copyRankOk (core : Nat) (ea : Word) : Bool :=
  let rank := (ea.extractLsb' 54 7).toNat
  (rank == clusterOf core || rank == 127) && ea.toNat % 2 ^ 54 < spaceSize (spaceOf ea)

/-- R217, R218, step 5: rank, offset bits, and every byte of a side of the nest inside its space. -/
def copyPtrOk (core : Nat) (d : CopyDesc) (ea : Word) (str : Level → Int) : Bool :=
  let ext := d.levels.map fun l => ((l.cnt : Int) - 1) * str l
  let lo := (ext.map fun x => if x < 0 then x else 0).foldl (· + ·) 0
  let hi := (ext.map fun x => if x < 0 then 0 else x).foldl (· + ·) 0
  copyRankOk core ea && decide (0 ≤ (copyOff ea : Int) + lo) && decide ((copyOff ea : Int) + hi + d.len0 ≤ (spaceSize (spaceOf ea) : Int))

/-- R218: the checks of a starting instruction in order; it answers the digest or result address. FMTV is checked whatever SETF
is (log 140), and of step 5 only the bounds of the nest spare an EXP source, whose pointer holds its rank and offset by R217 (log
37). -/
def startChecks (s : State) (slot kind : Nat) (ra : Word) (bs : Bytes) : Except Trouble Nat := do
  let d := copyDesc bs
  let conf := s.old.trust.conf
  let bad : Trouble := ⟨0x48, [slot, 0, 0]⟩
  need (copyFieldsOk bs) bad
  need (copyPairOk d kind) bad
  need (!(conf && spaceOf d.src == 3 && spaceOf d.dst == 4)) (addrTrouble 0x31 d.src)
  need ((!d.setf || spaceOf d.dst == 1) && fmtvOk d.fmtv) bad
  need (!d.exp || (d.bytes % 4096 == 0 && d.levels.all fun l => l.sstr == 0)) bad
  need (if d.exp then copyRankOk s.unit d.src else copyPtrOk s.unit d d.src (·.sstr)) (addrTrouble 0x32 d.src)
  need (copyPtrOk s.unit d d.dst (·.dstr)) (addrTrouble 0x32 d.dst)
  need (copyOff d.src % 64 == 0) (addrTrouble 0x33 d.src)
  need (copyOff d.dst % 64 == 0) (addrTrouble 0x33 d.dst)
  let addr ← if kind == 1 then .ok 0 else scratchEa s.unit (if kind == 2 then 32 else 8) ra
  let p := copyPorts conf d s.now
  let busy := fun (c : Copy) =>
    let q := copyPorts c.conf (copyDesc c.desc) c.start
    crosses p.1 q.1 || crosses p.2 q.2
  need (s.mine.copies.length < 128 && !s.mine.copies.any busy) ⟨0x1D, [slot, 0, 0]⟩
  .ok addr

/-- R222: the banks of a copy's destination take FMTV from the next cycle; a compare has no destination (R226). -/
def Core.setFormat (k : Core) (d : CopyDesc) (kind : Nat) : Core :=
  let step := fun m j => SMap.set (0 : Word) m (d.dstAt (64 * j) / 65536) (BitVec.ofNat 64 d.fmtv)
  if d.setf && kind != 3 then { k with bfmt := (List.range (d.bytes / 64)).foldl step k.bfmt } else k

/-- R225: the state of the fingerprint before its first sector: SHA-256, or in confidential mode its HMAC. -/
def hashStart (conf : Bool) (fkey : Bytes) : List Word32 × Nat :=
  if conf then (shaBlock shaInit (hmacPad fkey 0x36), 64) else (shaInit, 0)

/-- R215, R218, R219, R221, R222, R228: a copy starts from its slot as before this cycle's writes. -/
def startCopy (slot kind : Nat) (ra : State → Word) (s : State) : Out :=
  word s fun s => do
    let bs := SMap.getD s.me.slots slot (List.replicate 128 0)
    let addr ← startChecks s slot kind (ra s) bs
    let d := copyDesc bs
    let conf := s.old.trust.conf
    let h := hashStart conf (s.old.ctx (s.old.ctxOf s.unit)).fkey
    let c : Copy :=
      { desc := bs, kind := kind, slot := slot, start := s.now, word := s.issue.word, raddr := addr, conf := conf, buf := [],
        plain := [], offs := [(0, copyOff d.src)], reread := false, hash := h.1, hlen := h.2, cmp := 0 }
    .ok (s.onMine fun k =>
      ({ k with copies := k.copies ++ [c], slotDone := SMap.put k.slotDone slot (s.now + copyL conf d kind) }).setFormat d kind)

/-- R227: CPL. At the scratchpad's last granule, which R114 lets pass, the 64 bytes past its end read as zero (log 139). -/
def execCpl (c : BitVec 4) (a : BitVec 6) (s : State) : Out :=
  word s fun s => do
    let off ← scratchEa s.unit 64 (s.sv a)
    let bs := s.spadRead off 128
    .ok ((s.touch 0x09 off 128 true true).onMine fun k => { k with slots := SMap.put k.slots c.toNat bs })

/-- R227: CPA. -/
def execCpa (c : BitVec 4) (b a : BitVec 6) (s : State) : Out :=
  plain s fun s => s.onMine fun k =>
    let bs := SMap.getD k.slots c.toNat (List.replicate 128 0)
    { k with slots := SMap.put k.slots c.toNat (natLe 8 (s.sv a).toNat ++ natLe 8 (s.sv b).toNat ++ bs.drop 16) }

/-- R227: CPGO. -/
def execCpgo (c : BitVec 4) (s : State) : Out := startCopy c.toNat 1 (fun _ => 0) s
/-- R225: CPFP. -/
def execCpfp (c : BitVec 4) (a : BitVec 6) (s : State) : Out := startCopy c.toNat 2 (·.sv a) s
/-- R226: CPCMP. -/
def execCpcmp (c : BitVec 4) (a : BitVec 6) (s : State) : Out := startCopy c.toNat 3 (·.sv a) s

/-- R228: CPCHK. -/
def execCpchk (c : BitVec 4) (s : State) : Out :=
  word s fun s => do
    need (SMap.getD s.me.slotDone c.toNat 0 ≤ s.now) ⟨0x14, [c.toNat, 0, 0]⟩
    .ok s

/-! ### A copy in flight -/

/-- The XTS keys of a core's context (Table 19.2). -/
def Sys.xtsKeys (y : Sys) (core : Nat) : Bytes := hkdf (y.ctx (y.ctxOf core)).mkey [] (ascii "N9 xts") 64

/-- Stored bytes of a space. -/
def Sys.spaceRead (y : Sys) (core sp off n : Nat) : Bytes :=
  match sp with
  | 1 => Mem.read (y.core core).spad off n
  | 3 => Mem.read (y.cluster (clusterOf core)).l2 off n
  | _ => Mem.read (y.core core).mx.wbuf off n

/-- The data unit number of the unit at offset `o` of a side whose pointer offset is `o0` and tweak base `x` (R217). Of a base
that is no multiple of 64, for which R218 names no fault, the quotient is the floor (log 138). -/
def unitNumber (x o o0 : Nat) : Nat := (((x : Int) + o - o0) / 64 % 2 ^ 48).toNat

/-- R217: 64 plaintext bytes of a side of a copy; `dst` names the second region of a CPCMP. -/
def Sys.copyUnit (y : Sys) (core : Nat) (conf : Bool) (d : CopyDesc) (dst : Bool) (o : Nat) : Bytes :=
  let ea := if dst then d.dst else d.src
  let bs := y.spaceRead core (spaceOf ea) o 64
  if conf && spaceOf ea == 3 then xts false (y.xtsKeys core) (unitNumber (if dst then d.xdst else d.xsrc) o (copyOff ea)) bs
  else bs

/-- The positions of a sector, by units of 64 bytes (R216). -/
def CopyDesc.units (d : CopyDesc) (i : Nat) : List Nat :=
  (List.range (Nat.min 4 ((d.bytes - 256 * i) / 64))).map fun j => 256 * i + 64 * j

/-- R220: the plaintext of a sector of the source, followed for a CPCMP by that of the second region. -/
def Sys.copySector (y : Sys) (core : Nat) (conf : Bool) (d : CopyDesc) (kind i : Nat) : Bytes :=
  (d.units i).flatMap (fun p => y.copyUnit core conf d false (d.srcAt p)) ++
    (if kind == 3 then (d.units i).flatMap fun p => y.copyUnit core conf d true (d.dstAt p) else [])

/-- R220: the accesses of a sector read. -/
def State.touchSector (s : State) (c : Copy) (d : CopyDesc) (i : Nat) : State :=
  let g := groupCopy c.start c.slot
  let s := if spaceOf d.src == 1 then
      (d.units i).foldl (fun t p => t.touchBy 0x0A (d.srcAt p) 64 c.start g true) s else s
  if c.kind == 3 && spaceOf d.dst == 1 then
    (d.units i).foldl (fun t p => t.touchBy 0x0A (d.dstAt p) 64 c.start g true) s else s

/-- NG of a block header, or none when it fails R224. -/
def blockGranules (h : Nat) : Option Nat := if h < 128 && 3 ≤ h && h ≤ 67 then some h else none

/-- R220, R223: where the block after the one at `off` starts, by that one's header, or none when the header fails. -/
def nextBlock (y : Sys) (core : Nat) (d : CopyDesc) (off : Nat) : Option Nat :=
  if off + 4 ≤ spaceSize (spaceOf d.src) then
    (blockGranules (leNat (y.spaceRead core (spaceOf d.src) off 4))).map fun n => off + 64 * n
  else none

/-- R220: what an EXP copy reads of the block at `off` in the `m`-th of its cycles, as offset and count; `next` is where the block
after it starts. -/
def expRead (d : CopyDesc) (off : Nat) (next : Option Nat) (m : Nat) : Nat × Nat :=
  let len := Nat.min (spaceSize (spaceOf d.src) - off) (match next with | some o => o - off | none => 64)
  (off + 256 * m, Nat.min 256 (len - 256 * m))

/-- R220: the step of an EXP copy in the cycle `m` of block `j`. The header is read in the block's first cycle, and the length it
gives holds for the cycles after. -/
def expStep (s : State) (c : Copy) (d : CopyDesc) (j m : Nat) : State × Copy :=
  match SMap.get? c.offs j with
  | none => (s, c)
  | some off =>
    let next := if m == 0 then nextBlock s.old s.unit d off else SMap.get? c.offs (j + 1)
    let r := expRead d off next m
    if r.2 == 0 then (s, c)
    else
      let bs := s.old.spaceRead s.unit (spaceOf d.src) r.1 r.2
      let t := if spaceOf d.src == 1 then s.touchBy 0x0A r.1 r.2 c.start (groupCopy c.start c.slot) true else s
      (t, { c with buf := SMap.put c.buf j (SMap.getD c.buf j [] ++ bs),
                   offs := match next with | some o => SMap.put c.offs (j + 1) o | none => c.offs })

/-- One copy's read in the present cycle. -/
def readOne (s : State) (c : Copy) : State × Copy :=
  let d := copyDesc c.desc
  let x := s.cur.gn s.unit - (c.start + 1)
  if c.reread || s.cur.gn s.unit ≤ c.start then (s, c)
  else if d.exp then
    if x < 17 * d.nb then expStep s c d (x / 17) (x % 17) else (s, c)
  else if x < d.n then
    (s.touchSector c d x, { c with buf := SMap.put c.buf x (s.old.copySector s.unit c.conf d c.kind x) })
  else (s, c)

/-- A change made to each copy of the core in turn. -/
def eachCopy (f : State → Copy → State × Copy) (s : State) : State :=
  let r := s.mine.copies.foldl (fun (x : State × List Copy) c => let y := f x.1 c; (y.1, x.2 ++ [y.2])) (s, [])
  r.1.onMine fun k => { k with copies := r.2 }

/-- R220, R374: the copies and the link transfers of the core in turn read their sectors of this cycle, as the source stands
before its writes. -/
def execCopySectorRead (s : State) : Out := .next (s.cur.link.transfers.foldl readTransfer (eachCopy readOne s))

/-! Weight code (R223, R224). -/

/-- The low or high nibble that holds the code length of a symbol. -/
def codeLen (blk : Bytes) (sym : Nat) : Nat := (blk.getD (4 + sym / 2) 0).toNat / (if sym % 2 == 0 then 1 else 16) % 16

/-- The codes: (length, code, symbol), in canonical order. -/
def codeTable (blk : Bytes) : List (Nat × Nat × Nat) :=
  let lens := (List.range 256).map fun sy => (sy, codeLen blk sy)
  ((List.range 15).foldl (fun (x : List (Nat × Nat × Nat) × Nat) n1 =>
    let n := n1 + 1
    let y := lens.foldl (fun (z : List (Nat × Nat × Nat) × Nat) e =>
      if e.2 == n then (z.1 ++ [(n, z.2, e.1)], z.2 + 1) else z) x
    (y.1, y.2 * 2)) ([], 0)).1

/-- The next symbol of a bit stream and the bits after it; `n` bits are already in `c`. -/
def nextSymbol (tbl : List (Nat × Nat × Nat)) : Nat → Nat → Nat → List Bool → Option (Nat × List Bool)
  | 0, _, _, _ => none
  | fuel + 1, n, c, bits =>
    match bits with
    | [] => none
    | b :: r =>
      let c' := 2 * c + (if b then 1 else 0)
      match tbl.find? fun e => e.1 == n + 1 && e.2.1 == c' with
      | some e => some (e.2.2, r)
      | none => nextSymbol tbl fuel (n + 1) c' r

/-- `n` symbols of a bit stream. -/
def symbols (tbl : List (Nat × Nat × Nat)) : Nat → List Bool → Option Bytes
  | 0, _ => some []
  | n + 1, bits =>
    match nextSymbol tbl 15 0 0 bits with
    | none => none
    | some (sy, r) => (symbols tbl n r).map fun l => BitVec.ofNat 8 sy :: l

/-- R223, R224: a block expanded to 4096 bytes, or none where 0x49 is raised. -/
def expandBlock (blk : Bytes) : Option Bytes :=
  match blockGranules (fieldLe blk 0 4) with
  | none => none
  | some ng =>
    let lens := (List.range 256).map (codeLen blk)
    let weight := lens.foldl (fun a l => a + (if l == 0 then 0 else 2 ^ (15 - l))) 0
    if blk.length < 64 * ng || weight == 0 || 2 ^ 15 < weight then none
    else
      let bits := ((blk.drop 132).take (64 * ng - 132)).flatMap fun b => (List.range 8).map fun j => b.getLsbD j
      symbols (codeTable blk) 4096 bits

/-- R217, R219: 64 bytes of a sector written to the destination, enciphered for an L2 in confidential mode. -/
def writeUnit (s : State) (c : Copy) (d : CopyDesc) (p : Nat) (bs : Bytes) : State :=
  let o := d.dstAt p
  match spaceOf d.dst with
  | 1 =>
    let t := s.touchBy 0x0B o 64 c.start (groupCopy c.start c.slot) false
    t.onMine fun k => k.landGranule o c.start bs
  | 3 =>
    let bs := if c.conf then xts true (s.cur.xtsKeys s.unit) (unitNumber d.xdst o (copyOff d.dst)) bs else bs
    s.onCur fun y =>
      let cl := y.cluster (clusterOf s.unit)
      y.setCluster (clusterOf s.unit) { cl with l2 := Mem.write cl.l2 o bs }
  | _ => s.onMx fun x => { x with wbuf := Mem.write x.wbuf o bs }

/-- R225: the fingerprint with a sector joined. -/
def Copy.hashSector (c : Copy) (bs : Bytes) : Copy :=
  if c.kind == 2 then { c with hash := (chunks 64 bs).foldl shaBlock c.hash, hlen := c.hlen + bs.length } else c

/-- R226: 1 + the first position from `p` at which two runs of bytes differ, or 0. -/
def firstDiff (p : Nat) (a b : Bytes) : Nat :=
  match (a.zip b).findIdx? fun x => x.1 != x.2 with
  | some j => p + j + 1
  | none => 0

/-- R219, R226: sector `i` of a copy compared, or written. -/
def sectorOut (s : State) (c : Copy) (d : CopyDesc) (i : Nat) (bs : Bytes) : State × Copy :=
  if c.kind == 3 then
    let n := bs.length / 2
    let x := firstDiff (256 * i) (bs.take n) (bs.drop n)
    (s, { c with cmp := if c.cmp == 0 then x else c.cmp, buf := SMap.del c.buf i })
  else
    let t := ((d.units i).zip (chunks 64 bs)).foldl (fun t x => writeUnit t c d x.1 x.2) s
    (t, { (c.hashSector bs) with buf := if d.exp then c.buf else SMap.del c.buf i })

/-- The sector that a copy writes in a cycle: w(i) = `x` after its start. -/
def sectorDue (c : Copy) (d : CopyDesc) (x : Nat) : Option Nat :=
  let x0 := copyW c.conf d 0
  if x < x0 then none
  else
    let i := if d.exp then (x - x0) / 32 * 16 + (x - x0) % 32 else x - x0
    if i < d.n && copyW c.conf d i == x then some i else none

/-- One copy's write in the present cycle (R219, R224). -/
def writeOne (s : State) (c : Copy) : State × Copy :=
  let d := copyDesc c.desc
  match sectorDue c d (s.cur.gn s.unit - c.start) with
  | none => (s, c)
  | some i =>
    if d.exp then
      let j := i / 16
      match (match SMap.get? c.plain j with | some b => some b | none => expandBlock (SMap.getD c.buf j [])) with
      | none => (engineFault s ⟨0x49, [c.slot + 16 * j, 0, 0]⟩, c)
      | some blk =>
        let r := sectorOut s c d i ((blk.drop (256 * (i % 16))).take 256)
        (r.1, if i % 16 == 15 then { r.2 with plain := SMap.del r.2.plain j, buf := SMap.del r.2.buf j }
          else { r.2 with plain := SMap.put r.2.plain j blk })
    else sectorOut s c d i (SMap.getD c.buf i [])

/-- R219: the sectors of this cycle are written with the copy's tag, or compared; a block that fails its code raises
0x49. -/
def execCopySectorWrite (s : State) : Out := .next (eachCopy writeOne s)

/-- R229: whether a copy arms a granule of the core in cycle `now`: its data is not yet complete. -/
def Copy.arms (c : Copy) (now g : Nat) : Bool :=
  let d := copyDesc c.desc
  d.chk && c.kind != 3 && spaceOf d.dst == 1 && c.start + 1 ≤ now && now < c.start + copyLD c.conf d &&
    (List.range (d.bytes / 64)).any fun j => d.dstAt (64 * j) / 64 == g

/-- R219, R229: the data of a copy is complete at t + LD: nothing of it is left to write, and its arming has ended. -/
def execCopyDataComplete (s : State) : Out :=
  .next (eachCopy (fun s c =>
    if s.cur.gn s.unit == c.start + copyLD c.conf (copyDesc c.desc) then (s, { c with buf := [], plain := [] }) else (s, c)) s)

/-- Bytes written to the scratchpad at t + L − 1 by copies of a kind. -/
def finish (kind : Nat) (out : State → Copy → Bytes) (s : State) : Out :=
  .next (eachCopy (fun s c =>
    let d := copyDesc c.desc
    if c.kind == kind && s.cur.gn s.unit + 1 == c.start + copyL c.conf d kind then
      let bs := out s c
      let t := s.touchBy 0x0C c.raddr bs.length c.start (groupCopy c.start c.slot) false
      (t.onMine fun k => { k with spad := Mem.write k.spad c.raddr bs }, c)
    else (s, c)) s)

/-- R225: the digest of a fingerprint. -/
def Copy.digest (c : Copy) (fkey : Bytes) : Bytes :=
  let inner := shaFinish c.hash [] c.hlen
  if c.conf then sha256 (hmacPad fkey 0x5C ++ inner) else inner

/-- R225: the digests due in this cycle are written. -/
def execCopyDigestWrite (s : State) : Out :=
  finish 2 (fun s c => c.digest (s.cur.ctx (s.cur.ctxOf s.unit)).fkey) s

/-- R226: the results of compares due in this cycle are written. -/
def execCopyResultWrite (s : State) : Out := finish 3 (fun _ c => natLe 8 c.cmp) s

/-- R219, Table 8.10: the copies that are complete leave the engine. -/
def execCopyCompletion (s : State) : Out :=
  let flying := fun (c : Copy) => decide (s.cur.gn s.unit < c.start + copyL c.conf (copyDesc c.desc) c.kind)
  .next (s.onMine fun k => { k with copies := k.copies.filter flying })

/-- A whole block of an EXP copy read at once: its bytes and where the next one starts. -/
def Sys.wholeBlock (y : Sys) (core : Nat) (d : CopyDesc) (off : Nat) : Bytes × Option Nat :=
  let next := nextBlock y core d off
  ((List.range 17).flatMap fun m =>
    let r := expRead d off next m
    y.spaceRead core (spaceOf d.src) r.1 r.2, next)

/-- R231: on resume, in cycle `now`, sectors k to N − 1 are read again from their source as it stands; an EXP copy reads
again from the start of the block that holds sector k. -/
def Sys.rereadCopy (y : Sys) (core now : Nat) (c : Copy) : Copy :=
  let d := copyDesc c.desc
  let k := (List.range d.n).findIdx fun i => decide (now ≤ c.start + copyW c.conf d i)
  if d.exp then
    let step := fun (c : Copy) j0 =>
      let j := k / 16 + j0
      match SMap.get? c.offs j with
      | none => c
      | some off =>
        let r := y.wholeBlock core d off
        { c with buf := SMap.put c.buf j r.1,
                 offs := match r.2 with | some o => SMap.put c.offs (j + 1) o | none => SMap.del c.offs (j + 1) }
    (List.range (d.nb - k / 16)).foldl step { c with buf := [], plain := [], reread := true }
  else
    let read := (List.range (d.n - k)).map fun j => (k + j, y.copySector core c.conf d c.kind (k + j))
    { c with buf := read, reread := true }

end Sys2Proof.Machine
end

