-- ==== Sys2Proof/Machine/Banks.lean ====
section
/-! DEFINITION. The scratchpad accesses of a cycle judged together: early reads, bank collisions and tag checks (R202, R203, R229). -/

namespace Sys2Proof.Machine

/-- The banks that an access touches. -/
def BankUse.banks (u : BankUse) : List Nat :=
  (List.range ((u.off + u.size - 1) / 65536 + 1 - u.off / 65536)).map fun j => u.off / 65536 + j
/-- The granules that an access touches. -/
def BankUse.granules (u : BankUse) : List Nat :=
  (List.range ((u.off + u.size - 1) / 64 + 1 - u.off / 64)).map fun j => u.off / 64 + j
/-- The first granule of an access in a bank. -/
def BankUse.granuleIn (u : BankUse) (bank : Nat) : Nat := Nat.max (u.off / 64) (1024 * bank)

/-- R229: the timed reads that the early-read checker checks, by their codes of Table 11.5a; the reads of an entry, of a page request
and of a link block are not among them. -/
def BankUse.checked (u : BankUse) : Bool :=
  u.read && ([0x01, 0x03, 0x04, 0x06, 0x07, 0x09, 0x0A, 0x0D, 0x0E, 0x0F, 0x10, 0x12, 0x16] : List Nat).contains u.code

/-- R71, R97: the report of an access's fault: at its bundle word, or of its engine. -/
def BankUse.report (y : Sys) (u : BankUse) (cause : Nat) (detail : List Nat) : Report :=
  { rank := if u.word.isSome then 1 else 3, late := false, die := dieOf u.core, cluster := clusterOf u.core % 20, core := u.core % 8,
    word := u.word.getD 0, cause := cause, detail := detail, pos := none, kernel := (y.core u.core).kernel }

/-- R229: the early read that an access is, if it is one: the granule and the slot of the copy that arms it. -/
def Sys.earlyRead (y : Sys) (u : BankUse) : Option (Nat × Nat) :=
  if !u.checked then none
  else u.granules.findSome? fun g => ((y.core u.core).copies.find? fun c => c.arms (y.gn u.core) g).map fun c => (g, c.slot)

/-- R229, R453: the report of an early read. -/
def earlyReport (y : Sys) (u : BankUse) (g slot : Nat) : Report :=
  u.report y 0x13 [g / 1024 + 2 ^ 8 * u.code + 2 ^ 16 * 0x0B, g, slot]

/-- The access that a collision is reported at: the one of the lowest bundle word, else the one started earliest (R453). -/
def collider (l : List BankUse) : Option BankUse :=
  let ahead := fun (a b : BankUse) => match a.word, b.word with
    | some i, some j => decide (i < j)
    | some _, none => true
    | none, some _ => false
    | none, none => decide (a.since < b.since)
  l.foldl (fun o u => match o with | none => some u | some v => if ahead u v then some u else some v) none

/-- R203: the collision of a bank among the accesses of one core: the access it is reported at, and the other. -/
def collision (l : List BankUse) (bank : Nat) : Option (BankUse × BankUse) :=
  let l := l.filter fun u => u.banks.contains bank
  (collider l).bind fun u => (collider (l.filter fun v => v.group != u.group)).map fun v => (u, v)

/-- R203, R453: the report of a collision. -/
def collisionReport (y : Sys) (bank : Nat) (c : BankUse × BankUse) : Report :=
  c.1.report y 0x12 [bank + 2 ^ 8 * c.1.code + 2 ^ 16 * c.2.code, c.1.granuleIn bank, 0xFF]

/-- R65, R202: the report of a tag check that fails: the tag differs, or the granule is poisoned (R201). -/
def tagReport (y : Sys) (u : BankUse) : Option Report :=
  u.tag.bind fun t =>
    let found := (y.core u.core).tag (t.1 / 64)
    if found == t.2 then none
    else some (u.report y 0x11 [t.2 + 2 ^ 16 * (found % 4096), t.1 / 64, 0])

/-- Reports without a second one of the same word or engine. -/
def oncePerWord (l : List Report) : List Report :=
  l.foldl (fun out r => if out.any fun p => p.core == r.core && p.cluster == r.cluster && p.die == r.die && p.rank == r.rank && p.word == r.word
    then out else out ++ [r]) []

/-- R203: whether two accesses are one: they are of one instruction, or of one engine and both reads or both writes, for a copy's
source read does not take its sector write with it. -/
def BankUse.one (u v : BankUse) : Bool := u.group == v.group && (u.word.isSome || u.read == v.read)

/-- R203: the faults of one core's accesses of a cycle, in the order early read, collision, tag; an access that raised one takes part in
no later one. -/
def coreBankReports (y : Sys) (l : List BankUse) : List Report :=
  let early := l.filterMap fun u => (y.earlyRead u).map fun e => (u, earlyReport y u e.1 e.2)
  let rest := l.filter fun u => !early.any fun e => e.1.one u
  let banks := (rest.flatMap BankUse.banks).eraseDups
  let hits := banks.filterMap fun b => (collision rest b).map fun c => (c, collisionReport y b c)
  let struck := fun (u : BankUse) => hits.any fun h => h.1.1.group == u.group || h.1.2.group == u.group
  let tags := (rest.filter fun u => !struck u).filterMap (tagReport y)
  oncePerWord (early.map (·.2) ++ hits.map (·.2) ++ tags)

/-- The bank faults of a cycle, with the module as it stood before the cycle's writes. -/
def bankReports (y : Sys) (uses : List BankUse) : List Report :=
  ((uses.map (·.core)).eraseDups).flatMap fun c => coreBankReports y (uses.filter fun u => u.core == c)

end Sys2Proof.Machine
end

