-- ==== Sys2Proof/Machine/Bundle.lean ====
section
/-! DEFINITION. The indices of a tile task (R53 to R57, R70): what reading one at the index pointer issues. The words of the
bundle that it names are then executed one by one by `step`. -/

namespace Sys2Proof.Machine

/-- The core in turn moves on to a position with idle cycles left, and issues the words of a bundle. -/
def State.issueWords (s : State) (pos idle : Nat) (ws : List Word32) : State :=
  let t := s.onMine fun k => { k with ip := pos, idle := idle }
  { t with issue := { Issue.none with active := true, core := s.unit, words := ws } }

/-- R54: index 0x0000, a bundle in which no word takes effect. -/
def execEmptyBundle (s : State) : Out := .next (s.issueWords (s.me.ip + 1) 0 [])

/-- The entry of the dictionary of a core's cluster (R58). -/
def Sys.dictEntry (y : Sys) (core entry : Nat) : BitVec 384 := SMap.getD (y.cluster (clusterOf core)).dict entry emptyBundleBits

/-- R54, R58, R60: a dictionary entry, as it stands before this cycle's DICTLD writes. -/
def execDictionaryBundle (entry : BitVec 13) (s : State) : Out :=
  .next (s.issueWords (s.me.ip + 1) 0 (bundleWords (s.old.dictEntry s.unit entry.toNat)))

/-- R55: one cycle of an idle run with `n` cycles left, this one included; the index is consumed in the first. -/
def execIdleRun (n : Nat) (s : State) : Out :=
  .next (s.issueWords (if s.me.idle == 0 then s.me.ip + 1 else s.me.ip) (n - 1) [])

/-- R56: the literal bundle whose escape stands at a position: position 1 carries the lowest 16 bits. -/
def literalAt (k : Core) (pos : Nat) : BitVec 384 :=
  (List.range 24).foldl (fun b i => b ||| ((SMap.getD k.index (pos + 1 + i) 0).setWidth 384 <<< (16 * i))) 0

/-- R56, R69, R70: an escape issues a literal bundle once it has passed validation; an escape above position 131,047 raises
0x07. -/
def execLiteralBundle (s : State) : Out :=
  if 131047 < s.me.ip then .next (takeFault s (trouble 0x07))
  else
    let b := literalAt s.me s.me.ip
    match validateBundle b with
    | some (w, cause) => .next { takeFault { s with issue := { s.issue with word := w } } (trouble cause) with issue := Issue.none }
    | none => .next (s.issueWords (s.me.ip + 25) 0 (bundleWords b))

end Sys2Proof.Machine
end

