-- ==== Sys2Proof/Machine/Stacks.lean ====
section
/-! DEFINITION. The memory sequencer and its commands (R237 to R257), the events of a stack, and the firmware timelines
(R414 to R416). The unit of a command or a stack's event is the stack; a pseudo-channel is named by the command. -/

namespace Sys2Proof.Machine

/-- A broken rule of a command: cause, rule code of Table 11.5b, pseudo-channel, and the store word or descriptor that the detail names instead
of the timeline word (Table 11.5). -/
structure Broken where
  cause : Nat
  code  : Nat
  pch   : Nat
  word  : Option Nat
  deriving DecidableEq, Repr

/-- The stack in turn with the writes made so far. -/
def State.stack (s : State) : Stack := s.cur.stk s.unit
/-- The stack in turn changed. -/
def State.onStack (s : State) (f : Stack → Stack) : State := s.onStk s.unit f
/-- A pseudo-channel of a stack. -/
def Stack.pch (x : Stack) (p : Nat) : Pch := SMap.getD x.pchs p Pch.reset
/-- The stack with a pseudo-channel replaced. -/
def Stack.setPch (x : Stack) (p : Nat) (c : Pch) : Stack := { x with pchs := SMap.put x.pchs p c }
/-- A bank of a pseudo-channel. -/
def Pch.bank (c : Pch) (b : Nat) : Bank := SMap.getD c.banks b Bank.reset
/-- The pseudo-channel with a bank replaced. -/
def Pch.setBank (c : Pch) (b : Nat) (k : Bank) : Pch := { c with banks := SMap.set Bank.reset c.banks b k }
/-- The state with a pseudo-channel of the stack in turn changed. -/
def State.onPch (s : State) (p : Nat) (f : Pch → Pch) : State := s.onStack fun x => x.setPch p (f (x.pch p))

/-- The relative cycle of the kernel that owns a stack's timeline (R237). -/
def Sys.relCycle (y : Sys) (k : Nat) : Nat :=
  match (y.stk k).kernel.bind (SMap.get? y.kernels) with
  | some q => (y.die (k / 2)).gnomon - q.start
  | none => 0

/-- The stack tick of a timeline tick of the present cycle (R242). -/
def State.stackTick (s : State) (t : Nat) : Nat := 2 * s.cur.hub + t % 2

/-- The stack tick of the command in turn. -/
def State.wtick (s : State) : Nat := s.stackTick s.stack.tick

/-- R239, R291, Table 11.5: a fault of the stack in turn at timeline tick `t`. One in the second half of a cycle stops the die
at the boundary after it. One that work already started meets when its kernel has stopped is not reported again (R252, log 21). -/
def stackFault (s : State) (cause : Nat) (detail : List Nat) (t : Nat) : State :=
  let r : Report :=
    { rank := if 0x70 ≤ cause then 0 else 2, late := t % 2 == 1, die := s.unit / 2, cluster := 0, core := 0, word := 0,
      cause := cause, detail := detail, pos := none, kernel := s.stack.kernel }
  if (s.stack.kernel.bind s.cur.kern).any fun x => x.state == .running then { s with faults := s.faults ++ [r] } else s

/-- The first 32 bits of the detail of a stack's fault. -/
def stackDetail (k p code : Nat) : Nat := k + 8 * p + 512 * code

/-- Whether a bank is open. -/
def Bank.isOpen (k : Bank) : Bool := match k.mode with | .opened _ => true | _ => false
/-- A bank closed at a tick, for the other command of that tick already (log 170). -/
def Bank.close (k : Bank) (w : Nat) : Bank := { k with mode := .precharged, pre := some w }

/-! ### Firmware timelines (R414 to R416) -/

/-- The tick at which a pseudo-channel's period starts (R414, R415). -/
def Stack.periodStart (x : Stack) (p : Nat) : Nat := SMap.getD x.delayed p (x.taken + 8 * p)

/-- R414: the slot of a firmware window that begins at a tick, if one does. -/
def Stack.firmwareSlot (x : Stack) (p w : Nat) : Option Nat :=
  let st := x.periodStart p
  if w < st then none
  else
    let o := (w - st) % 4096
    if o < 544 && o % 8 == 0 then some (o / 8) else none

/-- Whether a firmware timeline drives a stack (R237, R384). -/
def Driver.firmware (d : Driver) : Bool := d == .idle || d == .hold || d == .drain

/-- R414: whether firmware's own memory work may fall on a pseudo-channel at a tick. -/
def Stack.works (x : Stack) (p w : Nat) : Bool :=
  let st := x.periodStart p
  x.driver.firmware && st ≤ w && 1324 ≤ (w - st) % 4096

/-- R414: the window or refresh of a firmware timeline that is in progress on a pseudo-channel when another timeline takes the stack at a
tick, with the tick at which it ends. -/
def Stack.inProgress (x : Stack) (p w : Nat) : Option (Nat × Occupier) :=
  let st := x.periodStart p
  if !x.driver.firmware || w ≤ st then none
  else
    let o := (w - st) % 4096
    if o == 0 then none
    else if o < 664 then some (w - o + 664, .window (w - o) 68)
    else if 664 < o && o < 1324 then some (w - o + 1324, .refab)
    else none

/-- R414: whether a firmware window or refresh is in progress on a pseudo-channel at a tick. -/
def Stack.firmwareBusy (x : Stack) (p w : Nat) : Bool :=
  let st := x.periodStart p
  st ≤ w && (w - st) % 4096 < 1324

/-- The tick of a firmware timeline's latest command on a pseudo-channel before a tick. -/
def Stack.firmwareLast (x : Stack) (p w : Nat) : Option Nat :=
  let st := x.periodStart p
  if w ≤ st then none
  else
    let o := (w - 1 - st) % 4096
    some (if 664 ≤ o then w - 1 - o + 664 else w - 1 - o)

/-- R252: the tick at which an open bank may be closed. -/
def Bank.closeAt (k : Bank) (w : Nat) : Nat :=
  let after := fun (t : Option Nat) (d : Nat) => match t with | some t => t + d | none => 0
  Nat.max w (Nat.max (after k.act 64) (Nat.max (after k.rdl 8) (after k.wrlEnd 34)))

/-- R415: the first tick at which a pseudo-channel's pending rules let its period start, after its open banks are closed. While a
near-bank issue steps or waits, that tick lies beyond every end it can have; the end of the last one brings it back
(`execNearBankIssueEnd`). -/
def Pch.readyAt (c : Pch) (w : Nat) : Nat :=
  let banks := c.banks.map fun b =>
    let pre := match b.2.mode with | .opened _ => b.2.closeAt w + 28 | _ => (match b.2.pre with | some t => t + 28 | none => 0)
    Nat.max pre (match b.2.mode with | .refreshing e => e | _ => 0)
  let near := if c.cur.isSome || !c.queue.isEmpty then w + 2 ^ 21 else 0
  banks.foldl Nat.max (Nat.max w (Nat.max ((c.busy.map (·.1)).getD 0) (Nat.max ((c.lturn.map (·.1)).getD 0) near)))

/-- R415: a pseudo-channel with its open banks closed. -/
def Pch.closed (c : Pch) (w : Nat) : Pch :=
  { c with banks := c.banks.map fun b => (b.1, if b.2.isOpen then b.2.close (b.2.closeAt w) else b.2) }

/-- R252: the tick after the last PRE that closes an open bank, or the tick itself when no bank is open. -/
def Stack.closedAt (x : Stack) (w : Nat) : Nat :=
  x.pchs.foldl (fun t c => c.2.banks.foldl (fun t b => if b.2.isOpen then Nat.max t (b.2.closeAt w + 1) else t) t) w

/-- What a firmware timeline has in progress is noted on its pseudo-channels, and runs to its end (R414, R415). -/
def Stack.noted (x : Stack) (w : Nat) : Stack :=
  (List.range 64).foldl (fun y p =>
    match x.inProgress p w with
    | some b => y.setPch p { y.pch p with busy := some b }
    | none => y) x

/-- R251, R252, R415: a firmware timeline takes a stack at a tick, or once the banks open then are closed. The rows that were open are
recorded, and rules still pending delay the start of the period. -/
def Stack.takenBy (x : Stack) (d : Driver) (w : Nat) : Stack :=
  let x := x.noted w
  let t := x.closedAt w
  let rows := x.pchs.flatMap fun c => c.2.banks.filterMap fun b =>
    match b.2.mode with
    | .opened r => some (c.1, b.1, r)
    | _ => none
  { x with driver := d, taken := t, reopen := rows,
           delayed := x.pchs.map fun c => (c.1, Nat.max (t + 8 * c.1) (c.2.readyAt w)),
           pchs := x.pchs.map fun c => (c.1, c.2.closed w) }

/-- Whether a command may still execute: its timeline drives the stack and has raised no fault (R239). -/
def cmdReady (s : State) (k : Nat) : Bool := (s.cur.stk k).driver == .compiled

/-- R84, R237: the next word of a timeline is in turn: its position and tick. -/
def issueCmd (s : State) (k : Nat) (w : Word) : State :=
  let step := fun (x : Stack) => { x with word := x.pos, pos := x.pos + 1, tick := x.tick + cmdDelta w }
  { s with unit := k, cur := s.cur.setStk k (step (s.cur.stk k)) }

/-- R239: a command takes effect, or its broken rule is raised and its timeline goes no further. -/
def command (s : State) (f : State → Except Broken State) : Out :=
  match f s with
  | .ok t => .next (t.onStack fun x => { x with seam := none })
  | .error b =>
    let third := if 0x40 ≤ b.cause then 0 else s.stack.tick
    let t := stackFault s b.cause [stackDetail s.unit b.pch b.code, b.word.getD s.stack.word, third] s.stack.tick
    .next (t.onStack fun x => x.takenBy .hold (2 * s.cur.hub + 2))

/-- A rule that raises when it does not hold. -/
def rule (ok : Bool) (cause code p : Nat) : Except Broken Unit :=
  if ok then .ok () else .error { cause := cause, code := code, pch := p, word := none }

/-- Whether at least `d` ticks lie between an earlier event, if any, and tick `w`. -/
def apart (w d : Nat) : Option Nat → Bool
  | some t => t + d ≤ w
  | none => true

/-- R238: one row-class command of a pseudo-channel a tick. -/
def rowClass (p : Nat) (s : State) : Except Broken State := do
  rule ((s.stack.pch p).rowCmd != some s.wtick) 0x27 38 p
  .ok (s.onPch p fun c => { c with rowCmd := some s.wtick })

/-- R238: one column-class command of a pseudo-channel a tick. -/
def colClass (p : Nat) (s : State) : Except Broken State := do
  rule ((s.stack.pch p).colCmd != some s.wtick) 0x27 38 p
  .ok (s.onPch p fun c => { c with colCmd := some s.wtick })

/-- Whether a window, an engine window, a commit or a REFAB occupies a pseudo-channel (R247, R256, R263). -/
def Pch.free (c : Pch) (w : Nat) : Bool :=
  match c.busy with
  | some (e, _) => e ≤ w
  | none => true

/-- The layer groups that step at a pseudo-channel: those of its running and queued issues (R264). -/
def Pch.groups (c : Pch) : List Nat :=
  (match c.cur with | some r => [r.issue.lg] | none => []) ++ c.queue.map (·.lg)

/-- Whether a layer group steps. -/
def Pch.steps (c : Pch) (lg : Nat) : Bool := c.groups.contains lg
/-- Whether any layer group steps. -/
def Pch.stepping (c : Pch) : Bool := !c.groups.isEmpty
/-- The layer group of a bank. -/
def bankLg (b : Nat) : Nat := b / 16
/-- The bank group of a bank within its layer group (R233). -/
def bankBg (b : Nat) : Nat := b / 4

/-- Whether a bank refreshes at a tick. -/
def Bank.refreshing (k : Bank) (w : Nat) : Bool := match k.mode with | .refreshing e => decide (w < e) | _ => false

/-- Whether a bank is precharged at a tick: it enters that state in the tick after its PRE or PREA (Table 9.1). -/
def Bank.rests (k : Bank) (w : Nat) : Bool := !k.isOpen && !k.refreshing w && k.pre != some w

/-- R247: the banks of a list are precharged (0x21) with tRP elapsed (0x22). -/
def quiet (c : Pch) (w p : Nat) (bs : List Nat) : Except Broken Unit := do
  rule (bs.all fun b => (c.bank b).rests w) 0x21 33 p
  rule (bs.all fun b => apart w 28 (c.bank b).pre) 0x22 3 p

/-- tRRD, tFAW and the near-bank power window, with the activation recorded (Table 9.4, R264). -/
def actRate (p b : Nat) (s : State) : Except Broken State := do
  let w := s.wtick
  let c := s.stack.pch p
  let acts := c.acts.filter fun a => decide (w < a.1 + 32)
  rule (acts.all fun a => a.2 == bankBg b || a.1 + 4 ≤ w) 0x23 5 p
  rule (acts.all fun a => a.2 != bankBg b || a.1 + 6 ≤ w) 0x23 6 p
  rule (acts.length < 4) 0x23 7 p
  rule (!c.stepping || acts.length < 2) 0x23 42 p
  .ok (s.onPch p fun c => { c with acts := acts ++ [(w, bankBg b)] })

/-- R240: MNOP. -/
def execMnop (s : State) : Out := .next (s.onStack fun x => { x with seam := none })

/-- R240: ACT. -/
def execAct (pch bank : BitVec 6) (row : BitVec 14) (s : State) : Out :=
  let p := pch.toNat
  let b := bank.toNat
  command s fun s => do
    let w := s.wtick
    let s ← rowClass p s
    let c := s.stack.pch p
    rule (c.free w) 0x27 37 p
    rule (!c.steps (bankLg b)) 0x28 39 p
    rule (apart w 180 (c.bank b).refpb) 0x22 17 p
    rule (!(c.bank b).isOpen) 0x21 33 p
    rule (apart w 28 (c.bank b).pre) 0x22 3 p
    rule (apart w 92 (c.bank b).act) 0x22 4 p
    let s ← actRate p b s
    .ok (s.onPch p fun c => c.setBank b { c.bank b with mode := .opened row.toNat, act := some w })

/-- tBLR of a split (Table 9.3). -/
def tBLR (split : Nat) : Nat := match split with | 0 => 3 | 1 => 4 | 2 => 4 | 3 => 6 | _ => 11
/-- tBLW of a split, none at split 0 (Table 9.3). -/
def tBLW (split : Nat) : Option Nat := match split with | 0 => none | 1 => some 22 | 2 => some 11 | 3 => some 6 | _ => some 4

/-- The rules of a column command (R240, R243, R244, R264, Table 9.4); it answers the open row. -/
def colRules (p b : Nat) (read : Bool) (s : State) : Except Broken Nat := do
  let w := s.wtick
  let c := s.stack.pch p
  rule (c.free w) 0x27 37 p
  rule (!c.steps (bankLg b)) 0x28 39 p
  rule (c.bank b).isOpen 0x21 33 p
  rule c.lturn.isNone 0x25 35 p
  rule (read || (tBLW c.split).isSome) 0x25 34 p
  rule (apart w 28 (c.bank b).act) 0x22 1 p
  rule (c.cols.all fun x => x.2.1 == bankBg b || x.1 + 2 ≤ w) 0x25 8 p
  rule (c.cols.all fun x => x.2.1 != bankBg b || x.1 + 4 ≤ w) 0x25 9 p
  if read then rule (c.cols.all fun x => !x.2.2 || x.1 + tBLR c.split ≤ w) 0x25 10 p
  else rule (c.cols.all fun x => x.2.2 || x.1 + (tBLW c.split).getD 0 ≤ w) 0x25 11 p
  match (c.bank b).mode with
  | .opened r => .ok r
  | _ => .ok 0

/-- The column commands that a rule may still look back on, with one more. -/
def recentCols (c : Pch) (w b : Nat) (read : Bool) : List (Nat × Nat × Bool) :=
  (c.cols.filter fun x => decide (w < x.1 + 22)) ++ [(w, bankBg b, read)]

/-- R241: RDL. -/
def execRdl (pch bank : BitVec 6) (col : BitVec 4) (cl : BitVec 5) (line : BitVec 17) (s : State) : Out :=
  let p := pch.toNat
  let b := bank.toNat
  command s fun s => do
    let w := s.wtick
    let s ← colClass p s
    let row ← colRules p b true s
    let c := s.stack.pch p
    let t := s.stack.tick + 40 + tBLR c.split
    let pa := addressOf { stack := s.unit, pch := p, bank := b, row := row, byte := 64 * col.toNat }
    let l : LineLand :=
      { cluster := cl.toNat, line := line.toNat, cycle := (t - 1) / 2, tick := t, pa := pa,
        bytes := if s.cur.poisoned pa then none else some (Mem.read s.cur.hbm pa 64) }
    let s := s.onPch p fun c =>
      { (c.setBank b { c.bank b with rdl := some w }) with
          cols := recentCols c w b true, readEnd := Nat.max c.readEnd (w + 40 + tBLR c.split) }
    .ok (s.onStack fun x => { x with lands := x.lands ++ [l] })

/-- An L2 line of the die of the stack in turn, as before this cycle's writes. -/
def State.lineOf (s : State) (cl line : Nat) : Bytes := Mem.read (s.old.cluster (20 * (s.unit / 2) + cl)).l2 (64 * line) 64

/-- R241: WRL. -/
def execWrl (pch bank : BitVec 6) (col : BitVec 4) (cl : BitVec 5) (line : BitVec 17) (s : State) : Out :=
  let p := pch.toNat
  let b := bank.toNat
  command s fun s => do
    let w := s.wtick
    let s ← colClass p s
    let row ← colRules p b false s
    let c := s.stack.pch p
    let done := w + 8 + (tBLW c.split).getD 0
    let pa := addressOf { stack := s.unit, pch := p, bank := b, row := row, byte := 64 * col.toNat }
    let f : WrlFlight := { pa := pa, done := done, bytes := s.lineOf cl.toNat line.toNat }
    let s := s.onPch p fun c =>
      { (c.setBank b { c.bank b with wrlEnd := some done }) with
          cols := recentCols c w b false, writeEnd := Nat.max c.writeEnd done }
    .ok (s.onStack fun x => { x with writes := x.writes ++ [f] })

/-- tRAS, tRTP and tWR of a bank that is to be closed. -/
def preRules (k : Bank) (w p : Nat) : Except Broken Unit := do
  rule (apart w 64 k.act) 0x22 2 p
  rule (apart w 8 k.rdl) 0x22 14 p
  rule (apart w 34 k.wrlEnd) 0x22 15 p

/-- R240: PRE. -/
def execPre (pch bank : BitVec 6) (s : State) : Out :=
  let p := pch.toNat
  let b := bank.toNat
  command s fun s => do
    let w := s.wtick
    let s ← rowClass p s
    let c := s.stack.pch p
    rule (c.free w) 0x27 37 p
    rule (!c.steps (bankLg b)) 0x28 39 p
    rule (apart w 180 (c.bank b).refpb) 0x22 17 p
    if (c.bank b).isOpen then do
      preRules (c.bank b) w p
      .ok (s.onPch p fun c => c.setBank b ((c.bank b).close w))
    else .ok s

/-- R240: PREA. It passes over a bank that REFPB is refreshing (log 169). -/
def execPrea (pch : BitVec 6) (s : State) : Out :=
  let p := pch.toNat
  command s fun s => do
    let w := s.wtick
    let s ← rowClass p s
    let c := s.stack.pch p
    rule (c.free w) 0x27 37 p
    rule (!c.stepping) 0x28 39 p
    let opened := (List.range 64).filter fun b => (c.bank b).isOpen
    opened.forM fun b => preRules (c.bank b) w p
    .ok (s.onPch p fun c => opened.foldl (fun c b => c.setBank b ((c.bank b).close w)) c)

/-- R245: a refresh lowers a bank's debt by 1, but not below −8. -/
def Bank.refreshed (k : Bank) (rises : Nat) : Bank :=
  let d := k.debt + rises - 1
  { k with debt := (if d < -8 then -8 else d) - rises }

/-- R246: REFAB. -/
def execRefab (pch : BitVec 6) (s : State) : Out :=
  let p := pch.toNat
  command s fun s => do
    let w := s.wtick
    let s ← rowClass p s
    let c := s.stack.pch p
    rule (c.free w) 0x27 37 p
    rule (!c.stepping) 0x28 39 p
    quiet c w p (List.range 64)
    let n := s.stack.rises
    .ok (s.onPch p fun c =>
      { ((List.range 64).foldl (fun c b => c.setBank b ((c.bank b).refreshed n)) c) with busy := some (w + 660, .refab) })

/-- R246: REFPB. -/
def execRefpb (pch bank : BitVec 6) (s : State) : Out :=
  let p := pch.toNat
  let b := bank.toNat
  command s fun s => do
    let w := s.wtick
    let s ← rowClass p s
    let c := s.stack.pch p
    rule (c.free w) 0x27 37 p
    rule (!c.steps (bankLg b)) 0x28 39 p
    rule (apart w 180 (c.bank b).refpb) 0x22 17 p
    rule (!(c.bank b).isOpen) 0x21 33 p
    rule (apart w 28 (c.bank b).pre) 0x22 3 p
    let s ← actRate p b s
    let n := s.stack.rises
    .ok (s.onPch p fun c =>
      c.setBank b { (c.bank b).refreshed n with mode := .refreshing (w + 180), refpb := some w })

/-- R244: LTURN. -/
def execLturn (pch : BitVec 6) (split : BitVec 3) (s : State) : Out :=
  let p := pch.toNat
  command s fun s => do
    let w := s.wtick
    let s ← rowClass p s
    let c := s.stack.pch p
    rule (c.free w) 0x27 37 p
    rule (!c.stepping) 0x28 39 p
    rule (c.readEnd ≤ w && c.writeEnd ≤ w && c.lturn.isNone) 0x25 35 p
    .ok (s.onPch p fun c => { c with lturn := some (w + 16, split.toNat) })

/-- R247: the conditions on a pseudo-channel at which a window opens (with R244, R264). -/
def windowRules (c : Pch) (w p : Nat) : Except Broken Unit := do
  rule (c.free w) 0x27 37 p
  rule (!c.stepping) 0x28 39 p
  rule c.lturn.isNone 0x25 35 p
  quiet c w p (List.range 64)

/-- R247: SVWIN. -/
def execSvwin (pch : BitVec 6) (slots : BitVec 8) (s : State) : Out :=
  let p := pch.toNat
  command s fun s => do
    let w := s.wtick
    let s ← rowClass p s
    windowRules (s.stack.pch p) w p
    .ok (s.onPch p fun c => { c with busy := some (w + 120 + 8 * slots.toNat, .window w slots.toNat) })

/-- R250: the conditions of a SEAM on a pseudo-channel. -/
def Pch.seamOk (c : Pch) (w : Nat) : Bool :=
  (c.banks.all fun b => b.2.rests w) && c.readEnd ≤ w && c.writeEnd ≤ w && c.free w && c.lturn.isNone &&
    !c.stepping && !c.nbFlag

/-- R250, R256: whether no engine window is in progress at the tick in turn. -/
def Stack.engineFree (x : Stack) : Bool := x.engines.all fun e => decide (e.endTick < x.tick)

/-- R250: SEAM. After the last one the idle timeline takes the stack, and the rules still pending bind its first commands (R249, R414,
R415) from the next tick. -/
def execSeam (seamno : BitVec 16) (s : State) : Out :=
  let x := s.stack
  let w := s.wtick
  let fail := fun (code cause p : Nat) =>
    let t := stackFault s cause [stackDetail s.unit p code, x.word, x.tick] x.tick
    Host.Outcome.next (t.onStack fun x => x.takenBy .hold (2 * s.cur.hub + 2))
  if x.seamCmd == some w then fail 38 0x27 0
  else
    match x.pchs.find? fun c => !c.2.seamOk w with
    | some c => fail 43 0x29 c.1
    | none =>
      if !x.engineFree then fail 43 0x29 0
      else
        let done := { x with seam := some seamno.toNat, seams := x.seams + 1, seamCmd := some w }
        .next (s.onStack fun _ => if x.pos == x.prog.length then done.takenBy .idle (w + 1) else done)

/-! ### Near-bank commands (R259, R260, R263) -/

/-- R259: NBLD. -/
def execNbld (pch : BitVec 6) (wg : BitVec 4) (cl : BitVec 5) (line : BitVec 17) (s : State) : Out :=
  let p := pch.toNat
  command s fun s => do
    let w := s.wtick
    let s ← rowClass p s
    let c := s.stack.pch p
    rule (c.free w) 0x27 37 p
    rule (!c.stepping) 0x28 40 p
    let ws : List Word32 := (unpackN 32 16 (leNat (s.lineOf cl.toNat line.toNat))).map (BitVec.ofNat 32)
    match ws.findIdx? fun x => (decodeNb x).isNone with
    | some j => .error { cause := 0x42, code := 0, pch := p, word := some (16 * wg.toNat + j) }
    | none =>
      .ok (s.onPch p fun c =>
        { c with store := (List.range 16).foldl (fun m j => SMap.set nbEndWord m (16 * wg.toNat + j) (ws.getD j 0)) c.store })

/-- R260: NBISS. -/
def execNbiss (pch : BitVec 6) (lg : BitVec 2) (argrow : BitVec 14) (start : BitVec 8) (s : State) : Out :=
  let p := pch.toNat
  command s fun s => do
    let w := s.wtick
    let s ← rowClass p s
    let c := s.stack.pch p
    rule (c.free w) 0x27 37 p
    quiet c w p ((List.range 16).map fun j => 16 * lg.toNat + j)
    rule (c.groups.length < 4) 0x28 40 p
    let i : NbIssue := { lg := lg.toNat, g0 := argrow.toNat, start := start.toNat, tick := w, word := s.stack.word }
    .ok (s.onPch p fun c => { c with queue := c.queue ++ [i], nbFlag := true })

/-- R263: NBFENCE. -/
def execNbfence (pch : BitVec 6) (s : State) : Out :=
  let p := pch.toNat
  command s fun s => do
    let w := s.wtick
    let s ← rowClass p s
    let c := s.stack.pch p
    rule (c.free w) 0x27 37 p
    rule (!c.stepping) 0x2A 45 p
    quiet c w p ((c.units.filter fun u => !u.2.slots.isEmpty).map (·.1))
    .ok (s.onPch p fun c => { c with busy := some (w + 48, .commit), nbFlag := false })

/-! ### Base-die engines (R255 to R257) -/

/-- An engine descriptor read by its fields (Table 9.6). -/
structure EngineDesc where
  eng   : Nat
  mode  : Nat
  pch   : Nat
  count : Nat
  a     : Nat
  h     : Nat
  d     : Nat
  deriving DecidableEq, Repr

/-- The fields of a descriptor's 32 bytes. -/
def engineDesc (bs : Bytes) : EngineDesc :=
  { eng := fieldLe bs 0 1, mode := fieldLe bs 1 1, pch := fieldLe bs 2 1, count := fieldLe bs 4 2, a := fieldLe bs 8 4,
    h := fieldLe bs 12 4, d := fieldLe bs 16 4 }

/-- U of Table 9.7. -/
def EngineDesc.units (d : EngineDesc) : Nat :=
  if d.eng == 3 && d.mode == 1 then 2 * d.count else if d.eng == 3 && d.mode == 2 then 67 * d.count else d.count

/-- Output lines of Table 9.7. -/
def EngineDesc.lines (d : EngineDesc) : Nat :=
  if d.eng == 3 && d.mode == 0 then 2 * d.count else if d.eng == 3 && d.mode == 2 then 64 * d.count else d.count

/-- An HBM location as bank, row and column (R255). -/
def hbmLoc (x : Nat) : Nat × Nat × Nat := (bitsN x 29 24, bitsN x 23 10, bitsN x 9 6)
/-- Whether an HBM location keeps its zero bits and its row limit. -/
def hbmLocOk (x : Nat) : Bool := x < 2 ^ 30 && x % 64 == 0 && bitsN x 23 10 ≤ 12287
/-- An L2 location as cluster and line. -/
def l2Loc (x : Nat) : Nat × Nat := (bitsN x 31 27, bitsN x 26 10)
/-- Whether an L2 location with `n` lines is permitted. -/
def l2LocOk (x n : Nat) : Bool := x % 1024 == 0 && bitsN x 31 27 ≤ 19 && bitsN x 26 10 + n ≤ 131072

/-- R255, R257: whether launch accepts a descriptor for a command of engine `eng` (else 0x4C). -/
def engineDescOk (eng : Nat) (bs : Bytes) : Bool :=
  let d := engineDesc bs
  let big := d.eng == 3 && d.mode == 2
  let h := hbmLoc d.h
  d.eng == eng && fieldLe bs 3 1 == 0 && fieldLe bs 6 2 == 0 && fieldLe bs 20 8 == 0 && fieldLe bs 28 4 == 0 && d.pch ≤ 63 &&
    1 ≤ d.count && d.count ≤ (if big then 16 else 256) &&
    d.mode ≤ (if eng == 1 then 0 else if eng == 2 then 1 else 2) &&
    (if eng == 3 then d.a == 0 else l2LocOk d.a (if eng == 1 then (4 * d.count + 63) / 64 else d.count)) &&
    (if eng == 1 then d.h == 0 else hbmLocOk d.h && h.2.1 + (h.2.2 + d.units - 1) / 16 ≤ 12287) && l2LocOk d.d d.lines

/-- The address of unit `i` of a range (R255). -/
def unitAddr (k p : Nat) (loc : Nat × Nat × Nat) (i : Nat) : Nat :=
  addressOf { stack := k, pch := p, bank := loc.1, row := loc.2.1 + (loc.2.2 + i) / 16, byte := 64 * ((loc.2.2 + i) % 16) }

/-- Elementwise sum of two lines in format `f`, rounded by `rne` (R256). -/
def sumLines (f : Nat) (a b : Bytes) : Bytes :=
  let w := fmtWidth f
  natLe 64 (packN w (List.zipWith (fun x y => (roundVal f 0 false 0 (fAdd 0 (decodeF f x) (decodeF f y)).1).1)
    (unpackN w (512 / w) (leNat a)) (unpackN w (512 / w) (leNat b))))

/-- The elements of a run of bytes converted from one format to another by `rne`, as lines of 64 bytes. -/
def convertLines (fs fd : Nat) (bs : Bytes) : List Bytes :=
  let n := 8 * bs.length / fmtWidth fs
  let out := (unpackN (fmtWidth fs) n (leNat bs)).map fun x => (roundVal fd 0 false 0 (decodeF fs x)).1
  chunks 64 (natLe (n * fmtWidth fd / 8) (packN (fmtWidth fd) out))

/-- R256: the output lines of an engine from its inputs, and the first of its blocks that breaks R224. -/
def engineOut (d : EngineDesc) (lineAt : Nat → Bytes) (units : List Bytes) : List Bytes × Bool :=
  match d.eng, d.mode with
  | 1, _ => (units, false)
  | 2, m => ((units.zip (List.range units.length)).map fun x => sumLines m (lineAt x.2) x.1, false)
  | _, 0 => (units.flatMap (convertLines 1 0), false)
  | _, 1 => ((chunks 128 units.flatten).flatMap (convertLines 0 1), false)
  | _, _ =>
    let blocks := (chunks 4288 units.flatten).map expandBlock
    (((blocks.takeWhile Option.isSome).flatMap fun b => chunks 64 (b.getD [])), blocks.any Option.isNone)

/-- The locations that a BGATH list names. -/
def gatherList (d : EngineDesc) (lineAt : Nat → Bytes) : List Nat :=
  unpackN 32 d.count (leNat ((List.range ((4 * d.count + 63) / 64)).flatMap lineAt))

/-- R256, R257: an engine command of a descriptor. Its inputs are read at its tick; its lines are written at the end of its
window (`execEngineOutputWrite`). -/
def engineCmd (eng : Nat) (desc : BitVec 12) (s : State) : Out :=
  let d := engineDesc (s.stack.descs.getD desc.toNat [])
  let p := d.pch
  command s fun s => do
    let w := s.wtick
    let x := s.stack
    rule (x.engCmd != some w) 0x27 38 p
    rule x.engineFree 0x2B 46 p
    windowRules (x.pch p) w p
    let lineAt := fun i => s.lineOf (l2Loc d.a).1 ((l2Loc d.a).2 + i)
    let list := gatherList d lineAt
    if eng == 1 && !list.all hbmLocOk then
      Except.error { cause := 0x4C, code := 0, pch := p, word := some desc.toNat }
    else .ok ()
    let addrs := if eng == 1 then list.map fun e => unitAddr s.unit p (hbmLoc e) 0
      else (List.range d.units).map (unitAddr s.unit p (hbmLoc d.h))
    let bad := addrs.find? s.cur.poisoned
    let out := engineOut d lineAt (addrs.map fun a => Mem.read s.cur.hbm a 64)
    let last := x.tick + 119 + 8 * d.units
    let at_ := l2Loc d.d
    let run : EngineRun :=
      { endTick := last, cycle := last / 2, pch := p, desc := desc.toNat,
        out := if bad.isSome then [] else (out.1.zip (List.range out.1.length)).map fun l => (at_.1, at_.2 + l.2, l.1),
        fault := match bad with
          | some a => some (0x70, (placeOf a).row)
          | none => if out.2 then some (0x49, desc.toNat) else none }
    let s := s.onPch p fun c => { c with busy := some (w + 120 + 8 * d.units, .engine) }
    .ok (s.onStack fun x => { x with engines := x.engines ++ [run], engCmd := some w })

/-- R256: BGATH. -/
def execBgath (desc : BitVec 12) (s : State) : Out := engineCmd 1 desc s
/-- R256: BRED. -/
def execBred (desc : BitVec 12) (s : State) : Out := engineCmd 2 desc s
/-- R256: BCONV. -/
def execBconv (desc : BitVec 12) (s : State) : Out := engineCmd 3 desc s

/-- A line of a die's L2 written. -/
def Sys.writeLine (y : Sys) (k cl line : Nat) (bs : Bytes) : Sys :=
  let r := 20 * (k / 2) + cl
  let c := y.cluster r
  y.setCluster r { c with l2 := Mem.write c.l2 (64 * line) bs }

/-- R256, R257: the window of an engine ends in this relative cycle: its lines are written, and a fault found in it is raised at its last
tick. -/
def execEngineOutputWrite (s : State) : Out :=
  match s.stack.engines.find? fun e => e.cycle == s.cur.relCycle s.unit with
  | none => .next s
  | some e =>
    let t := s.onCur fun y => e.out.foldl (fun y l => y.writeLine s.unit l.1 l.2.1 l.2.2) y
    let t := t.onStack fun x => { x with engines := x.engines.erase e }
    match e.fault with
    | none => .next t
    | some (c, w) => .next (stackFault t c [if c == 0x70 then s.unit else stackDetail s.unit e.pch 0, w, 0] e.endTick)

/-! ### Events of a stack -/

/-- R241: the lines that land in this relative cycle are written; an uncorrectable one raises machine check 0x70 at its
tick and writes nothing. -/
def execRdlLineLand (s : State) : Out :=
  let rel := s.cur.relCycle s.unit
  let due := s.stack.lands.filter fun l => match l.bytes with
    | some _ => l.cycle == rel
    | none => l.tick / 2 == rel
  let t := s.onStack fun x => { x with lands := x.lands.filter fun l => !due.contains l }
  .next (due.foldl (fun (t : State) l =>
    match l.bytes with
    | some bs => t.onCur fun y => y.writeLine s.unit l.cluster l.line bs
    | none => stackFault t 0x70 [s.unit, (placeOf l.pa).row, 0] l.tick) t)

/-- R241: the data of WRLs whose burst has ended by the tick in turn is in its column, with its error-correcting code. -/
def execWrlDataWritten (s : State) : Out :=
  let done := s.stack.writes.filter fun f => decide (f.done ≤ s.tickNow)
  let t := s.onStack fun x => { x with writes := x.writes.filter fun f => !done.contains f }
  .next (t.onCur fun y => done.foldl (fun y f => y.hbmWrite f.pa f.bytes) y)

/-- R246: the refreshes of a pseudo-channel that have ended. -/
def execRefreshEnd (pch : BitVec 6) (s : State) : Out :=
  let w := s.tickNow
  .next (s.onPch pch.toNat fun c =>
    let done := (c.banks.filter fun b => match b.2.mode with | .refreshing e => decide (e ≤ w) | _ => false).map (·.1)
    let c := done.foldl (fun c b => c.setBank b { c.bank b with mode := .precharged }) c
    match c.busy with
    | some (e, .refab) => if e ≤ w then { c with busy := none } else c
    | _ => c)

/-- R244: a new split takes effect. -/
def execLturnComplete (pch : BitVec 6) (s : State) : Out :=
  .next (s.onPch pch.toNat fun c =>
    match c.lturn with
    | some (_, n) => { c with split := n, lturn := none }
    | none => c)

/-- R247: after a window every bank is precharged and every rule of Table 9.4 is met. -/
def execServiceWindowEnd (pch : BitVec 6) (s : State) : Out :=
  .next (s.onPch pch.toNat fun c =>
    { c with busy := none, acts := [], cols := [],
             banks := c.banks.map fun b => (b.1, { Bank.reset with debt := b.2.debt }) })

/-- R245: a rise of refresh debt; a bank that would reach +9 raises 0x26 at its tick. -/
def execRefreshDebtTick (s : State) : Out :=
  let x := s.stack
  let n := x.rises + 1
  let isOver := fun p =>
    let c := x.pch p
    (c.banks.length < 64 && decide (9 ≤ n)) || c.banks.any fun b => decide ((9 : Int) ≤ b.2.debt + n)
  let t := s.onStack fun x => { x with rises := n }
  match (List.range 64).find? isOver with
  | none => .next t
  | some p => .next (stackFault t 0x26 [stackDetail s.unit p 36, x.pos, 7332 * n] (7332 * n))

/-! ### Firmware timelines in turn (R251 to R253, R416) -/

/-- R251, R252, R415: the stack in turn passes to the hold timeline. -/
def execStackHandoverToHold (s : State) : Out := .next (s.onStack fun x => x.takenBy .hold (2 * s.cur.hub))

/-- R252, R415, R416: whether firmware may hand a stack back at a tick: it has taken the stack, no window, refresh or other work is in
progress on any pseudo-channel, and the last command of the firmware timeline lies 96 ticks before. A die restarts with the last of its
stacks (log 174). -/
def Stack.handBackOk (x : Stack) (w : Nat) : Bool :=
  x.taken ≤ w && ((List.range 64).all fun p => !x.firmwareBusy p w && (x.firmwareLast p w).all fun l => decide (l + 96 ≤ w)) &&
    x.pchs.all fun c => c.2.free w && !c.2.stepping && c.2.lturn.isNone && c.2.conv.isNone && c.2.banks.all fun b => !b.2.refreshing w

/-- R253: the first tick from `w` at which a bank's row may be opened again: every rule of Table 9.4 that is still pending is kept, and the
ACTs of one pseudo-channel are eight ticks apart, which keeps tRRD and tFAW. -/
def Pch.reopenAt (c : Pch) (b w : Nat) : Nat :=
  let after := fun (t : Option Nat) (d : Nat) => match t with | some t => t + d | none => 0
  let k := c.bank b
  let free := c.acts.foldl (fun t a => Nat.max t (a.1 + 32)) w
  let next := c.banks.foldl (fun t x => if x.2.isOpen then Nat.max t (after x.2.act 8) else t) free
  Nat.max next (Nat.max (after k.pre 28) (Nat.max (after k.act 92) (after k.refpb 180)))

/-- R253: a recorded row, as (pseudo-channel, bank, row), is reopened. -/
def Pch.reopen (w : Nat) (m : SMap Pch) (r : Nat × Nat × Nat) : SMap Pch :=
  let c := SMap.getD m r.1 Pch.reset
  SMap.put m r.1 (c.setBank r.2.1 { c.bank r.2.1 with mode := .opened r.2.2, act := some (c.reopenAt r.2.1 w) })

/-- R253, R416: a stack is handed back at a tick. Rules still pending bind what follows, and the sequencer of a compiled timeline reopens the
recorded rows; where none is left the idle timeline takes the stack. -/
def Stack.handBack (x : Stack) (w : Nat) : Stack :=
  if x.pos < x.prog.length then
    let ended := fun (c : Pch) => match c.busy with
      | some (_, .commit) => c
      | _ => { c with busy := none }
    { x with driver := .compiled, reopen := [], delayed := [],
             pchs := x.reopen.foldl (Pch.reopen w) (x.pchs.map fun c => (c.1, ended c.2)) }
  else x.takenBy .idle w

/-- R253: whether a stack has been handed back, and the last of the ACTs that reopen its rows lies 92 ticks before `w`. -/
def Stack.handed (x : Stack) (w : Nat) : Bool :=
  x.driver != .hold && x.driver != .selfRefresh &&
    x.pchs.all fun c => c.2.banks.all fun b => !b.2.isOpen || apart w 92 b.2.act

/-- R416: STACK_HAND_BACK. A stack in self-refresh, as an uncore reset leaves it (R254), passes to the idle timeline when firmware takes it
up (log 143). -/
def execStackHandBack (s : State) : Out :=
  let w := 2 * s.cur.hub
  .next (s.onStack fun x => if x.driver == .selfRefresh then x.takenBy .idle w else x.handBack w)

end Sys2Proof.Machine
end

