-- ==== Sys2Proof/Machine/NearBank.lean ====
section
/-! DEFINITION. The near-bank units: the seven words of a channel program (R258, R261, R262), the start and the end of an
issue (R260, R261), and the end of a commit (R263). The unit of a word is 64 times the stack plus the pseudo-channel. -/

namespace Sys2Proof.Machine

/-- The sixteen banks of a layer group. -/
def groupBanks (lg : Nat) : List Nat := (List.range 16).map fun j => 16 * lg + j

/-- A bank's near-bank unit. -/
def Pch.nbu (c : Pch) (b : Nat) : NbUnit := SMap.getD c.units b NbUnit.reset
/-- The pseudo-channel with a bank's near-bank unit replaced. -/
def Pch.setNbu (c : Pch) (b : Nat) (u : NbUnit) : Pch := { c with units := SMap.set NbUnit.reset c.units b u }
/-- A result latch: its sixteen `.f32` lanes, lane 0 lowest (R261). -/
def NbUnit.latch (u : NbUnit) (l : Nat) : BitVec 512 := SMap.getD u.lat l 0
/-- A result latch written. -/
def NbUnit.setLatch (u : NbUnit) (l : Nat) (v : BitVec 512) : NbUnit := { u with lat := SMap.set 0 u.lat l v }

/-- The detail of a near-bank engine fault: stack and pseudo-channel, then the store word (Table 11.5). -/
def nbTrouble (k p pc cause : Nat) : Trouble := ⟨cause, [stackDetail k p 0, pc, 0]⟩

/-- The timeline tick in turn of a stack. -/
def State.timelineTick (s : State) (k : Nat) : Nat := 2 * s.cur.relCycle k + s.half

/-- An engine fault of the pseudo-channel `p` of stack `k`: the issue goes no further. -/
def nbFault (s : State) (k p pc cause : Nat) : State :=
  let e := nbTrouble k p pc cause
  let t := s.onStk k fun x => x.setPch p { x.pch p with cur := none }
  stackFault { t with unit := k } e.cause e.detail s.tickNow

/-- What a word does to its pseudo-channel: the store word that follows, the loop counter, and the units. -/
structure NbNext where
  pc    : Nat
  loopc : Nat
  ended : Bool
  chan  : Pch
  deriving DecidableEq, Repr

/-- R261: one word of the issue that steps on the pseudo-channel in turn. It is given the run, the stack and the pseudo-channel
with its state at the start of the step, and answers what holds after it or the cause it raises. -/
def nbWord (f : NbRun → Nat → Nat → Pch → Mem → Except Nat NbNext) (s : State) : Out :=
  let k := s.unit / 64
  let p := s.unit % 64
  let c := (s.cur.stk k).pch p
  match c.cur with
  | none => .next s
  | some r =>
    match f r k p c s.cur.hbm with
    | .error cause => .next (nbFault s k p r.pc cause)
    | .ok x =>
      .next (s.onStk k fun y => y.setPch p
        { x.chan with loopc := x.loopc, cur := some { r with pc := x.pc, n := r.n + 1, ended := x.ended } })

/-- The word that follows in store order. -/
def NbRun.follow (r : NbRun) (c : Pch) (chan : Pch) : NbNext := { pc := r.pc + 1, loopc := c.loopc, ended := false, chan := chan }

/-- R262: the row that a word names, inside the compute frame of the base row. -/
def NbRun.row (r : NbRun) (x : BitVec 14) : Except Nat Nat :=
  let row := r.issue.g0 + x.toNat
  if row / 128 == r.issue.g0 / 128 then .ok row else .error 0x4A

/-- R262: the step that a word names. -/
def nbStep (c : Pch) (y : BitVec 10) : Except Nat Nat :=
  let n := y.toNat + c.loopc
  if n ≤ 31 then .ok n else .error 0x4A

/-- The sixteen `.bf16` of a step of a row (R233). -/
def stepOf (m : Mem) (k p b row y : Nat) : Bytes :=
  Mem.read m (addressOf { stack := k, pch := p, bank := b, row := row, byte := 32 * y }) 32

/-- R261: NBCAST. -/
def execNbcast (x : BitVec 14) (y : BitVec 10) (s : State) : Out :=
  nbWord (fun r k p c m => do
    let row ← r.row x
    let step ← nbStep c y
    let v : BitVec 256 := BitVec.ofNat 256 (leNat (stepOf m k p (16 * r.issue.lg) row step))
    .ok (r.follow c ((groupBanks r.issue.lg).foldl (fun c b => c.setNbu b { c.nbu b with bc := v }) c))) s

/-- R261: one lane of NMAC: the exact product added and rounded once. -/
def nmacLane (acc w b : Nat) : Nat := (roundVal 0 0 false 0 (fFma 0 (decodeF 1 w) (decodeF 1 b) (decodeF 0 acc)).1).1

/-- R261: NMAC. -/
def execNmac (x : BitVec 14) (y : BitVec 10) (l : BitVec 4) (s : State) : Out :=
  nbWord (fun r k p c m => do
    let row ← r.row x
    let step ← nbStep c y
    let bank := fun (c : Pch) (b : Nat) =>
      let u := c.nbu b
      let ws := unpackN 16 16 (leNat (stepOf m k p b row step))
      let lanes := (List.range 16).map fun j =>
        nmacLane ((unpackN 32 16 (u.latch l.toNat).toNat).getD j 0) (ws.getD j 0) ((unpackN 16 16 u.bc.toNat).getD j 0)
      c.setNbu b (u.setLatch l.toNat (BitVec.ofNat 512 (packN 32 lanes)))
    .ok (r.follow c ((groupBanks r.issue.lg).foldl bank c))) s

/-- R261: NACC. The sum is exact before its single rounding. -/
def execNacc (l : BitVec 4) (s : State) : Out :=
  nbWord (fun r _ _ c _ =>
    let bank := fun (c : Pch) (b : Nat) =>
      let u := c.nbu b
      let sum := (unpackN 32 16 (u.latch l.toNat).toNat).foldl (fun a x => a.addVal (decodeF 0 x)) ExactSum.zero
      c.setNbu b (u.setLatch l.toNat (BitVec.ofNat 512 (roundVal 0 0 false 0 sum.value.1).1))
    .ok (r.follow c ((groupBanks r.issue.lg).foldl bank c))) s

/-- R261: NWB. -/
def execNwb (x : BitVec 14) (l : BitVec 4) (s : State) : Out :=
  nbWord (fun r _ _ c _ => do
    let row ← r.row x
    let bank := fun (c : Pch) (b : Nat) =>
      let u := c.nbu b
      c.setNbu b { u with slots := SMap.put u.slots l.toNat (row, l.toNat, natLe 64 (u.latch l.toNat).toNat) }
    .ok (r.follow c ((groupBanks r.issue.lg).foldl bank c))) s

/-- R261: NCLR. -/
def execNclr (l : BitVec 4) (s : State) : Out :=
  nbWord (fun r _ _ c _ =>
    .ok (r.follow c ((groupBanks r.issue.lg).foldl (fun c b => c.setNbu b ((c.nbu b).setLatch l.toNat 0)) c))) s

/-- R261: NLOOP. -/
def execNloop (x : BitVec 14) (y : BitVec 10) (s : State) : Out :=
  nbWord (fun r _ _ c _ =>
    if c.loopc + 1 < x.toNat then .ok { pc := y.toNat, loopc := c.loopc + 1, ended := false, chan := c }
    else .ok { pc := r.pc + 1, loopc := 0, ended := false, chan := c }) s

/-- R261: NEND. -/
def execNend (s : State) : Out :=
  nbWord (fun r _ _ c _ => .ok { pc := r.pc, loopc := c.loopc, ended := true, chan := c }) s

/-- R260: the issue at the head of the queue starts, unless sixteen issues of the stack have started in the last 16 ticks. -/
def execNearBankIssueStart (pch : BitVec 6) (s : State) : Out :=
  let p := pch.toNat
  let u := s.tickNow
  let c := s.stack.pch p
  let recent := s.stack.starts.filter fun t => decide (u < t + 16)
  match c.queue with
  | [] => .next s
  | i :: rest =>
    if 16 ≤ recent.length then
      .next (stackFault (s.onPch p fun c => { c with queue := rest }) 0x23
        [stackDetail s.unit p 41, i.word, s.timelineTick s.unit] u)
    else
      .next ((s.onPch p fun c =>
        { c with queue := rest, loopc := 0, cur := some { issue := i, s := u, pc := i.start, n := 0, ended := false } }).onStack
          fun x => { x with starts := recent ++ [u] })

/-- R260, R261: the issue on the pseudo-channel ends at e = s + 4W. One whose next word would pass store word 255, or be its
65,537th, raises 0x4B where that step would begin. A firmware timeline that waited for the last of them starts its period (R415). -/
def execNearBankIssueEnd (pch : BitVec 6) (s : State) : Out :=
  let p := pch.toNat
  match (s.stack.pch p).cur with
  | none => .next s
  | some r =>
    let t := if r.ended then s.onPch p fun c => { c with cur := none }
      else nbFault s s.unit p (if 255 < r.pc then 255 else r.pc) 0x4B
    .next (t.onStack fun x =>
      if x.driver != .compiled && (x.pch p).queue.isEmpty && SMap.has x.delayed p then
        { x with delayed := SMap.put x.delayed p (Nat.max (x.taken + 8 * p) ((x.pch p).readyAt s.tickNow)) }
      else x)

/-- R263: the slots of a pseudo-channel in ascending bank and slot order, as physical addresses and bytes. -/
def Pch.commits (c : Pch) (k p : Nat) : List (Nat × Bytes) :=
  c.units.flatMap fun u => u.2.slots.map fun l =>
    (addressOf { stack := k, pch := p, bank := u.1, row := l.2.1, byte := 64 * l.2.2.1 }, l.2.2.2)

/-- R263: a commit ends: every slot's bytes are in their rows, latches are zero and slots empty. -/
def execNbfenceCommitEnd (pch : BitVec 6) (s : State) : Out :=
  let p := pch.toNat
  let c := s.stack.pch p
  let t := s.onCur fun y => (c.commits s.unit p).foldl (fun y w => y.hbmWrite w.1 w.2) y
  let cleared := fun (us : SMap NbUnit) =>
    (us.map fun u => (u.1, { u.2 with lat := [], slots := [] })).filter fun u => u.2 != NbUnit.reset
  .next (t.onPch p fun c => { c with busy := none, units := cleared c.units })

end Sys2Proof.Machine
end

