-- ==== Sys2Proof/Machine/ScalarMem.lean ====
section
/-! DEFINITION. The scalar-memory class, majors 0x10 to 0x13 (R113 to R119), and the atomics, FENCE and OCHK of
chapter 10 (R281 to R283). -/

namespace Sys2Proof.Machine

/-- The access size of a width code (R113). -/
def widthSize (w : BitVec 3) : Nat := 2 ^ (w.toNat % 4)

/-- A loaded value: zero-extended for W below 4, sign-extended otherwise (R117, R118). -/
def extendLoad (w size v : Nat) : Word := if w < 4 then BitVec.ofNat 64 v else BitVec.ofInt 64 (sval (8 * size) v)

/-- The effective address of the scalar-memory forms (R114). -/
def State.memEa (s : State) (i : BitVec 8) (w : BitVec 3) (a : BitVec 6) : Word :=
  s.sv a + BitVec.ofInt 64 (s.immS i * widthSize w)

/-- R117: LDS. -/
def execLds (i : BitVec 8) (w : BitVec 3) (a d : BitVec 6) (s : State) : Out :=
  word s fun s => do
    let size := widthSize w
    let off ← scratchEa s.unit size (s.memEa i w a)
    let v := leNat (s.spadRead off size)
    .ok ((s.touch 0x01 off size true true).laterS 4 d (extendLoad w.toNat size v) 0)

/-- R117: STS; its bytes reach the bank in cycle t + 2 (`execScalarStorePerform`). -/
def execSts (i : BitVec 8) (w : BitVec 3) (a d : BitVec 6) (s : State) : Out :=
  word s fun s => do
    let size := widthSize w
    let off ← scratchEa s.unit size (s.memEa i w a)
    .ok (s.later 2 (.store off (natLe size (s.sv d).toNat) 0x02) 0)

/-- R115, R116, R118: LDG. -/
def execLdg (i : BitVec 8) (o : BitVec 1) (w : BitVec 3) (a d : BitVec 6) (s : State) : Out :=
  word s fun s => do
    let size := widthSize w
    let lp ← scratchEa s.unit 64 (s.sv d)
    let ea := s.memEa i w a
    let tgt ← serviceEa s.old s.unit size false ea
    need (s.outstanding < 64) (trouble 0x17)
    .ok (s.issueAccess .load ea tgt size w.toNat 0 0 (some lp) (o == 1) false)

/-- R116, R118: STG. -/
def execStg (i : BitVec 8) (o : BitVec 1) (w : BitVec 3) (a d : BitVec 6) (s : State) : Out :=
  word s fun s => do
    let size := widthSize w
    let ea := s.memEa i w a
    let tgt ← serviceEa s.old s.unit size true ea
    need (s.outstanding < 64) (trouble 0x17)
    .ok (s.issueAccess .store ea tgt size w.toNat (s.sv d) 0 none false (o == 1))

/-- R281: an atomic with its operands read at issue. -/
def atomic (kind : AccessKind) (data data2 : State → Word) (a d : BitVec 6) (o : BitVec 2) (s : State) : Out :=
  word s fun s => do
    let lp ← scratchEa s.unit 64 (s.sv d)
    let ea := s.sv a
    let tgt ← serviceEa s.old s.unit 8 true ea
    need (s.outstanding < 64) (trouble 0x17)
    .ok (s.issueAccess kind ea tgt 8 3 (data s) (data2 s) (some lp) (o.getLsbD 0) (o.getLsbD 1))

/-- R281: AADD. -/
def execAadd (b a d : BitVec 6) (o : BitVec 2) (s : State) : Out := atomic .aadd (·.sv b) (fun _ => 0) a d o s
/-- R281: AMIN. -/
def execAmin (b a d : BitVec 6) (o : BitVec 2) (s : State) : Out := atomic .amin (·.sv b) (fun _ => 0) a d o s
/-- R281: AMAX. -/
def execAmax (b a d : BitVec 6) (o : BitVec 2) (s : State) : Out := atomic .amax (·.sv b) (fun _ => 0) a d o s
/-- R281: AAND. -/
def execAand (b a d : BitVec 6) (o : BitVec 2) (s : State) : Out := atomic .aand (·.sv b) (fun _ => 0) a d o s
/-- R281: AOR. -/
def execAor (b a d : BitVec 6) (o : BitVec 2) (s : State) : Out := atomic .aor (·.sv b) (fun _ => 0) a d o s
/-- R281: AXOR. -/
def execAxor (b a d : BitVec 6) (o : BitVec 2) (s : State) : Out := atomic .axor (·.sv b) (fun _ => 0) a d o s
/-- R281: AXCHG. -/
def execAxchg (b a d : BitVec 6) (o : BitVec 2) (s : State) : Out := atomic .axchg (·.sv b) (fun _ => 0) a d o s
/-- R281: ACAS; the pair B, B + 1 with B even, of which `b` holds the upper five bits. -/
def execAcas (b : BitVec 5) (a d : BitVec 6) (o : BitVec 2) (s : State) : Out :=
  atomic .acas (·.sv (b ++ 0#1)) (·.sv (b ++ 1#1)) a d o s

/-- The result of an atomic on the old value (R281). -/
def atomicNew (kind : AccessKind) (old b b1 : Word) : Word :=
  match kind with
  | .aadd => old + b
  | .amin => if b.slt old then b else old
  | .amax => if old.slt b then b else old
  | .aand => old &&& b
  | .aor => old ||| b
  | .axor => old ^^^ b
  | .axchg => b
  | .acas => if old == b then b1 else old
  | .load => old
  | .store => b

/-- Whether an access lies in the set of a FENCE scope, for a core of die `die` (R282). -/
def inFenceSet (scope die : Nat) (a : Access) : Bool :=
  let space := (a.ea.extractLsb' 61 3).toNat
  let memory := space == 0 || space == 7
  match scope with
  | 0 | 1 | 2 => memory && inHbm a.pa && (placeOf a.pa).stack / 2 == die
  | 3 => memory && inHbm a.pa
  | 4 | 5 => space == 7
  | 6 => (memory && inHbm a.pa) || space == 5
  | 7 => space == 6
  | _ => a.kind != .load && memory && inTier a.pa

/-- R282: FENCE. Every later access of the core waits for the accesses of the set. -/
def execFence (b : BitVec 6) (s : State) : Out :=
  plain s fun s =>
    let ids := (s.ownAccesses.filter (inFenceSet b.toNat (dieOf s.unit))).map (·.id)
    let live := s.cur.accesses.map (·.id)
    s.onMine fun k => { k with fenced := (k.fenced.filter fun i => live.contains i) ++ ids }

/-- R283: OCHK. -/
def execOchk (s : State) : Out :=
  word s fun s => do
    need (s.me.csr.outst == 0) (trouble 0x15)
    .ok s

end Sys2Proof.Machine
end

