-- ==== Sys2Proof/Machine/Service.lean ====
section
/-! DEFINITION. Service accesses after their issue (R118, R247, R248, R275 to R281): when they become pending, which slot
serves them, what they do there and how they land; accesses of hosts and peers; and compressed pages (R280). -/

namespace Sys2Proof.Machine

/-- R11: whether the form has a compute die. -/
def Sys.hasDie (y : Sys) (d : Nat) : Bool := d < 4 && (d == 0 || y.trust.form != 1)
/-- The compute dies of the form. -/
def Sys.present (y : Sys) : List Nat := (List.range 4).filter y.hasDie

/-- R11: whether the form has the memory at an address: a stack of one of its dies, or the N9-M's tier. -/
def Sys.hasMemory (y : Sys) (pa : Nat) : Bool :=
  if inTier pa then y.trust.form == 3 else pa / stackBytes < 2 * y.present.length

/-- R414: whether firmware's own memory work may fall on a run of memory at this boundary: each pseudo-channel that holds a part of it is in
that part of a firmware timeline's period. -/
def Sys.worksOn (y : Sys) (pa n : Nat) : Bool :=
  !inHbm pa || (List.range ((pa % 2 ^ 21 + n + 2 ^ 21 - 1) / 2 ^ 21)).all fun i =>
    let c := placeOf (pa + i * 2 ^ 21)
    (y.stk c.stack).works c.pch (2 * y.hub)

/-- An access by its number. -/
def Sys.access (y : Sys) (id : Nat) : Option Access := y.accesses.find? fun a => a.id == id
/-- The module with an access replaced. -/
def Sys.setAccess (y : Sys) (a : Access) : Sys := { y with accesses := y.accesses.map fun b => if b.id == a.id then a else b }
/-- The module without an access. -/
def Sys.dropAccess (y : Sys) (id : Nat) : Sys := { y with accesses := y.accesses.filter fun b => b.id != id }

/-- The space of an access. -/
def Access.space (a : Access) : Nat := (a.ea.extractLsb' 61 3).toNat
/-- Whether an access performs at a sequencer of this package. -/
def Access.atHbm (a : Access) : Bool := (a.space == 0 || a.space == 7) && inHbm a.pa
/-- Whether an access performs at the capacity tier. -/
def Access.atTier (a : Access) : Bool := a.space == 0 && inTier a.pa
/-- R280: the expansion unit of a compressed page that holds an address: where its 67 granules lie, and the offset in it. -/
def Access.coded (a : Access) : Nat × Nat := (a.base + 4288 * ((a.pa - a.base) / 4096), (a.pa - a.base) % 4096)
/-- The stack and pseudo-channel of an access to HBM; on a compressed page, those of its coded unit. -/
def Access.channel (a : Access) : Nat × Nat :=
  let c := placeOf (if a.cmp then a.coded.1 else a.pa)
  (c.stack, c.pch)

/-- Whether an access has performed: gone, or waiting only for its landing. -/
def Sys.performed (y : Sys) (id : Nat) : Bool :=
  match y.access id with
  | some a => a.result.isSome
  | none => true

/-- R118, R275, R281, R282: whether an access may become pending: everything that orders it has performed, the earlier accesses
of its core to its pseudo-channel are pending already (R278), and tick 2t + 2 has come. -/
def Sys.mayArrive (y : Sys) (a : Access) (now : Nat) : Bool :=
  a.arrived.isNone && a.after.all y.performed && 2 * a.hub + 2 ≤ now &&
    y.accesses.all fun b => !(b.core == a.core && b.id < a.id && b.arrived.isNone && b.channel == a.channel)

/-! ### Landing -/

/-- What the host link returns to the host is recorded. -/
def Sys.replyHost (y : Sys) (r : HostReply) : Sys := { y with hostOut := y.hostOut ++ [r] }

/-- The address of an access's target: a physical one in this module, and for a peer or the host the address of the word itself. -/
def Access.target (a : Access) : Nat := if a.space == 5 || a.space == 6 then a.ea.toNat else a.pa

/-- R281, Table 10.4: the end of an access that came from a core, a peer or the host: its landing and tag, or its answer. A
failed STG is discarded and recorded in the error log. A host read whose bytes are uncorrectable is answered with poison (log 145);
an access of a kernel that its context took with it lands nowhere (R288). -/
def land (s : State) (a : Access) (v : Word) (status : Nat) : State :=
  let v := if status == 0 then v else 0
  let s := s.onCur fun y => y.dropAccess a.id
  match a.core, a.peer with
  | some c, _ =>
    match a.lp with
    | some lp => s.onCur fun y => y.landAnswer c lp a.tag v status
    | none =>
      s.onCur fun y =>
        let y := y.setCore c (y.core c).outDone
        if status == 0 then y else y.hkAdd (hkEntry 0 (dieOf c) a.space status a.target)
  | none, some port =>
    s.onCur fun y => y.sendFlit port { flitOf kindAnswer a.tag with data := natLe 1 status ++ natLe 8 v.toNat }
  | none, none =>
    if a.kind == .load && a.ctx == 0 then s.onCur fun y => y.replyHost (.data a.pa (if status == 0 then a.bytes else List.replicate a.size 0) (status != 0))
    else s

/-! ### Becoming pending -/

/-- The operand bytes of a space-5 request. -/
def requestBytes (a : Access) : Bytes :=
  natLe 1 (match a.kind with
    | .load => 0 | .store => 1 | .aadd => 2 | .amin => 3 | .amax => 4 | .aand => 5 | .aor => 6 | .axor => 7 | .axchg => 8
    | .acas => 9) ++
  natLe 1 a.size ++ natLe 8 (a.ea.toNat % 2 ^ 45) ++ natLe 8 a.data.toNat ++ natLe 8 a.data2.toNat

/-- R267, R275, R279, R367: an access becomes pending where it is served. A space-5 access leaves through the port that leads to
its module, or is lost when none does; a space-6 access in confidential mode completes with status 4, and an atomic that PCIe
does not carry with status 1. -/
def execServiceRequestArrival (id : Nat) (s : State) : Out :=
  match s.cur.access id with
  | none => .next s
  | some a =>
    if !s.cur.mayArrive a s.tickNow then .next s
    else
      let t := s.onCur fun y => y.setAccess { a with arrived := some s.tickNow }
      if a.space == 5 then
        match s.cur.routeTo (a.ea.extractLsb' 45 9).toNat with
        | some p =>
          if (s.cur.port p).usable then
            .next (t.onCur fun y =>
              let y := y.sendFlit p { flitOf kindRequest a.id with data := requestBytes a }
              { y with link := { y.link with remotes := y.link.remotes ++ [{ id := a.id, port := p }] } })
          else .next (land t a 0 3)
        | none => .next (land t a 0 3)
      else if a.space == 6 && s.cur.trust.conf then .next (land t a 0 4)
      else if a.space == 6 && !(a.kind == .load || a.kind == .store || a.kind == .aadd || a.kind == .axchg || a.kind == .acas) then
        .next (land t a 0 1)
      else .next t

/-! ### Service order (R275) -/

/-- The age of an access: a core's counts from its issue, in die, cluster, core and word order; one of a host or a peer from its
arrival, after cores'. -/
def Access.age (a : Access) : List Nat :=
  match a.core with
  | some c => [2 * a.hub, 0, c, a.word, a.id]
  | none => [a.arrived.getD 0, 1, 0, 0, a.id]

/-- The oldest of a list of accesses. -/
def oldest (l : List Access) : Option Access :=
  l.foldl (fun o a => match o with | none => some a | some b => if ageLt a.age b.age then some a else o) none

/-- The 64 KiB block of a compressed page that an access lies in (R280). -/
def Access.block (a : Access) : Nat := a.pa / 65536

/-- R280: whether a slot with `left` slots of its window, itself among them, may begin an access: a compressed read needs 68 slots
and no write of its block pending, and a compressed write is not served in a window. -/
def Sys.servable (y : Sys) (a : Access) (left : Nat) : Bool :=
  !a.cmp ||
    match a.kind with
    | .load => 68 ≤ left && y.accesses.all fun b => !(b.cmp && b.kind == .store && b.arrived.isSome && b.block == a.block)
    | .store => false
    | _ => true

/-- The accesses pending at a pseudo-channel that a slot may begin. -/
def Sys.pendingAt (y : Sys) (k p left : Nat) : List Access :=
  y.accesses.filter fun a => a.arrived.isSome && a.result.isNone && a.atHbm && a.channel == (k, p) && y.servable a left

/-- R248, R275, R280: slot `slot` of a window of `n` slots begins on a pseudo-channel of the stack in turn. -/
def execServiceSlot (pch : BitVec 6) (slot : Nat) (s : State) : Out :=
  let p := pch.toNat
  let c := s.stack.pch p
  let n := match c.busy with
    | some (_, .window _ n) => n
    | _ => 68
  let perform := fun (s : State) (id : Nat) => { s with todo := .ev s.unit (.serviceAccessPerform id) :: s.todo }
  match c.conv with
  | some (id, t) => if t ≤ s.tickNow then .next (perform (s.onPch p fun c => { c with conv := none }) id) else .next s
  | none =>
    match oldest (s.cur.pendingAt s.unit p (n - slot)) with
    | none => .next s
    | some a =>
      if a.cmp && a.kind == .load then .next (s.onPch p fun c => { c with conv := some (a.id, s.tickNow + 8 * 67) })
      else .next (perform s a.id)

/-! ### Performing -/

/-- Whether any column of a run of memory is uncorrectable (Table 10.4, R398). -/
def Sys.badBytes (y : Sys) (pa n : Nat) : Bool := inHbm pa && (columnsIn pa n).any fun u => y.poisoned (64 * u)

/-- R280: the expanded bytes that a compressed read returns, or none when the coded unit breaks R224. -/
def Sys.readCompressed (y : Sys) (a : Access) : Option Bytes :=
  (expandBlock (y.memRead a.coded.1 4288)).map fun b => (b.drop a.coded.2).take a.size

/-- R118, R278, R281: what an access does to plain memory: the value it loads or the old value, its status, and the memory. -/
def Sys.accessMemory (y : Sys) (a : Access) : Word × Nat × Sys :=
  let bs := y.memRead a.pa a.size
  match a.kind with
  | .load => (extendLoad a.width a.size (leNat bs), 0, y)
  | .store => (0, 0, y.memWrite a.pa (if a.bytes.isEmpty then natLe a.size a.data.toNat else a.bytes))
  | k =>
    let old := BitVec.ofNat 64 (leNat bs)
    (old, 0, y.memWrite a.pa (natLe 8 (atomicNew k old a.data a.data2).toNat))

/-- An access that has performed, with the bytes that a host read returns. -/
def Access.done (a : Access) (v : Word) (status : Nat) (bs : Bytes) : Access :=
  { a with result := some (v, status), bytes := if a.core.isNone && a.kind == .load then bs else a.bytes }

/-- R118, R275, R281: an access performs in its slot; called again for one that has performed, it lands (the times of landings are
not architectural). A compressed read checks every column of its coded unit (R398). -/
def execServiceAccessPerform (id : Nat) (s : State) : Out :=
  match s.cur.access id with
  | none => .next s
  | some a =>
    match a.result with
    | some (v, st) => .next (land s a v st)
    | none =>
      let keep := fun (s : State) (v : Word) (st : Nat) (bs : Bytes) => s.onCur fun y => y.setAccess (a.done v st bs)
      if a.cmp && a.kind == .load then
        if s.cur.badBytes a.coded.1 4288 then .next (keep s 0 2 [])
        else
          match s.cur.readCompressed a with
          | some bs => .next (keep s (extendLoad a.width a.size (leNat bs)) 0 bs)
          | none => let f := s.free; .next (keep f.2 f.1 0 (natLe a.size f.1.toNat))
      else if a.cmp then .next (keep s 0 1 [])
      else if s.cur.badBytes a.pa a.size then .next (keep s 0 2 [])
      else
        let r := s.cur.accessMemory a
        .next (keep (s.onCur fun _ => r.2.2) r.1 r.2.1 (s.cur.memRead a.pa a.size))

/-- R269: an access whose target lies in the capacity tier is performed there and lands. -/
def execCapacityTierAccessCompletion (id : Nat) (s : State) : Out :=
  match s.cur.access id with
  | none => .next s
  | some a =>
    if a.atTier && s.cur.hasMemory a.pa then
      let r := s.cur.accessMemory a
      .next (land (s.onCur fun _ => r.2.2) (a.done r.1 r.2.1 (s.cur.memRead a.pa a.size)) r.1 r.2.1)
    else .next s

/-- R279, Table 10.4: the host interface receives the completion of a space-6 access. A load's value is extended as R118 gives. -/
def execHostAccessCompletion (id : Nat) (error : Bool) (data : BitVec 64) (s : State) : Out :=
  match s.cur.access id with
  | none => .next s
  | some a =>
    if a.space == 6 then
      let v := if a.kind == .load then extendLoad a.width a.size (data.toNat % 2 ^ (8 * a.size)) else data
      .next (land s a v (if error then 4 else 0))
    else .next s

/-! ### Host requests (R279, R396) -/

/-- The parts of a host request, by column: address and length. -/
def columns (addr len : Nat) : Nat → List (Nat × Nat)
  | 0 => []
  | n + 1 =>
    if len == 0 then []
    else
      let k := Nat.min len (64 - addr % 64)
      (addr, k) :: columns (addr + k) (len - k) n

/-- R11, R354: whether a run of device addresses lies in memory that the form has. -/
def Sys.hostReaches (y : Sys) (addr len : Nat) : Bool :=
  (inHbm addr || inTier addr) && y.hasMemory addr && (inHbm (addr + len - 1) || inTier (addr + len - 1)) && y.hasMemory (addr + len - 1)

/-- R279: a host request to device memory becomes accesses of at most 64 bytes that perform in ascending order, and a read is answered part
by part. In confidential mode a CXL.mem write is discarded and a CXL.mem read returns ones with poison, and a PCIe memory request completes
with Unsupported Request (R396); by which of the two paths a request came is free (log 145). A request to addresses at which the form has
no memory is unsupported too (log 159). -/
def execHostMemoryRequest (write : Bool) (addr : Nat) (len : Nat) (data : Bytes) (s : State) : Out :=
  if s.cur.trust.conf then
    let t := { s with fresh := s.fresh + 1 }
    if Config.viaPcie s.fresh then .next (t.onCur fun y => y.replyHost (.unsupported addr))
    else .next (if write then t else t.onCur fun y => y.replyHost (.data addr (List.replicate len 0xFF) true))
  else if len != 0 && !s.cur.hostReaches addr len then .next (s.onCur fun y => y.replyHost (.unsupported addr))
  else
    let add := fun (s : State) (c : Nat × Nat) =>
      let before := (s.cur.accesses.filter fun b => b.core.isNone && b.peer.isNone && b.hub == s.cur.hub && b.word == 1).map (·.id)
      let page := (s.cur.ctxs.flatMap fun x => x.2.pages).find? fun p => p.pa ≤ c.1 && c.1 < p.pa + pageSize p.code
      let a : Access :=
        { id := s.cur.nextId, core := none, peer := none, ctx := 0, kind := if write then .store else .load, ea := 0, pa := c.1,
          base := (page.map (·.pa)).getD 0, cmp := (page.map fun p => codeCmp p.code).getD false, size := c.2, width := 3,
          data := 0, data2 := 0, bytes := if write then (data.drop (c.1 - addr)).take c.2 else [], lp := none, tag := 0,
          hub := s.cur.hub, word := 1, acq := false, arrived := none, after := before, result := none }
      s.onCur fun y => { y with accesses := y.accesses ++ [a], nextId := y.nextId + 1 }
    .next ((columns addr len (len + 1)).foldl add s)

/-! ### Compressed pages (R280) -/

/-- A block code of eight-bit codes: 67 granules, every code length 8, each symbol's code first bit first (R223). -/
def flatBlock (unit : Bytes) : Bytes :=
  natLe 4 67 ++ List.replicate 128 0x88 ++ unit.map BitVec.reverse ++ List.replicate (4288 - 132 - unit.length) 0

/-- R280: the coded form in which firmware writes a unit back: any code of R223 that fits its 67 granules. -/
def recoded (n : Nat) (unit : Bytes) : Bytes :=
  let b := Config.recode n unit
  if b.length == 4288 && expandBlock b == some unit then b else flatBlock unit

/-- The bytes of an access written into an expanded unit. -/
def patchUnit (unit : Bytes) (a : Access) : Bytes :=
  let bs := if a.bytes.isEmpty then natLe a.size a.data.toNat else a.bytes
  unit.take a.coded.2 ++ bs ++ unit.drop (a.coded.2 + bs.length)

/-- Table 10.4, R398: whether the coded unit of a write to a compressed page is uncorrectable; the write then fails. -/
def Sys.badUnit (y : Sys) (a : Access) : Bool := y.badBytes a.coded.1 4288

/-- R280: one expansion unit written back: the pending writes that lie in it applied in order, and encoded again. `n` numbers firmware's
choice of a code. A unit that is uncorrectable, or that is no code of R223, stays as it is. -/
def Sys.recodeUnit (y : Sys) (at_ n : Nat) (ws : List Access) : Sys :=
  match if y.badBytes at_ 4288 then none else expandBlock (y.memRead at_ 4288) with
  | some u => y.memWrite at_ (recoded n ((ws.filter fun a => a.coded.1 == at_).foldl patchUnit u))
  | none => y

/-- R280: firmware writes a 64 KiB block of a compressed page back with every pending write applied, in arrival order, and all of its units
encoded again. A write to an uncorrectable unit fails with status 2 (Table 10.4). -/
def execCompressedBlockWriteback (block : Nat) (s : State) : Out :=
  let ws := s.cur.accesses.filter fun a => a.cmp && a.kind == .store && a.arrived.isSome && a.result.isNone && a.block == block
  let ordered := (sortBy (· ≤ ·) (ws.map fun a => a.arrived.getD 0).eraseDups).flatMap fun t => ws.filter fun a => a.arrived == some t
  match ws with
  | [] => .next s
  | a :: _ =>
    let size := ((SMap.get? s.cur.frames a.base).map (·.size)).getD 65536
    let first := (a.pa - a.base) / 65536 * 16
    let units := ((List.range 16).map (first + ·)).filter fun u => decide (4096 * u < size)
    let t := s.onCur fun y => ordered.foldl (fun y a => y.setAccess { a with result := some (0, if s.cur.badUnit a then 2 else 0) }) y
    .next { (t.onCur fun y => units.foldl (fun y u => y.recodeUnit (a.base + 4288 * u) (s.fresh + u - first) ordered) y) with
      fresh := s.fresh + 16 }

end Sys2Proof.Machine
end

