-- ==== Sys2Proof/Machine/Link.lean ====
section
/-! DEFINITION. The link (chapter 17, R444): LOPEN, LSEND, LCHK, LREJOIN, the flits that arrive, and the states of the ports.
The unit of a flit or a port's event is the port. -/

namespace Sys2Proof.Machine

/-- The detail of causes 0x50 to 0x55 (Table 11.5): port and transfer number, peer module, step. -/
def linkTrouble (c port xfer peer step : Nat) : Trouble := ⟨c, [port + 256 * (xfer % 2 ^ 24), peer, step]⟩

/-- Whether a pointer of a link block names `n` granules of the own scratchpad (Tables 17.3, R376). -/
def blockRange (core : Nat) (p : Word) (n : Nat) : Bool :=
  match scratchEa core 64 p with
  | .ok off => 1 ≤ n && n ≤ 4096 && off + 64 * n ≤ 2 ^ 21
  | .error _ => false

/-- Bytes of a block that are all zero. -/
def zeros (bs : Bytes) (off n : Nat) : Bool := ((bs.drop off).take n).all (· == 0)

/-- Whether a BAR is 0 or a reference that LOPEN accepts (Table 17.3). -/
def barOk (v : Word) : Bool := v == 0 || (refRemote v && refExp v != 0 && refOk v)

/-- Table 17.3: the fields of a window block. -/
def windowOk (s : State) (bs : Bytes) : Bool :=
  blockRange s.unit (BitVec.ofNat 64 (fieldLe bs 0 8)) (fieldLe bs 8 4) && fieldLe bs 12 2 ≤ 319 &&
    fieldLe bs 12 2 != s.old.trust.module && fieldLe bs 14 1 ≤ 23 && fieldLe bs 15 1 ≤ 15 && zeros bs 19 1 && zeros bs 22 2 &&
    zeros bs 28 4 && zeros bs 56 8 && barOk (BitVec.ofNat 64 (fieldLe bs 48 8))

/-- Whether the peer of a window is holding, with the step that its hold flit gave for a collective (R375, R444). -/
def Port.peerStep (x : Port) (peer coll : Nat) : Option Nat :=
  if x.peer == some peer then x.peerHold.map fun l => ((l.find? fun c => c.1 == coll).map (·.2)).getD 0 else none

/-- The window-open flit of a window (R371, R444): NGRAN, BAR and whether R377 opens it again. -/
def openFlit (w : LandWin) (win number : Nat) (again : Bool) : SentFlit :=
  { flitOf kindOpen w.xfer with
      dcore := number, win := win, data := natLe 4 w.ngran ++ natLe 8 w.bar.toNat ++ natLe 1 (if again then 1 else 0) }

/-- R374, R444: LOPEN. -/
def execLopen (i : BitVec 12) (a : BitVec 6) (s : State) : Out :=
  word s fun s => do
    let off ← scratchEa s.unit 64 (s.addImm a i)
    let bs := s.spadRead off 64
    let s := s.touch 0x15 off 64 true false
    checked s do
      let w : LandWin := { block := bs, granule := off, tag := s.now % 4096, written := [] }
      let e := fun c => linkTrouble c w.port w.xfer w.peer w.step
      need (windowOk s bs) (e 0x51)
      let port := s.old.port w.port
      need port.usable (e 0x50)
      let n := fieldLe bs 15 1
      need ((SMap.get? s.me.wins n).all fun v => v.state == 3 || v.state == 4 || v.state == 5) (e 0x55)
      let w := match port.peerStep w.peer w.coll with
        | some p => w.change 6 0 p
        | none => w.change 1 0 0
      .ok ((s.landMine fun k => k.putWin n w).onCur fun y => y.sendFlit w.port (openFlit w n s.me.number false))

/-- R374, R376: LSEND. -/
def execLsend (i : BitVec 12) (a : BitVec 6) (s : State) : Out :=
  word s fun s => do
    let off ← scratchEa s.unit 64 (s.addImm a i)
    let bs := s.spadRead off 64
    let s := s.touch 0x15 off 64 true false
    checked s do
      let src : Word := BitVec.ofNat 64 (fieldLe bs 0 8)
      let x : Transfer :=
        { core := s.unit, block := off, start := s.now, src := src.toNat % 2 ^ 21, port := fieldLe bs 14 1, peer := fieldLe bs 12 2,
          dcore := fieldLe bs 20 2, win := fieldLe bs 15 1, xfer := fieldLe bs 16 3, ngran := fieldLe bs 8 4, data := [],
          sent := false, resends := 0 }
      let e := fun c => linkTrouble c x.port x.xfer x.peer 0
      need (blockRange s.unit src x.ngran && x.peer ≤ 319 && x.peer != s.old.trust.module && x.port ≤ 23 && x.win ≤ 15 &&
        zeros bs 19 1 && zeros bs 22 42) (e 0x51)
      need (s.old.port x.port).usable (e 0x50)
      need (s.old.link.known.any fun k => k.peer == x.peer && k.dcore == x.dcore && k.win == x.win && k.xfer == x.xfer &&
        k.ngran == x.ngran) (e 0x51)
      need (s.outstanding < 64) (trouble 0x17)
      .ok (s.onCur fun y => { y with link := { y.link with transfers := y.link.transfers ++ [x] } }).countOut

/-- R374: LCHK. -/
def execLchk (n : BitVec 12) (s : State) : Out :=
  word s fun s => do
    need (n.toNat ≤ 15) (trouble 0x01)
    match SMap.get? s.me.wins n.toNat with
    | none => .error (linkTrouble 0x51 0 0 0 0)
    | some w =>
      let e := fun c => linkTrouble c w.port w.xfer w.peer w.step
      need (w.state != 1 && w.state != 2 && w.state != 6) (e 0x55)
      need (w.state == 3) (e 0x52)
      .ok (s.onMine fun k => { k with wins := SMap.del k.wins n.toNat })

/-- The ports of a mask. -/
def maskPorts (m : Nat) : List Nat := (List.range 24).filter fun p => m.testBit p

/-- R377: a port sends a rejoin flit of a collective and rejoins until the peer has answered it and those before it. -/
def Port.rejoin (x : Port) (coll step : Nat) : Port :=
  { x with state := .rejoining, joins := x.joins ++ [coll] }.send
    { flitOf kindRejoin 0 with data := natLe 2 coll ++ natLe 4 step }

/-- R377, Table 17.1: LREJOIN. It raises 0x50 for the first port of its mask that is not keyed. -/
def execLrejoin (i : BitVec 12) (a : BitVec 6) (s : State) : Out :=
  word s fun s => do
    let off ← scratchEa s.unit 64 (s.addImm a i)
    let bs := s.spadRead off 64
    let s := s.touch 0x15 off 64 true false
    checked s do
      let mask := fieldLe bs 0 4
      let r : Rejoin :=
        { core := s.unit, block := off, start := s.now, coll := fieldLe bs 4 2, step := fieldLe bs 8 4,
          waiting := maskPorts mask, refused := false }
      need (mask != 0 && mask < 2 ^ 24 && zeros bs 6 2 && zeros bs 12 52) (linkTrouble 0x51 0 0 0 r.step)
      need (r.waiting.all fun p => (s.old.port p).usable)
        (match r.waiting.find? fun p => !(s.old.port p).usable with
          | some p => linkTrouble 0x50 p 0 ((s.old.port p).peer.getD 0) r.step
          | none => trouble 0x50)
      need (s.outstanding < 64) (trouble 0x17)
      .ok (s.onCur fun y =>
        let y := r.waiting.foldl (fun y p => y.setPort p ((y.port p).rejoin r.coll r.step)) y
        { y with link := { y.link with rejoins := y.link.rejoins ++ [r] } }).countOut

/-! ### Flits that arrive -/

/-- R369: a flit of the expected SEQ is accepted; one that was asked for again is asked for no longer. With it the port learns how many of
its own flits the peer has acknowledged, in SEQ order: the number is free, since the spec gives acknowledgements no wire form (log 55). -/
def Port.accept (x : Port) (free : Nat) : Port :=
  let came := x.asked == some x.rxSeq
  let x := { x with rxSeq := x.rxSeq + 1, asked := if came then none else x.asked, rxRetries := if came then 0 else x.rxRetries }
  x.acknowledged (((x.replay[Config.pick free % (x.replay.length + 1)]?).map (·.seq)).getD x.txSeq)

/-- The machine with the flit that arrives on the port in turn accepted. -/
def acceptFlit (s : State) : State :=
  { s with fresh := s.fresh + 1 }.onCur fun y => y.setPort s.unit ((y.port s.unit).accept s.fresh)

/-- R366, R368: a flit that arrives on the port in turn: it is accepted and `f` acts on it, where the port has keys to open it.
Every flit is one for this module (log 153). -/
def onFlit (s : State) (f : State → Out) : Out := if (s.cur.port s.unit).usable then f (acceptFlit s) else .next s

/-- R444: the first flit after a rekey that is none of those sent again ends the repetition of window-open flits (log 154). -/
def endRepeats (s : State) : State := s.onCur fun y => y.setPort s.unit { y.port s.unit with resent := [] }

/-- The same for a flit of a kind that is not sent again after a rekey. -/
def onNewFlit (s : State) (f : State → Out) : Out := onFlit s fun s => f (endRepeats s)

/-- Whether a window takes a data flit (R372). -/
def LandWin.takes (w : LandWin) (xfer : Nat) : Bool :=
  w.xfer == xfer && (w.state == 1 || w.state == 2 || w.state == 4 || w.state == 6)

/-- R372: a transfer's last completed step on this module. -/
def Sys.lastStep (y : Sys) (coll : Nat) : Nat := SMap.getD y.link.colls coll 0

/-- R374, R444: FLIT_WINDOW_OPEN: the window is known, and its announcement counts, once: a flit that is sent again after a rekey counts
nothing more. -/
def execFlitWindowOpen (w : WindowOpen) (s : State) : Out :=
  onFlit s fun s =>
    let x := s.cur.port s.unit
    let k : KnownWin :=
      { port := s.unit, peer := w.sender, dcore := w.dcore.toNat, win := w.win.toNat, xfer := w.xfer.toNat, ngran := w.ngran.toNat }
    let others := s.cur.link.known.filter fun x => !(x.peer == k.peer && x.dcore == k.dcore && x.win == k.win)
    let t := s.onCur fun y =>
      let y := y.setPort s.unit { x with opens := x.opens ++ [w], resent := x.resent.erase w }
      { y with link := { y.link with known := others ++ [k] } }
    if x.resent.contains w || w.reopen || !refRemote w.bar || refPhase w.bar == 0 then .next t
    else
      match t.cur.coreNumbered k.dcore (fun _ => true) with
      | some c => .next (contribute t c (refBefore w.bar))
      | none =>
        let l := t.cur.link.announces
        let a : Announce := { core := k.dcore, num := refNum w.bar, phase := refPhase w.bar - 1, exp := refExp w.bar }
        .next (if (l.filter fun x => x.core == k.dcore).length < 64 then
          t.onCur fun y => { y with link := { y.link with announces := l ++ [a] } } else t)

/-- A transfer of this module by port and number. -/
def Sys.transfer (y : Sys) (p xfer : Nat) : Option Transfer := y.link.transfers.find? fun x => x.port == p && x.xfer == xfer

/-- A transfer that is settled: its window is open no longer. -/
def Sys.forget (y : Sys) (x : Transfer) : Sys :=
  { y with link := { y.link with
      known := y.link.known.filter fun k => !(k.peer == x.peer && k.dcore == x.dcore && k.win == x.win && k.xfer == x.xfer) } }

/-- R374: FLIT_ACKNOWLEDGEMENT. -/
def execFlitAcknowledgement (xfer : BitVec 24) (s : State) : Out :=
  onFlit s fun s =>
    match s.cur.transfer s.unit xfer.toNat with
    | some x => .next (s.onCur fun y => (y.forget x).settle x (BitVec.ofNat 64 x.xfer) 0)
    | none => .next s

/-- R373: FLIT_CHECKSUM_FAILURE: the transfer is sent again, at most four times in all. -/
def execFlitChecksumFailure (xfer : BitVec 24) (s : State) : Out :=
  onFlit s fun s =>
    match s.cur.transfer s.unit xfer.toNat with
    | some x =>
      .next (s.onCur fun y =>
        if x.resends < 3 then (y.setTransfer x { x with resends := x.resends + 1 }).sendTransfer x else (y.forget x).settle x 0 2)
    | none => .next s

/-- R372: FLIT_REFUSAL. -/
def execFlitRefusal (xfer : BitVec 24) (s : State) : Out :=
  onFlit s fun s =>
    match s.cur.transfer s.unit xfer.toNat with
    | some x => .next (s.onCur fun y => (y.forget x).settle x 0 4)
    | none => .next s

/-- R367: FLIT_SPACE5_REQUEST. The access performs by R275, or is refused outside the export window. -/
def execFlitSpace5Request (r : PeerRequest) (s : State) : Out :=
  onNewFlit s fun s =>
    let refuse := s.onCur fun y => y.sendFlit s.unit { flitOf kindAnswer r.id with data := natLe 1 4 ++ natLe 8 0 }
    match s.cur.link.exportWin with
    | none => .next refuse
    | some x =>
      if x.size < r.offset + r.size then .next refuse
      else
        let va := x.base + r.offset
        let write := r.kind != .load
        match (s.cur.ctx x.ctx).pages.find? fun p => p.state != .retired && p.va ≤ va && va < p.va + pageSize p.code with
        | none => .next refuse
        | some p =>
          if write && !storeOk p.code then .next refuse
          else
            let a : Access :=
              { id := s.cur.nextId, core := none, peer := some s.unit, ctx := x.ctx, kind := r.kind, ea := 0, pa := p.pa + (va - p.va),
                base := p.pa, cmp := codeCmp p.code, size := r.size, width := 3, data := r.data, data2 := r.data2, bytes := [],
                lp := none, tag := r.id, hub := s.cur.hub, word := 0, acq := false, arrived := none, after := [], result := none }
            .next (s.onCur fun y => { y with accesses := y.accesses ++ [a], nextId := y.nextId + 1 })

/-- R367: FLIT_SPACE5_ANSWER. -/
def execFlitSpace5Answer (id : Nat) (status : BitVec 8) (data : BitVec 64) (s : State) : Out :=
  onNewFlit s fun s =>
    let t := s.onCur fun y => { y with link := { y.link with remotes := y.link.remotes.filter fun r => r.id != id } }
    match s.cur.access id with
    | none => .next t
    | some a =>
      let v := if a.kind == .load then extendLoad a.width a.size (data.toNat % 2 ^ (8 * a.size)) else data
      .next (land t a v status.toNat)

/-! ### The link layer (R369, R370) and the ports (R366, R367, R408) -/

/-- R369: a flit named by a NAK is sent again from the replay buffer with its SEQ and its bytes unchanged; one that fails eight consecutive
retries faults the port. The first NAKs that follow answer flits that were on their way behind it when it was sent again, and tell of no
failed retry (log 57). A port that holds or rejoins goes on doing so (Table 17.1). -/
def Port.resend (x : Port) (seq : Nat) : Port :=
  let retried := fun (r ahead : Nat) =>
    if 8 < r then { x with state := .faulted }
    else { x with state := if x.state == .keyed then .retrying else x.state, nak := some seq, retries := r, nakAhead := ahead,
                  nakAt := x.txSeq }
  if x.nak != some seq then retried 1 (x.txSeq - (seq + 1))
  else if x.nakAhead != 0 then { x with nakAhead := x.nakAhead - 1 }
  else retried (x.retries + 1) (x.txSeq - x.nakAt)

/-- R369: FLIT_NAK: the flits before the named one are acknowledged, and it is sent again. -/
def execFlitNak (seq : BitVec 64) (s : State) : Out :=
  .next (s.onCur fun y =>
    let x := y.port s.unit
    if x.usable then y.setPort s.unit ((x.acknowledged seq.toNat).resend seq.toNat) else y)

/-- R369: a NAK that names the expected SEQ goes out. The expected flit failing once more, after eight retries, faults the port. -/
def Port.askAgain (x : Port) (failed : Bool) : Port :=
  let again := x.asked == some x.rxSeq
  let r := if again then (if failed then x.rxRetries + 1 else x.rxRetries) else 0
  if 8 ≤ r then { x with state := .faulted }
  else { x with state := if x.state == .keyed then .retrying else x.state, asked := some x.rxSeq, rxRetries := r,
                naks := x.naks ++ [x.rxSeq] }

/-- R366, R369: a flit that is not delivered: answered with a NAK, discarded as a duplicate, or the end of the keying. While a port is being
keyed any such error faults it. -/
def execUncorrectableFlit (seq : BitVec 64) (why : FlitTrouble) (s : State) : Out :=
  .next (s.onCur fun y =>
    let x := y.port s.unit
    let next := seq.toNat == x.rxSeq
    let faulted := y.setPort s.unit { x with state := .faulted }
    if x.state == .up then (if why == .duplicate then y else faulted)
    else if !x.usable then y
    else
      match why with
      | .duplicate => y
      | .authentication => if next then faulted else y
      | _ => y.setPort s.unit (x.askAgain next))

/-- R366: PORT_TRAINING_START: firmware trains a port that is down, or again one that has faulted. -/
def execPortTrainingStart (s : State) : Out :=
  .next (s.onCur fun y =>
    let x := y.port s.unit
    if x.state == .down || x.state == .faulted then y.setPort s.unit { x with state := .training } else y)

/-- R408: the key and the salt of a direction: the lower module number is the requester, whose sending is direction 0. -/
def portSecrets (secrets : Bytes) (port direction : Nat) : Bytes × Bytes :=
  let k := hkdf secrets [] (ascii "N9 port" ++ natLe 1 port ++ natLe 1 direction) 36
  (k.take 32, k.drop 32)

/-- R368, R408: a port keyed afresh; both counters restart, and nothing sent under the old keys is sent again unchanged. -/
def Sys.keyed (y : Sys) (p : Nat) (secrets : Bytes) : Port :=
  let x := y.port p
  let d := if y.trust.module < x.peer.getD 0 then 0 else 1
  let tx := portSecrets secrets p d
  let rx := portSecrets secrets p (1 - d)
  { x with state := .keyed, txKey := tx.1, txSalt := tx.2, rxKey := rx.1, rxSalt := rx.2, txSeq := 0, rxSeq := 0, replay := [],
           nak := none, retries := 0, nakAhead := 0, nakAt := 0, asked := none, rxRetries := 0, held := [], ownHold := false,
           peerHold := none, acks := [], opens := [], resent := x.resent ++ x.opens }

/-- A port that has gone down (Table 17.1): nothing is kept for it. -/
def Port.lost (x : Port) : Port :=
  { x with state := .down, replay := [], nak := none, retries := 0, nakAhead := 0, nakAt := 0, asked := none, rxRetries := 0, held := [],
           ownHold := false, peerHold := none, acks := [], joins := [], opens := [], resent := [] }

/-- R366: the PCIe host link changes state. -/
def execHostLinkStateChange (status : HostLinkState) (s : State) : Out :=
  .next (s.onCur fun y => { y with link := { y.link with host := status } })

/-! ### Machine checks found outside a bundle (R19, R292) -/

/-- The kernels that run on some of the dies. -/
def Sys.activeOn (y : Sys) (ds : List Nat) : List Nat :=
  (y.kernels.filter fun x => (x.2.state == .running || x.2.state == .held) && x.2.dies.any ds.contains).map (·.1)

/-- The kernels of some dies that have stopped with a report at this very boundary. -/
def Sys.stoppedHere (y : Sys) (ds : List Nat) : List Nat :=
  (y.kernels.filter fun x => x.2.dies.any ds.contains && x.2.stop.any fun t => t.hub == y.hub && t.report.isSome).map (·.1)

/-- R289, R290: a machine check stops its kernels at the present boundary. Kernels that have stopped at this very boundary take it into
their report. -/
def machineCheck (s : State) (cause die : Nat) (detail : List Nat) (qs ds : List Nat) : State :=
  let r : Report :=
    { rank := 0, late := false, die := die, cluster := 0, core := 0, word := 0, cause := cause, detail := detail, pos := none,
      kernel := qs.head? }
  s.onCur fun y => (y.stopAgain r (y.stoppedHere ds)).stopAt .fault (some r) false qs ds

/-- R19: an uncorrectable die-to-die error: machine check 0x71 on both dies, and the transfers between them are not retried. -/
def execDieLinkUncorrectable (dieA : Nat) (dieB : Nat) (s : State) : Out :=
  let both := (s.cur.activeOn [dieA]).filter (s.cur.activeOn [dieB]).contains
  let qs := if both.isEmpty then s.cur.activeOn [dieA, dieB] else both
  let spoil := fun (c : Nat) (p : Pending) =>
    match p.dest with
    | .die d v _ => if (d == dieA && dieOf c == dieB) || (d == dieB && dieOf c == dieA) then { p with dest := .die d v false } else p
    | _ => p
  let t := s.onCur fun y => { y with cores := y.cores.map fun c => (c.1, { c.2 with pending := c.2.pending.map (spoil c.1) }) }
  .next (machineCheck t 0x71 (Nat.min dieA dieB) [dieA + 4 * dieB, 0, 0] qs [dieA, dieB])

/-- R292: an uncorrectable SRAM error: machine check 0x72. -/
def execSramUncorrectableError (die : Nat) (store : Nat) (address : Nat) (s : State) : Out :=
  .next (machineCheck s 0x72 die [store, address, 0] (s.cur.activeOn [die]) [die])

/-- R292: Gnomon synchronisation lost: machine check 0x73. -/
def execGnomonSyncLost (die : Nat) (s : State) : Out :=
  .next (machineCheck s 0x73 die [die, 0, 0] (s.cur.activeOn [die]) [die])

end Sys2Proof.Machine
end

