-- ==== Sys2Proof/Machine/MatrixMicro.lean ====
section
/-! DEFINITION. The matrix unit's micro-words (R174 to R190, R196, R197). Each step is one cycle of the sequencer of the
core in turn; a micro-word of several cycles executes one row a step. -/

namespace Sys2Proof.Machine

/-- The sequencer of the core in turn, as before this cycle's writes. -/
def State.seq (s : State) : Seq := s.me.mx.seq
/-- The sequencer changed. -/
def State.onSeq (s : State) (f : Seq → Seq) : State := s.onMx fun x => { x with seq := f x.seq }
/-- A parameter copy (R167). -/
def State.par (s : State) (a : BitVec 3) : Word := SMap.getD s.seq.params a.toNat 0
/-- The row of the micro-word in turn. -/
def State.mrow (s : State) : Nat := s.seq.row

/-- R293: a cause that a routine's micro-word raises, with its detail: the routine for a cause of 0x14 to 0x1F, and the routine, the
micro-word and its word of the matrix store for one of 0x41 to 0x4C. -/
def Seq.trouble (q : Seq) (cause : Nat) : Trouble :=
  if 0x14 ≤ cause && cause ≤ 0x1F then ⟨cause, [q.routine, 0, 0]⟩ else ⟨cause, [q.routine + 256 * q.index, q.first + q.index, 0]⟩

/-- R177: a micro-word in a cycle: after its last row the sequencer goes on to index `next`. A fault is raised as of this
cycle; a space, range or alignment failure of its operands is cause 0x45 (R172, Table 11.5). -/
def microWord (s : State) (span next : Nat) (f : State → Except Trouble State) : Out :=
  match f s with
  | .ok t => .next (t.onSeq fun q => if s.mrow + 1 < span then { q with row := s.mrow + 1 } else { q with row := 0, index := next })
  | .error e =>
    .next (engineFault s (s.seq.trouble (if e.cause == 0x32 || e.cause == 0x33 then 0x45 else e.cause)))

/-- The index after the micro-word in turn. -/
def State.after (s : State) : Nat := s.seq.index + 1

/-- A result of the micro-word in turn, landing `lat` cycles later (R192: issued in this cycle). -/
def State.land (s : State) (lat off : Nat) (op : AccOp) (fl : Flags) : State :=
  let g := s.seq.pair.map fun p =>
    { row0 := p.row0, nrows := p.nrows, routine := s.seq.routine, index := s.seq.index,
      store := s.seq.first + s.seq.index : AccGuard }
  let p : Pending := { land := s.now + lat, issue := s.now, word := 0, flags := fl, dest := .acc off op g }
  (s.onMine fun k => { k with pending := k.pending ++ [p] }).onSeq fun q =>
    { q with lastLand := Nat.max q.lastLand (s.now + lat) }

/-- R189: draws of 32 bits. -/
def draw32 (m : Word) : Nat → List Nat × Word
  | 0 => ([], m)
  | n + 1 =>
    let m := nextG m
    let r := draw32 m n
    ((m.extractLsb' 32 32).toNat :: r.1, r.2)

/-- R178: MXNOP. -/
def execMxnop (s : State) : Out := microWord s 1 s.after .ok

/-- R178: MXLDA; it cancels generated rows still pending (R190). -/
def execMxlda (pa : BitVec 3) (fmt : BitVec 4) (cnt : BitVec 16) (imm : BitVec 32) (s : State) : Out :=
  microWord s 1 s.after fun s =>
    let a : AStream :=
      { base := s.par pa, stride := imm.toNat, fmt := fmt.toNat, rows := cnt.toNat, next := 0, gen := 0, genImm := 0 }
    .ok (s.onSeq fun q => { q with astr := some a })

/-- Bytes of a tile (Table 7.5). -/
def tileBytes (cnt fmt : Nat) : Nat :=
  if fmt == 15 then 512 else if cnt == 2 then 49152 else if fmt == 5 then 17408 else 16384

/-- R179: MXLDB starts a tile load; its chunks are read one a cycle from this cycle on (`Core.readChunks`). -/
def execMxldb (pa : BitVec 3) (fmt : BitVec 4) (cnt : BitVec 16) (imm : BitVec 32) (s : State) : Out :=
  microWord s 1 s.after fun s => do
    let ea := s.par pa + imm.setWidth 64
    let n := tileBytes cnt.toNat fmt.toNat
    let off := ea.toNat % 2 ^ 19
    let rank := (ea.extractLsb' 54 7).toNat
    need (ea.extractLsb' 61 3 == 4 && (rank == clusterOf s.unit || rank == 127) && ea.extractLsb' 19 35 == 0) (trouble 0x45)
    need (off % 1024 == 0 && off + n ≤ 2 ^ 19) (trouble 0x45)
    let land := s.now + 8 + (n + 1023) / 1024
    let l : TileLoad :=
      { start := s.now, land := land, off := off, size := n, kind := cnt.toNat, fmt := fmt.toNat,
        pattern := s.me.mx.pattern, got := [], word := 0,
        paired := s.me.mx.seq.pair.isSome }
    .ok ((s.onMx fun x => { x with loads := x.loads ++ [l] }).onSeq fun q => { q with lastLand := Nat.max q.lastLand land })

/-- R179: in a cycle every tile load in flight reads its next chunk of 1024 bytes, as the weight buffer stands before the
cycle's writes (`wbuf`). -/
def readChunks (wbuf : Mem) (now : Nat) (k : Core) : Core :=
  let step := fun (l : TileLoad) =>
    let at_ := 1024 * (now - l.start)
    if l.start ≤ now && at_ < l.size then
      { l with got := Mem.write l.got at_ (Mem.read wbuf (l.off + at_) (Nat.min 1024 (l.size - at_))) }
    else l
  if k.mx.loads.isEmpty then k else { k with mx := { k.mx with loads := k.mx.loads.map step } }

/-! ### The A row and the B tile (R174 to R176, R186, R190) -/

/-- R180, R190: the next A-stream row of `n` bytes: its index, its bytes, and the state with the row consumed. -/
def State.aRow (s : State) (n : Nat) : Except Trouble (Nat × Bytes × State) :=
  match s.seq.astr with
  | none => .error (trouble 0x45)
  | some a => do
    need (a.next < a.rows) (trouble 0x45)
    let used := fun (s : State) (g : Nat) => s.onSeq fun q => { q with astr := some { a with next := a.next + 1, gen := g } }
    if a.gen != 0 then
      let d := draw32 s.me.mx.m (n / 4)
      let bs := d.1.flatMap fun x => natLe 4 (Nat.xor x a.genImm.toNat)
      .ok (a.next, bs, (used s (a.gen - 1)).onMx fun x => { x with m := d.2 })
    else
      let off ← scratchEa s.unit 64 (a.base + BitVec.ofNat 64 (a.next * a.stride))
      need (off + n ≤ 2 ^ 21) (trouble 0x45)
      .ok (a.next, s.spadRead off n, (used s 0).touchBy 0x0E off n s.now (groupUnit 0) true)

/-- R180, R181: an `.f32` scale at a pointer, as one scratchpad access. -/
def State.scaleAt (s : State) (ea : Word) : Except Trouble (Word32 × State) := do
  let off ← scratchEa s.unit 4 ea
  .ok (BitVec.ofNat 32 (leNat (s.spadRead off 4)), s.touchBy 0x0F off 4 s.now (groupUnit 1) true)

/-- The `.f32` 1.0. -/
def oneF32 : Word32 := 0x3F800000

/-- R180: sa of row `i`: 1.0 when SAE = 0. -/
def State.rowScale (s : State) (pb : BitVec 3) (sae : Bool) (i : Nat) : Except Trouble (Word32 × State) :=
  if sae then s.scaleAt (s.par pb + BitVec.ofNat 64 (4 * i)) else .ok (oneF32, s)

/-- Rows of 128 of a list. -/
def rowsOf (w : Nat) : Nat → List Nat → List (List Nat)
  | 0, _ => []
  | n + 1, xs => xs.take w :: rowsOf w n (xs.drop w)

/-- The stored rows of a tile's bytes: `n` rows of 128 elements of width `w`, from a byte offset. -/
def tileRows (b : BTile) (off n w : Nat) : List (List Nat) :=
  rowsOf 128 n (unpackN w (128 * n) (leNat (Mem.read b.bytes off (16 * n * w))))

/-- R186: the two dense positions of a group that a nibble selects. -/
def patternPair (v : Nat) : Nat × Nat :=
  match v % 6 with
  | 0 => (0, 1) | 1 => (0, 2) | 2 => (0, 3) | 3 => (1, 2) | 4 => (1, 3) | _ => (2, 3)

/-- R186: the 128 selected positions of a pattern. -/
def selected (p : BitVec 256) : List Nat :=
  (List.range 64).flatMap fun g =>
    let q := patternPair (p.extractLsb' (4 * g) 4).toNat
    [4 * g + q.1, 4 * g + q.2]

/-- The exact sums of 128 columns with one more A element and its row of B elements joined. -/
def dotStep (acc : List ExactSum) (a : FVal) (bs : List FVal) : List ExactSum := List.zipWith (fun s b => s.addProd a b) acc bs

/-- R47: the exact sums of 128 columns of one group. -/
def dotRows (as : List FVal) (rows : List (List FVal)) : List ExactSum :=
  (as.zip rows).foldl (fun acc x => dotStep acc x.1 x.2) (List.replicate 128 ExactSum.zero)

/-- R47: P := round(S · sa · sb, f32, rne); a zero S gives +0. An infinite S with a zero scale, and a zero S with an infinite or NaN
scale, are invalid products by R33 and give NaN (log 131). -/
def promote (sa sb : Word32) (x : ExactSum) : Nat × Flags :=
  let v := x.value
  let p := fMul v.1 (decodeF 0 sa.toNat)
  let q := fMul p.1 (decodeF 0 sb.toNat)
  let w := if v.1.isZero && q.1.isZero then .fin false 0 0 else q.1
  let r := roundVal 0 0 false 0 w
  (r.1, v.2 ||| p.2 ||| q.2 ||| r.2)

/-- R174: whether a tile's kind is one that Table 7.4 lists for an MXMAC format. -/
def tileFits (b : BTile) (fmt : Nat) : Bool :=
  b.present &&
    match fmt with
    | 3 | 4 => (b.fmt == 3 || b.fmt == 4) && (b.kind == 0 || b.kind == 1)
    | f => b.kind == 0 && b.fmt == f

/-- Table 7.4: A row bytes of MXMAC. -/
def aRowBytes (b : BTile) (fmt : Nat) : Nat := if fmt == 5 then 136 else if b.kind == 1 then 256 else 128

/-- R180 with Table 7.4: the groups of an MXMAC row with floating accumulators: for each group its 128 P values and their
flags. -/
def macGroups (b : BTile) (fmt : Nat) (row : Bytes) (sa sb0 sb1 : Word32) : List (List (Nat × Flags)) :=
  if fmt == 5 then
    let as := List.zipWith (fun x k => decodeScaled 5 x ((row.getD (128 + k / 32) 0).toNat))
      (unpackN 4 256 (leNat (row.take 128))) (List.range 256)
    let scales := rowsOf 128 8 (unpackN 8 1024 (leNat (Mem.read b.bytes 16384 1024)))
    let rows := ((tileRows b 0 256 4).zip (List.range 256)).map fun x =>
      List.zipWith (decodeScaled 5) x.1 (scales.getD (x.2 / 32) [])
    [(dotRows (as.take 128) (rows.take 128)).map (promote sa sb0), (dotRows (as.drop 128) (rows.drop 128)).map (promote sa sb1)]
  else
    let n := if fmt == 1 then 64 else 128
    let w := if fmt == 1 then 16 else 8
    let xs := unpackN w (8 * row.length / w) (leNat row)
    let as := (if b.kind == 1 then (selected b.pattern).map fun k => xs.getD k 0 else xs).map (decodeF fmt)
    [(dotRows as ((tileRows b 0 n w).map fun r => r.map (decodeF b.fmt))).map (promote sa sb0)]

/-- R48, R180: the exact `.i32` sums of an INT8 row. -/
def macInts (b : BTile) (row : Bytes) : List Int :=
  ((row.map fun x => x.toInt).zip (tileRows b 0 128 8)).foldl
    (fun acc x => List.zipWith (fun s e => s + x.1 * sval 8 e) acc x.2) (List.replicate 128 0)

/-- R180, R185: one row of MXMAC. INT8 ignores SAE and SBE (R174). The tile's kind is checked at each row, so that one which lands
during the MXMAC is checked too (log 132). -/
def execMxmac (pa pb : BitVec 3) (fmt : BitVec 4) (cnt : BitVec 16) (s : State) : Out :=
  microWord s cnt.toNat s.after fun s => do
    let b := s.me.mx.btile
    let q := s.seq
    let off ← accEa s.unit 512 (512 * cnt.toNat) (s.par pa)
    need (q.astr.any fun a => a.fmt == fmt.toNat) (trouble 0x45)
    need (tileFits b fmt.toNat) (trouble 0x45)
    let (i, row, s) ← s.aRow (aRowBytes b fmt.toNat)
    let (sa, s) ← s.rowScale pb (q.sae && fmt.toNat != 8) i
    let kind := if fmt.toNat == 8 then 1 else 0
    let s := s.onSeq fun q => { q with kind := some kind }
    if fmt.toNat == 8 then .ok (s.land 12 (off + 512 * q.row) (.addI32 q.isat (macInts b row)) 0)
    else
      let gs := macGroups b fmt.toNat row sa q.sb0 q.sb1
      .ok (s.land 12 (off + 512 * q.row) (.addF32 (gs.map fun g => g.map (·.1)))
        (gs.foldl (fun fl g => fl ||| joined g) 0))

/-- R181: MXPROM. -/
def execMxprom (pa pb : BitVec 3) (cnt : BitVec 16) (s : State) : Out :=
  microWord s 1 s.after fun s => do
    let sbe := cnt.getLsbD 1
    let set := fun (s : State) (b0 b1 : Word32) => s.onSeq fun q =>
      { q with sae := cnt.getLsbD 0, sbe := sbe, isat := cnt.getLsbD 2, sb0 := b0, sb1 := b1 }
    if sbe then
      let (b0, s) ← s.scaleAt (s.par pa)
      let (b1, s) ← s.scaleAt (s.par pb)
      .ok (set s b0 b1)
    else .ok (set s oneF32 oneF32)

/-- STR of MXSPLIT and MXMOD (R180). -/
def State.strideOf (s : State) (pb : BitVec 3) : Except Trouble Nat := do
  let v := s.par pb
  need (v.extractLsb' 0 16 != 0 && v.extractLsb' 16 48 == 0) (trouble 0x45)
  .ok (v.extractLsb' 0 16).toNat

/-- R180, R182: the accumulator address of row `r` of a strided micro-word; every row's is checked at its start. -/
def State.stridedRow (s : State) (pa : BitVec 3) (str size cnt r : Nat) : Except Trouble Nat := do
  let at_ := fun j => accEa s.unit size size (s.par pa + BitVec.ofNat 64 (64 * str * j))
  need (r != 0 || (List.range cnt).all fun j => match at_ j with | .ok _ => true | .error _ => false) (trouble 0x45)
  at_ r

/-- R182: one row of MXMOD. The FMT of its A stream is not checked (log 134). -/
def execMxmod (pa pb : BitVec 3) (cnt : BitVec 16) (s : State) : Out :=
  microWord s cnt.toNat s.after fun s => do
    let b := s.me.mx.btile
    let q := s.seq
    let str ← s.strideOf pb
    let off ← s.stridedRow pa str 64 cnt.toNat q.row
    need (b.present && b.kind == 0 && b.fmt == 15) (trouble 0x45)
    let (_, row, s) ← s.aRow 64
    let as := unpackN 64 8 (leNat row)
    let bs := rowsOf 8 8 (unpackN 64 64 (leNat (Mem.read b.bytes 0 512)))
    let sums := (as.zip bs).foldl (fun acc x => List.zipWith (fun c e =>
      addmod q.qmod.toNat c (Sys2Proof.mulmod q.qmod.toNat q.qinv.toNat x.1 e)) acc x.2) (List.replicate 8 0)
    .ok ((s.land 12 off (.addMod q.qmod.toNat sums) 0).onSeq fun q => { q with kind := some 2 })

/-- R49, R180: the sums of an MXSPLIT row over its six passes. -/
def splitSums (b : BTile) (row : Bytes) : List ExactSum :=
  let xs := (unpackN 32 64 (leNat row)).map fun x => splitTerms (decodeF 0 x)
  let term := fun m => xs.map fun t => t.getD m (.fin false 0 0)
  let tile := fun m => (tileRows b (16384 * m) 64 16).map fun r => r.map (decodeF 1)
  let pass := fun (acc : List ExactSum) (p : Nat × Nat) =>
    ((term p.1).zip (tile p.2)).foldl (fun acc x => dotStep acc x.1 x.2) acc
  [(0, 0), (0, 1), (1, 0), (0, 2), (1, 1), (2, 0)].foldl pass (List.replicate 128 ExactSum.zero)

/-- R180: a cycle of MXSPLIT: its row is read in the first of three cycles, with the tile of that cycle (log 133). -/
def execMxsplit (pa pb : BitVec 3) (cnt : BitVec 16) (s : State) : Out :=
  microWord s (3 * cnt.toNat) s.after fun s => do
    let b := s.me.mx.btile
    let q := s.seq
    if q.row % 3 != 0 then .ok s
    else
      let str ← s.strideOf pb
      let off ← s.stridedRow pa str 512 cnt.toNat (q.row / 3)
      need (b.present && b.kind == 2 && (q.astr.any fun a => a.fmt == 1)) (trouble 0x45)
      let (_, row, s) ← s.aRow 256
      let ps := (splitSums b row).map (promote oneF32 oneF32)
      .ok ((s.land 14 off (.addF32 [ps.map (·.1)]) (joined ps)).onSeq fun q => { q with kind := some 0 })

/-- R197: one row of MXRED. -/
def execMxred (pa : BitVec 3) (cnt : BitVec 16) (imm : BitVec 32) (s : State) : Out :=
  microWord s cnt.toNat s.after fun s => do
    let q := s.seq
    let check := fun j => accEa s.unit 512 512 (s.par pa + BitVec.ofNat 64 (512 * j))
    need (q.row != 0 || (List.range cnt.toNat).all fun j => match check j with | .ok _ => true | .error _ => false)
      (trouble 0x45)
    let off ← check q.row
    let x := Mem.read s.me.mx.exch (512 * (imm.toNat + q.row)) 512
    match q.kind with
    | none => .error (trouble 0x45)
    | some 0 => .ok (s.land 4 off (.addF32 [unpackN 32 128 (leNat x)]) 0)
    | some 1 => .ok (s.land 4 off (.addI32 q.isat ((unpackN 32 128 (leNat x)).map (sval 32))) 0)
    | some _ => .ok (s.land 4 off (.addMod q.qmod.toNat (unpackN 64 8 (leNat x))) 0)

/-- R197: whether a core starts an MXXCH of `n` rows in this cycle, with its pair in cluster `cl`. -/
def startsXch (k : Core) (cl n : Nat) : Bool :=
  let q := k.mx.seq
  q.st == .paired && q.row == 0 && (q.pair.any fun p => p.cluster == cl) && decide (q.index < q.count) &&
    match decodeMx (SMap.getD k.mx.store (q.first + q.index) mxEndWord) with
    | some (.mxxch _ i) => i.toNat == n
    | _ => false

/-- R197: one row of MXXCH. -/
def execMxxch (pa : BitVec 3) (imm : BitVec 32) (s : State) : Out :=
  microWord s imm.toNat s.after fun s => do
    let q := s.seq
    match q.pair with
    | none => .error (trouble 0x45)
    | some p =>
      let other := partnerCore s.unit p.cluster
      need (q.row != 0 || startsXch (s.old.core other) (clusterOf s.unit % 20) imm.toNat) (trouble 0x1A)
      let at_ := fun j => accEa s.unit 512 512 (s.par pa + BitVec.ofNat 64 (512 * j))
      need (q.row != 0 || (List.range imm.toNat).all fun j => match at_ j with | .ok _ => true | .error _ => false)
        (trouble 0x45)
      let off ← at_ q.row
      let d : Pending :=
        { land := s.now + 16, issue := s.now, word := 0, flags := 0, dest := .exch q.row (Mem.read s.me.mx.acc off 512) }
      .ok ((s.onCore other fun k => { k with pending := k.pending ++ [d] }).onSeq fun q =>
        { q with lastLand := Nat.max q.lastLand (s.now + 16) })

/-- R183: MXLOOP. -/
def execMxloop (pa : BitVec 3) (cnt : BitVec 16) (imm : BitVec 32) (s : State) : Out :=
  let c := SMap.getD s.seq.loops pa.toNat 0
  let again := decide (c + 1 < cnt.toNat)
  microWord s 1 (if again then imm.toNat else s.after) fun s =>
    .ok (s.onSeq fun q => { q with loops := SMap.set 0 q.loops pa.toNat (if again then c + 1 else 0) })

/-- A signed count of 64-byte units (R183). -/
def units64 (x : BitVec 16) : Word := BitVec.ofInt 64 (x.toInt * 64)

/-- R183: MXSTEP. -/
def execMxstep (pa pb : BitVec 3) (imm : BitVec 32) (s : State) : Out :=
  microWord s 1 s.after fun s => .ok (s.onSeq fun q =>
    let m := SMap.set 0 q.params pa.toNat (SMap.getD q.params pa.toNat 0 + units64 (imm.extractLsb' 0 16))
    { q with params := SMap.set 0 m pb.toNat (SMap.getD m pb.toNat 0 + units64 (imm.extractLsb' 16 16)) })

/-- R187: MXSPAR. -/
def execMxspar (pa : BitVec 3) (cnt : BitVec 16) (s : State) : Out :=
  microWord s 1 s.after fun s => do
    let x := s.me.mx
    if cnt.toNat == 0 then
      let off ← scratchEa s.unit 32 (s.par pa)
      let bs := s.spadRead off 32
      .ok ((s.touchBy 0x10 off 32 s.now (groupUnit 0) true).onMx fun x => { x with pattern := BitVec.ofNat 256 (leNat bs) })
    else if x.seeded then
      let d := draw32 x.m 8
      .ok (s.onMx fun x => { x with pattern := BitVec.ofNat 256 (packN 32 d.1), m := d.2 })
    else
      need s.seq.pair.isNone (trouble 0x45)
      need (8 ≤ x.mqueue.length) (trouble 0x46)
      .ok (s.onMx fun y =>
        { y with pattern := BitVec.ofNat 256 (packN 32 ((x.mqueue.take 8).map (·.toNat))), mqueue := y.mqueue.drop 8 })

/-- R190: MXGEN; it replaces the count and the IMM of rows still pending (log 136). -/
def execMxgen (cnt : BitVec 16) (imm : BitVec 32) (s : State) : Out :=
  microWord s 1 s.after fun s => .ok (s.onSeq fun q =>
    { q with astr := q.astr.map fun a => { a with gen := cnt.toNat, genImm := imm } })

/-- R184: MXEND; the sequencer is idle from this cycle. -/
def execMxend (s : State) : Out := microWord s 1 s.after fun s => .ok (s.onSeq fun q => { q with st := .idle })

end Sys2Proof.Machine
end

