-- ==== Sys2Proof/Machine/Streams.lean ====
section
/-! DEFINITION. Streams: VMOVS, major 0x23 OP 3, and the stream class, major 0x30 (R204 to R214). -/

namespace Sys2Proof.Machine

/-- A stream descriptor read by its fields (Tables 8.2 and 8.3). -/
structure StreamDesc where
  sat   : Bool
  rm    : Nat
  tr    : Bool
  dq    : Bool
  exp   : Bool
  lev   : Nat
  sf    : Nat
  tf    : Nat
  rstr  : Nat
  cnts  : List Nat
  strs  : List Int
  deriving DecidableEq, Repr

/-- The fields of a descriptor's 64 bytes. -/
def streamDesc (bs : Bytes) : StreamDesc :=
  let c := fieldLe bs 0 2
  { sat := bitsN c 8 8 == 1, rm := bitsN c 7 5, tr := bitsN c 4 4 == 1, dq := bitsN c 3 3 == 1, exp := bitsN c 2 2 == 1,
    lev := bitsN c 1 0, sf := fieldLe bs 2 1, tf := fieldLe bs 3 1, rstr := fieldLe bs 4 4,
    cnts := (List.range 4).map fun l => fieldLe bs (16 + 12 * l) 4,
    strs := (List.range 4).map fun l => fieldLeS bs (20 + 12 * l) 8 }

/-- STEPS of R208. -/
def StreamDesc.steps (d : StreamDesc) : Nat := d.cnts.foldl (· * ·) 1
/-- E of R208: the elements that one pop delivers. -/
def StreamDesc.e (d : StreamDesc) : Nat := 4096 / fmtWidth d.tf
/-- U of R208: output elements per step. -/
def StreamDesc.u (d : StreamDesc) : Nat := if d.tr then 256 else d.e
/-- TOTAL of R208. -/
def StreamDesc.total (d : StreamDesc) : Nat := (d.steps * d.u + d.e - 1) / d.e
/-- g of R208. -/
def StreamDesc.g (d : StreamDesc) : Nat := Nat.min 64 (2 * fmtWidth d.sf)
/-- Whether the chain converts (R206). -/
def StreamDesc.conv (d : StreamDesc) : Bool := d.tf != d.sf || d.dq
/-- SLOT of R208. -/
def StreamDesc.slot (d : StreamDesc) : Nat := drainSlot d.sf 0 d.exp

/-- R206: whether launch accepts a descriptor (else 0x47). RSTR must be 0 with TR = 0, as Table 8.2 has it (log 167). -/
def streamDescOk (bs : Bytes) : Bool :=
  let d := streamDesc bs
  let ws := fmtWidth d.sf
  let wt := fmtWidth d.tf
  fieldLe bs 0 2 < 512 && d.sf ≤ 15 && d.tf ≤ 15 && d.sf != 7 && d.tf != 7 && fieldLe bs 8 8 == 0 &&
    (d.tr || d.rstr == 0) && d.rm ≤ 4 &&
    (List.range 4).all (fun l =>
      let n := d.cnts.getD l 0
      1 ≤ n && n ≤ 1048576 && (l ≤ d.lev || (n == 1 && d.strs.getD l 0 == 0))) &&
    d.steps ≤ 2 ^ 31 && d.total ≤ 2 ^ 31 &&
    !(d.exp && (d.tr || d.sf == 6 || d.sf == 11 || d.sf == 15 || (3 ≤ d.sf && d.sf ≤ 5 && !d.dq) || wt == 64)) &&
    !(d.dq && (d.sf < 3 || 5 < d.sf || d.tr || 5 < d.tf)) &&
    !(d.conv && !d.dq && (5 < d.sf || 5 < d.tf || 4 < ws / wt)) &&
    !((d.rm != 0 || d.sat) && !d.conv) && !(d.tr && (d.rstr == 0 || d.rstr % d.g != 0))

/-- R208: A(s), the address of a step. -/
def StreamDesc.addr (d : StreamDesc) (base : Word) (st : Nat) : Word :=
  base + BitVec.ofInt 64 (((d.cnts.zip d.strs).foldl
    (fun (x : Int × Nat) c => (x.1 + ((x.2 % c.1 : Nat) : Int) * c.2, x.2 / c.1)) (0, st)).1)

/-- The steps that pop `p` uses: with TR = 1 each with its first and last output offset, else step `p` alone. -/
def StreamDesc.parts (d : StreamDesc) (p : Nat) : List (Nat × Nat × Nat) :=
  if d.tr then
    let q0 := p * d.e
    let q1 := Nat.min (q0 + d.e) (d.steps * 256)
    (List.range ((q1 - 1) / 256 + 1 - q0 / 256)).map fun j =>
      let st := q0 / 256 + j
      (st, Nat.max q0 (256 * st) - 256 * st, Nat.min q1 (256 * st + 256) - 1 - 256 * st)
  else [(p, 0, d.e - 1)]

/-- The byte ranges that one part reads, in its own read order (R209). -/
def StreamDesc.reads (d : StreamDesc) (base : Word) (x : Nat × Nat × Nat) : List (Word × Nat) :=
  let a := d.addr base x.1
  let ws := fmtWidth d.sf
  if d.tr then
    let c0 := x.2.1 / 16
    let n := x.2.2 / 16 + 1 - c0
    (List.range 16).map fun r => (a + BitVec.ofNat 64 (r * d.rstr + c0 * ws / 8), n * ws / 8)
  else if d.exp || d.dq then (List.range (d.e / 128)).map fun k => (a + BitVec.ofNat 64 (k * d.slot), d.slot)
  else [(a, d.e * ws / 8)]

/-- Scratchpad offset of an address whose bits [53:21] are zero. -/
def spadOff (a : Word) : Nat := a.toNat % 2 ^ 21

/-- The first address of a range whose bits [53:21] are not zero. -/
def outsideSpad (x : Word × Nat) : Option Word :=
  if x.1.extractLsb' 21 33 != 0 then some x.1
  else if 2 ^ 21 < spadOff x.1 + x.2 then some (x.1 + BitVec.ofNat 64 (2 ^ 21 - spadOff x.1))
  else none

/-- The elements of one row slot of Table 7.8 as exact values (DQ) or bit patterns (R209, R210). -/
def slotElems (d : StreamDesc) (bs : Bytes) : List (Nat × FVal) :=
  let ws := fmtWidth d.sf
  let sc0 := if d.exp then 16 else drainElems d.sf
  let raw := if d.exp then
      let packed := unpackN ws 128 (leNat (bs.drop (16 + drainScales d.sf)))
      ((List.range 128).foldl (fun (x : List Nat × List Nat) j =>
        if ((bs.getD (j / 8) 0).getLsbD (j % 8)) then (x.1 ++ [x.2.headD 0], x.2.drop 1) else (x.1 ++ [0], x.2))
        ([], packed)).1
    else unpackN ws 128 (leNat bs)
  (raw.zip (List.range 128)).map fun x =>
    (x.1, if d.dq then decodeScaled d.sf x.1 (bs.getD (sc0 + x.2 / 32) 0).toNat else decodeF d.sf x.1)

/-- The elements of one part in output order (R209): with TR = 1 output 16c + r is stored (r, c). -/
def StreamDesc.elems (d : StreamDesc) (bs : List Bytes) : List (Nat × FVal) :=
  let ws := fmtWidth d.sf
  if d.tr then
    let n := (bs.headD []).length * 8 / ws
    let rows := bs.map fun b => unpackN ws n (leNat b)
    (List.range n).flatMap fun c => rows.map fun r => (r.getD c 0, decodeF d.sf (r.getD c 0))
  else if d.exp || d.dq then bs.flatMap (slotElems d)
  else (unpackN ws d.e (leNat (bs.headD []))).map fun x => (x, decodeF d.sf x)

/-- R209: one delivered element and its flags. -/
def StreamDesc.deliver (d : StreamDesc) (x : Nat × FVal) : Nat × Flags :=
  if d.conv then roundVal d.tf d.rm d.sat 0 x.2 else (x.1, 0)

/-- R211: the position of the next pop of a stream in this bundle. -/
def State.popPos (s : State) (z : Nat) (r : ZReg) : Nat := r.pos + s.issue.pops.count z

/-- R211: a stream-class word of the bundle that has written the stream stands over the pop; SSAVE's record takes the
position after the pop. -/
def Core.popped (k : Core) (now z p : Nat) (written : Bool) : Core :=
  if written then
    { k with pending := k.pending.map fun x =>
        match x.dest with
        | .store off bs 0x08 => if x.issue == now then { x with dest := .store off (bs.take 8 ++ natLe 4 p ++ bs.drop 12) 0x08 } else x
        | _ => x }
  else
    match SMap.get? k.z z with
    | some r => { k with z := SMap.put k.z z { r with pos := p } }
    | none => k

/-- R158, R209: VMOVS pops one vector. -/
def execVmovs (n : BitVec 3) (d : BitVec 6) (s : State) : Out :=
  word s fun s =>
    let z := n.toNat
    match SMap.get? s.me.z z with
    | none => .error ⟨0x1C, [z, 0, 0]⟩
    | some r => do
      let sd := streamDesc (SMap.getD s.me.descs r.desc [])
      let p := s.popPos z r
      need (p < sd.total) ⟨0x1C, [z, 0, 0]⟩
      let parts := sd.parts p
      let reads := parts.map (sd.reads r.base)
      match reads.flatten.findSome? outsideSpad with
      | some a => .error (addrTrouble 0x32 a)
      | none =>
        let align := if sd.tr then sd.g else 64
        match (parts.map fun x => sd.addr r.base x.1).find? fun a => a.toNat % align != 0 with
        | some a => .error (addrTrouble 0x33 a)
        | none =>
          let kind := if sd.exp then 2 else 0
          let wrong := fun (x : Word × Nat) =>
            (List.range ((spadOff x.1 + x.2 - 1) / 65536 + 1 - spadOff x.1 / 65536)).any fun j =>
              (s.me.bfmtAt (spadOff x.1 + 65536 * j)).kind != kind
          match reads.flatten.find? wrong with
          | some x => .error (addrTrouble 0x34 x.1)
          | none =>
            let touched := (reads.flatten.zip (List.range reads.flatten.length)).foldl
              (fun (t : State) x => t.touch 0x06 (spadOff x.1.1) x.1.2 true (x.2 == 0)) s
            let es := (reads.flatMap fun l => sd.elems (l.map fun x => s.spadRead (spadOff x.1) x.2)).map sd.deliver
            let v := BitVec.ofNat 4096 (packN (fmtWidth sd.tf) (es.map (·.1)))
            let t := touched.laterV 2 (s.me.physv d.toNat) v (BitVec.allOnes 4096) (joined es)
            let t := t.onMine fun k => k.popped s.now z (p + 1) (s.issue.zset == some z)
            .ok { t with issue := { t.issue with pops := t.issue.pops ++ [z] } }

/-- A stream register changed by a stream-class word, from the next cycle (R211). -/
def State.setZ (s : State) (z : Nat) (r : Option ZReg) : State :=
  let t := s.onMine fun k => { k with z := match r with | some r => SMap.put k.z z r | none => SMap.del k.z z }
  { t with issue := { t.issue with zset := some z } }

/-- Cause 0x47 with the descriptor's number (Table 11.5). -/
def streamTrouble (d : Nat) : Trouble := ⟨0x47, [0, d % 2 ^ 32, 0]⟩

/-- R212: SBIND. -/
def execSbind (i : BitVec 12) (a : BitVec 6) (z : BitVec 3) (s : State) : Out :=
  word s fun s => do
    let _ ← scratchEa s.unit 64 (s.sv a)
    need (i.toNat ≤ 63 && SMap.has s.me.descs i.toNat) (streamTrouble i.toNat)
    .ok (s.setZ z.toNat (some { desc := i.toNat, base := s.sv a, pos := 0 }))

/-- R212: SUNBIND. -/
def execSunbind (z : BitVec 3) (s : State) : Out := plain s fun s => s.setZ z.toNat none

/-- TOTAL of a descriptor of the core in turn. -/
def State.totalOf (s : State) (d : Nat) : Nat := (streamDesc (SMap.getD s.me.descs d [])).total

/-- R212: SSEEK. -/
def execSseek (i : BitVec 12) (a : BitVec 6) (z : BitVec 3) (s : State) : Out :=
  word s fun s =>
    match SMap.get? s.me.z z.toNat with
    | none => .error ⟨0x1C, [z.toNat, 0, 0]⟩
    | some r => do
      let pos := (s.addImm a i).toNat
      need (pos ≤ s.totalOf r.desc) (streamTrouble r.desc)
      .ok (s.setZ z.toNat (some { r with pos := pos }))

/-- The record of a stream register (Table 8.5). -/
def streamRecord : Option ZReg → Bytes
  | some r => natLe 8 r.base.toNat ++ natLe 4 r.pos ++ natLe 1 r.desc ++ [1, 0, 0]
  | none => List.replicate 16 0

/-- R213: SSAVE; its record is written in cycle t + 2 (`execStreamRecordWrite`). -/
def execSsave (i : BitVec 12) (a : BitVec 6) (z : BitVec 3) (s : State) : Out :=
  word s fun s => do
    let off ← scratchEa s.unit 16 (s.addImm a i)
    let t := s.later 2 (.store off (streamRecord (SMap.get? s.mine.z z.toNat)) 0x08) 0
    .ok (t.setZ z.toNat none)

/-- R213: what SLOAD makes of a record: unbound, or a binding, or 0x47. -/
def loadRecord (s : State) (bs : Bytes) : Except Trouble (Option ZReg) :=
  let v := fieldLe bs 13 1
  let d := fieldLe bs 12 1
  let base : Word := BitVec.ofNat 64 (fieldLe bs 0 8)
  let pos := fieldLe bs 8 4
  let bad := streamTrouble d
  if v == 0 then do
    need (leNat bs == 0) bad
    .ok none
  else do
    need (v == 1 && fieldLe bs 14 2 == 0 && SMap.has s.me.descs d) bad
    need (match scratchEa s.unit 64 base with | .ok _ => true | .error _ => false) bad
    need (pos ≤ s.totalOf d) bad
    .ok (some { desc := d, base := base, pos := pos })

/-- R213: SLOAD. Its bank access precedes the checks of the record. -/
def execSload (i : BitVec 12) (a : BitVec 6) (z : BitVec 3) (s : State) : Out :=
  word s fun s => do
    let off ← scratchEa s.unit 16 (s.addImm a i)
    let t := s.touch 0x07 off 16 true true
    match loadRecord s (s.spadRead off 16) with
    | .ok r => .ok (t.setZ z.toNat r)
    | .error e => .ok (takeFault t e)

end Sys2Proof.Machine
end

