-- ==== Sys2Proof/Machine/Object.lean ====
section
/-! DEFINITION. The kernel object: its file (R94, R95), its timing sections (R316 to R320), and checks 1 to 4 of Table 13.6.
The byte forms that the spec does not give are in log 18. -/

namespace Sys2Proof.Machine

/-! ### The file -/

/-- One entry of the section table, or none when it breaks Table 4.11. -/
def sectionAt (bs : Bytes) (off : Nat) : Option Section :=
  let o := fieldLe bs (off + 8) 8
  let n := fieldLe bs (off + 16) 8
  let t := fieldLe bs off 2
  if fieldLe bs (off + 6) 2 == 0 && o % 64 == 0 && o + n ≤ bs.length && 1 ≤ t && t ≤ 0x0D then
    some { type := t, u0 := fieldLe bs (off + 2) 1, u1 := fieldLe bs (off + 3) 1, u2 := fieldLe bs (off + 4) 1,
           u3 := fieldLe bs (off + 5) 1, data := (bs.drop o).take n }
  else none

/-- The type and unit tuple of a section. -/
def Section.key (s : Section) : List Nat := [s.type, s.u0, s.u1, s.u2, s.u3]

/-- R94, R95: the sections of a file, or none when it is malformed. -/
def parseObject (bs : Bytes) : Option (List Section) :=
  let n := fieldLe bs 6 2
  let o := fieldLe bs 8 8
  if 64 ≤ bs.length && fieldLe bs 0 4 == 0x4F4B4A47 && fieldLe bs 4 2 == 1 && 1 ≤ n && n ≤ 4096 && o % 64 == 0 &&
      o + 24 * n ≤ bs.length && ((bs.drop 16).take 48).all (· == 0) then
    match (List.range n).mapM fun i => sectionAt bs (o + 24 * i) with
    | some l => if (l.map Section.key).eraseDups.length == l.length then some l else none
    | none => none
  else none

/-- The data of a section. -/
def sectionData (l : List Section) (type u0 u1 u2 : Nat) : Option Bytes :=
  (l.find? fun s => s.type == type && s.u0 == u0 && s.u1 == u1 && s.u2 == u2).map (·.data)

/-- The kernel description (Table 13.1). -/
def descOf (l : List Section) : Bytes := (sectionData l 1 0 0 0).getD []
/-- DENSITY. -/
def densityOf (l : List Section) : Nat := fieldLe (descOf l) 32 4
/-- NLDIE. -/
def nldieOf (l : List Section) : Nat := fieldLe (descOf l) 36 1
/-- HOLDLIM in µs. -/
def holdlimOf (l : List Section) : Nat := fieldLe (descOf l) 40 4
/-- NSTEP. -/
def nstepOf (l : List Section) : Nat := fieldLe (descOf l) 44 4

/-- The die masks of the variants (Table 13.2). -/
def masksOf (l : List Section) : List Nat := (List.range 4).map fun v => fieldLe ((sectionData l 2 0 0 0).getD []) v 1
/-- The set bits of a die mask, ascending. -/
def diesOfMask (m : Nat) : List Nat := (List.range 4).filter fun d => m.testBit d

/-- A region entry (R318). -/
structure Region where
  base : Nat
  size : Nat
  code : Nat
  init : Nat
  deriving DecidableEq, Repr

/-- The regions of an object. -/
def regionsOf (l : List Section) : List Region :=
  (chunks 32 ((sectionData l 3 0 0 0).getD [])).map fun r =>
    { base := fieldLe r 0 8, size := fieldLe r 8 8, code := fieldLe r 16 8, init := fieldLe r 24 2 }

/-- Step-table entry `n` of a logical die (Table 13.3). -/
def stepEntry (l : List Section) (die n : Nat) : Bytes := (((sectionData l 4 die 0 0).getD []).drop (16 + 32 * n)).take 32
/-- c_n, relative to S. -/
def stepCycle (l : List Section) (n : Nat) : Nat := fieldLe (stepEntry l 0 n) 8 8
/-- The SEAM field of a logical stack for a step point. -/
def stepSeam (l : List Section) (stk n : Nat) : Nat := fieldLe (stepEntry l (stk / 2) n) (2 + 2 * (stk % 2)) 2
/-- The step point of a relative cycle. -/
def stepAt (l : List Section) (rel : Nat) : Option Nat := (List.range (nstepOf l)).find? fun n => stepCycle l n == rel

/-- A live-map record (Table 13.4). -/
structure Live where
  cl    : Nat
  core  : Nat
  cls   : Nat
  first : Nat
  count : Nat
  deriving DecidableEq, Repr

/-- The live map of a step point on a logical die. -/
def liveOf (l : List Section) (die n : Nat) : List Live :=
  let e := stepEntry l die n
  (List.range (fieldLe e 24 4)).map fun i =>
    let r := (((sectionData l 4 die 0 0).getD []).drop (fieldLe e 16 8 + 16 * i)).take 16
    { cl := fieldLe r 0 1, core := fieldLe r 1 1, cls := fieldLe r 2 1, first := fieldLe r 4 4, count := fieldLe r 8 4 }

/-- ENERGY of an interval in µJ (R320). -/
def energyOf (l : List Section) (n : Nat) : Nat := fieldLe ((sectionData l 5 0 0 0).getD []) (16 * n) 8
/-- PEAK of an interval in W. -/
def peakAt (l : List Section) (n : Nat) : Nat := fieldLe ((sectionData l 5 0 0 0).getD []) (16 * n + 8) 4
/-- The highest PEAK of an object. -/
def peakOf (l : List Section) : Nat := ((List.range (nstepOf l)).map (peakAt l)).foldl Nat.max 0

/-- The timeline words of a logical stack (R238). -/
def timelineOf (l : List Section) (stk : Nat) : List Word :=
  match sectionData l 10 stk 0 0 with
  | some bs => wordsOf (fieldLe bs 0 8) ((bs.drop 16).take (8 * fieldLe bs 0 8))
  | none => []
/-- The engine descriptors of a logical stack. -/
def engineDescsOf (l : List Section) (stk : Nat) : List Bytes :=
  match sectionData l 10 stk 0 0 with
  | some bs => (chunks 32 (bs.drop (16 + 8 * fieldLe bs 0 8))).take (fieldLe bs 8 8)
  | none => []
/-- The channel program of a pseudo-channel. -/
def channelOf (l : List Section) (stk p : Nat) : List Word32 :=
  match sectionData l 11 stk p 0 with
  | some bs => (unpackN 32 (bs.length / 4) (leNat bs)).map (BitVec.ofNat 32)
  | none => []
/-- The dictionary records of a cluster: number and bundle (log 18). -/
def dictOf (l : List Section) (die cl : Nat) : List (Nat × BitVec 384) :=
  (chunks 50 ((sectionData l 6 die cl 0).getD [])).map fun r => (fieldLe r 0 2, BitVec.ofNat 384 (fieldLe r 2 48))

/-! ### Check 1: form (R94, R95, R238, R316 to R320) -/

/-- Whether a section's units are those of its type, within the object's logical dies (Table 4.12, R317). -/
def unitsOk (nld : Nat) (s : Section) : Bool :=
  let rest := fun (k : Nat) => [s.u0, s.u1, s.u2, s.u3].drop k |>.all (· == 0)
  match s.type with
  | 4 => s.u0 < nld && rest 1
  | 6 => s.u0 < nld && s.u1 < 20 && rest 2
  | 7 | 8 | 12 => s.u0 < nld && s.u1 < 20 && s.u2 < 8 && rest 3
  | 9 => s.u0 < nld && s.u1 < 20 && s.u2 < 8
  | 10 => s.u0 < 2 * nld && rest 1
  | 11 => s.u0 < 2 * nld && s.u1 < 64 && rest 2
  | 13 => rest 2
  | _ => rest 0

/-- Whether a section's size is one that its type permits. -/
def sizeOk (nstep : Nat) (s : Section) : Bool :=
  let n := s.data.length
  match s.type with
  | 1 => n == 64
  | 2 => n == 8
  | 3 => n % 32 == 0
  | 4 => 16 + 32 * nstep ≤ n
  | 5 => n == 16 * nstep
  | 6 => n % 50 == 0
  | 7 => n % 2 == 0 && n ≤ 262144
  | 8 => n == 8 && fieldLe s.data 0 8 ≤ 65535
  | 10 => 16 ≤ n && n == 16 + 8 * fieldLe s.data 0 8 + 32 * fieldLe s.data 8 8
  | 11 => n % 4 == 0 && n ≤ 1024
  | 12 => n % 64 == 0 && n ≤ 4096
  | _ => true

/-- R316: the kernel description. -/
def kdescOk (bs : Bytes) : Bool :=
  let d := fieldLe bs 32 4
  let h := fieldLe bs 40 4
  let n := fieldLe bs 44 4
  bs.length == 64 && 1 ≤ d && d ≤ 4096 && 1 ≤ fieldLe bs 36 1 && fieldLe bs 36 1 ≤ 4 && fieldLe bs 37 3 == 0 && 1 ≤ h &&
    h ≤ 10000000 && 1 ≤ n && n ≤ 2048 && (bs.drop 48).all (· == 0)

/-- R316: the placement variants. -/
def variantsOk (l : List Section) : Bool :=
  let ms := masksOf l
  fieldLe ((sectionData l 2 0 0 0).getD []) 4 4 == 0 && ms.any (· != 0) &&
    ms.all fun m => m == 0 || (m < 16 && (diesOfMask m).length == nldieOf l)

/-- The number of units in the store of a live-map class (Table 13.4). -/
def liveTotal (cls : Nat) : Nat :=
  match cls with
  | 1 | 2 | 3 => 64 | 4 => 16 | 5 => 32768 | 6 => 2048 | 7 => 8192 | 8 => 128 | 9 => 131072 | 10 => 8 | 11 => 16 | _ => 0

/-- Whether a live-map record keeps Table 13.4. -/
def Live.ok (r : Live) : Bool :=
  r.cl ≤ 19 && (if r.cls == 9 then r.core == 0xFF else r.core ≤ 7) && 1 ≤ r.count && r.first + r.count ≤ liveTotal r.cls

/-- R319: the step table of a logical die. -/
def stepTableOk (l : List Section) (die : Nat) : Bool :=
  match sectionData l 4 die 0 0 with
  | none => false
  | some bs =>
    fieldLe bs 0 4 == nstepOf l && fieldLe bs 4 12 == 0 && stepCycle l 0 == 0 &&
      (List.range (nstepOf l)).all fun n =>
        let e := stepEntry l die n
        fieldLe e 0 2 == n && fieldLe e 6 2 == 0 && fieldLe e 28 4 == 0 && fieldLe e 8 8 == stepCycle l n &&
          (n == 0 || stepCycle l (n - 1) < stepCycle l n) && fieldLe e 24 4 ≤ 65535 &&
          (fieldLe e 24 4 == 0 || fieldLe e 16 8 + 16 * fieldLe e 24 4 ≤ bs.length) &&
          (List.range (fieldLe e 24 4)).all (fun i =>
            let o := fieldLe e 16 8 + 16 * i
            fieldLe bs (o + 3) 1 == 0 && fieldLe bs (o + 12) 4 == 0) &&
          (liveOf l die n).all Live.ok

/-- R318: the region entries; an initial-contents index names a section of type 0x000D no larger than the region. -/
def regionsForm (l : List Section) : Bool :=
  (chunks 32 ((sectionData l 3 0 0 0).getD [])).all (fun r => fieldLe r 26 6 == 0) &&
    (regionsOf l).all fun r =>
      r.init == 0xFFFF || ((sectionData l 13 (r.init % 256) (r.init / 256) 0).any fun bs => decide (bs.length ≤ r.size))

/-- Check 1 of Table 13.6. -/
def formOk (l : List Section) : Bool :=
  kdescOk (descOf l) && l.all (fun s => unitsOk (nldieOf l) s && sizeOk (nstepOf l) s) && variantsOk l && regionsForm l &&
    (sectionData l 5 0 0 0).isSome && (List.range (nldieOf l)).all (stepTableOk l)

/-! ### Check 2: programs -/

/-- R59, R69: the first dictionary record that launch refuses. -/
def dictTrouble (bs : List (Nat × BitVec 384)) : Option Trouble :=
  if bs.any fun r => r.1 == 0 || 8191 < r.1 then some (trouble 0x0A)
  else
    (sortBy (fun a b => a.1 ≤ b.1) bs).findSome? fun r =>
      (validateBundle r.2).map fun e => ⟨e.2, [r.1 + 2 ^ 13 * e.1, 0, 0]⟩

/-- R169: a routine image that launch refuses. A section whose length is not 8 + 8 × COUNT is refused with 0x44 too, the cause of its
header's other defects (log 137). -/
def routineTrouble (n : Nat) (bs : Bytes) : Option Trouble :=
  let h : Word := BitVec.ofNat 64 (fieldLe bs 0 8)
  let start := (h.extractLsb' 0 12).toNat
  let count := (h.extractLsb' 16 13).toNat
  if bs.length < 8 || h &&& 0xFFFFFFFFE000F000 != 0 || count == 0 || 4096 < start + count || bs.length != 8 + 8 * count then
    some ⟨0x44, [n, 0, 0]⟩
  else (firstBadMx count (wordsOf count (bs.drop 8))).map fun j => ⟨0x41, [n + 256 * j, start + j, 0]⟩

/-- Check 2 of Table 13.6 on one section. -/
def programTrouble (s : Section) : Option Trouble :=
  match s.type with
  | 6 => dictTrouble (dictOf [s] s.u0 s.u1)
  | 9 => routineTrouble s.u3 s.data
  | 11 =>
    ((channelOf [s] s.u0 s.u1).findIdx? fun w => (decodeNb w).isNone).map fun j => ⟨0x42, [stackDetail s.u0 s.u1 0, j, 0]⟩
  | 12 => ((chunks 64 s.data).findIdx? fun d => !streamDescOk d).map fun j => ⟨0x47, [0, j, 0]⟩
  | _ => none

/-! ### Check 3: timelines -/

/-- The words of a timeline with their numbers and ticks (R84). -/
def withTicks : Nat → Nat → List Word → List (Nat × Nat × Word)
  | _, _, [] => []
  | j, t, w :: ws => (j, t + cmdDelta w, w) :: withTicks (j + 1) (t + cmdDelta w) ws

/-- The descriptor that an engine command names, with its engine. -/
def engineOf : Instr → Option (Nat × Nat)
  | .bgath d => some (1, d.toNat)
  | .bred d => some (2, d.toNat)
  | .bconv d => some (3, d.toNat)
  | _ => none

/-- R85: whether a command word is legal beside a descriptor table of `n` entries. -/
def cmdWordOk (n : Nat) (w : Word) : Bool :=
  match decodeCmd w with
  | some i => (engineOf i).all fun e => decide (e.2 < n)
  | none => false

/-- R249: whether a pseudo-channel's windows keep the density; `last` is the tick of the final command. -/
def densityOk (d last : Nat) (wins : List Nat) : Bool :=
  match wins with
  | [] => last ≤ d
  | w :: ws => w ≤ d && (List.zip (w :: ws) ws).all (fun x => decide (x.2 ≤ x.1 + d)) && last ≤ (w :: ws).getLast?.getD 0 + d

/-- R262: the first store word at which a channel program, run from a store word, breaks the compute frame of a base row. -/
def nbBreaks (g0 : Nat) (store : List Word32) : Nat → Nat → Nat → Option Nat
  | 0, _, _ => none
  | fuel + 1, pc, c =>
    let out := fun (x : BitVec 14) => (g0 + x.toNat) / 128 != g0 / 128
    let next := fun (bad : Bool) => if bad then some pc else if 255 ≤ pc then none else nbBreaks g0 store fuel (pc + 1) c
    match decodeNb (store.getD pc nbEndWord) with
    | some (.nbcast x y) => next (out x || 31 < y.toNat + c)
    | some (.nmac x y _) => next (out x || 31 < y.toNat + c)
    | some (.nwb x _) => next (out x)
    | some (.nloop x y) =>
      if c + 1 < x.toNat then nbBreaks g0 store fuel y.toNat (c + 1)
      else if 255 ≤ pc then none else nbBreaks g0 store fuel (pc + 1) 0
    | some .nend => none
    | none => none
    | _ => next false

/-- R262: the pseudo-channel and the store word for which the first NBISS of a timeline that launch refuses is refused; `seen` are the
pseudo-channels with an NBLD before. -/
def nbissTrouble (chan : Nat → List Word32) (seen : List Nat) : List (Nat × Nat × Word) → Option (Nat × Nat)
  | [] => none
  | (_, _, w) :: rest =>
    match decodeCmd w with
    | some (.nbld p _ _ _) => nbissTrouble chan (p.toNat :: seen) rest
    | some (.nbiss p _ g st) =>
      match if seen.contains p.toNat then none else nbBreaks g.toNat (chan p.toNat) 65536 st.toNat 0 with
      | some word => some (p.toNat, word)
      | none => nbissTrouble chan seen rest
    | _ => nbissTrouble chan seen rest

/-- R250: whether the SEAMs of a timeline count from 0 and the last command is one. -/
def seamsOk (ws : List (Nat × Nat × Word)) : Bool :=
  let seams := ws.filterMap fun x => match decodeCmd x.2.2 with | some (.seam n) => some n.toNat | _ => none
  seams == List.range seams.length &&
    match ws.getLast? with
    | some x => match decodeCmd x.2.2 with | some (.seam _) => true | _ => false
    | none => false

/-- R319: whether the SEAM fields of a logical stack name SEAMs of its timeline in ascending order; `n` is how many it has. -/
def seamColumnOk (l : List Section) (stk n : Nat) (timeline : Bool) : Bool :=
  let col := (List.range (nstepOf l)).map (stepSeam l stk)
  let real := col.filter (· != 0xFFFF)
  if timeline then (col.drop 1).all (· != 0xFFFF) && real.all (· < n) && (List.zip real (real.drop 1)).all fun x => decide (x.1 ≤ x.2)
  else real.isEmpty

/-- Check 3 of Table 13.6 on a logical stack. -/
def timelineTrouble (l : List Section) (k : Nat) : Option Trouble :=
  let has := (sectionData l 10 k 0 0).isSome
  let words := timelineOf l k
  let descs := engineDescsOf l k
  let ws := withTicks 0 0 words
  let last := (ws.getLast?.map (·.2.1)).getD 0
  let wins := fun p => ws.filterMap fun x => match decodeCmd x.2.2 with
    | some (.svwin q _) => if q.toNat == p then some x.2.1 else none
    | _ => none
  let nseam := (ws.filter fun x => match decodeCmd x.2.2 with | some (.seam _) => true | _ => false).length
  let engine := fun (x : Nat × Nat × Word) => match (decodeCmd x.2.2).bind engineOf with
    | some (e, d) => !engineDescOk e (descs.getD d [])
    | none => false
  let named := (ws.filterMap fun x => ((decodeCmd x.2.2).bind engineOf).map (·.2))
  let spare := (List.range descs.length).find? fun d =>
    !named.contains d && [1, 2, 3].all fun e => !engineDescOk e (descs.getD d [])
  if !has then if seamColumnOk l k 0 false then none else some ⟨0x29, [stackDetail k 0 48, 0, 0]⟩
  else
    match ws.find? fun x => !cmdWordOk descs.length x.2.2 with
    | some x => some ⟨0x20, [stackDetail k 0 32, x.1, x.2.1]⟩
    | none =>
      match ws.find? engine with
      | some x => some ⟨0x4C, [stackDetail k 0 0, x.1, 0]⟩
      | none =>
        match spare with
        | some d => some ⟨0x4C, [stackDetail k 0 0, d, 0]⟩
        | none =>
          match (List.range 64).find? fun p => !densityOk (densityOf l) last (wins p) with
          | some p => some ⟨0x24, [stackDetail k p 47, 0, 0]⟩
          | none =>
            if !seamsOk ws || !seamColumnOk l k nseam true then some ⟨0x29, [stackDetail k 0 48, 0, 0]⟩
            else (nbissTrouble (channelOf l k) [] ws).map fun x => ⟨0x4A, [stackDetail k x.1 0, x.2, 0]⟩

/-- Checks 1 to 4 of Table 13.6, in order. -/
def objectTrouble (l : List Section) : Option Trouble :=
  if !formOk l then some (trouble 0x40)
  else
    match l.findSome? programTrouble with
    | some e => some e
    | none =>
      match (List.range (2 * nldieOf l)).findSome? (timelineTrouble l) with
      | some e => some e
      | none => if 2100 < peakOf l then some (trouble 0x61) else none

/-- Checks 1 to 4 on a file. -/
def fileTrouble (bs : Bytes) : Except Trouble (List Section) :=
  match parseObject bs with
  | none => .error (trouble 0x40)
  | some l =>
    match objectTrouble l with
    | some e => .error e
    | none => .ok l

/-! ### Save areas (R301, R337) -/

/-- The occupied clusters of a logical die (R337). -/
def clustersIn (l : List Section) (die : Nat) : List Nat :=
  (List.range 20).filter fun c => l.any fun s => (s.type == 6 || s.type == 7 || s.type == 9 || s.type == 12) && s.u0 == die && s.u1 == c

/-- The size of a save area (R301). -/
def saveSize (cores clusters stks : Nat) : Nat := 4096 + cores * 2 ^ 22 + clusters * 8912896 + stks * 2 ^ 24

/-- The size of the save area of an object (R301). -/
def saveNeed (l : List Section) : Nat :=
  saveSize (l.filter fun s => s.type == 7).length ((List.range (nldieOf l)).map fun d => (clustersIn l d).length).sum
    (l.filter fun s => s.type == 10).length

end Sys2Proof.Machine
end

