-- ==== Sys2Proof/Machine/HubOps.lean ====
section
/-! DEFINITION. Firmware's shared operations: responses and the configuration digest (R402, R404), frames, mappings and TLBs
(R355 to R362), memory by virtual address, save areas, and the drain budget (R382, R383). -/

namespace Sys2Proof.Machine

/-! ### The digest and responses -/

/-- R402: the digest is extended by an event. -/
def TrustState.extend (t : TrustState) (code ctx : Nat) (data : Bytes) : TrustState :=
  let rec_ := natLe 2 code ++ natLe 2 ctx ++ natLe 4 data.length ++ data
  { t with cd := sha256 (t.cd ++ rec_), cdseq := t.cdseq + 1, log := t.log ++ rec_ }

/-- The digest of the module extended. -/
def Sys.extend (y : Sys) (code ctx : Nat) (data : Bytes) : Sys := { y with trust := y.trust.extend code ctx data }

/-- The failed-cluster mask as 10 bytes (R402). -/
def Sys.failedBytes (y : Sys) : Bytes := natLe 10 y.failed.toNat

/-- R402: the chain begins at a start. -/
def Sys.newChain (y : Sys) : Sys :=
  { y with trust := { y.trust with
      cd := sha256 (ascii "N9-CD" ++ y.trust.fwmeas ++ natLe 1 (if y.trust.conf then 1 else 0) ++ natLe 1 y.trust.form ++ y.failedBytes),
      cdseq := 0, log := [] } }

/-- R397, R403: the SPDM secured message of a session that carries `bs`, enciphered under AES-256-GCM; `n` numbers the messages of the
session. Its form is SPDM's (log 121). -/
def Session.secured (x : Session) (n : Nat) (bs : Bytes) : Bytes :=
  let plain := natLe 2 bs.length ++ bs
  let head := natLe 4 x.id ++ natLe 2 (plain.length + 16)
  let nonce := xorBytes x.iv (natLe 12 n)
  let ct := gcmCrypt x.key nonce plain
  head ++ ct ++ gcmTag x.key nonce head ct

/-- R397: a message as the host link carries it: in a session secured, outside one as it is; in one that has ended nothing travels. -/
def Sys.secured (y : Sys) (session : Nat) (bs : Bytes) : Bytes :=
  if session == 0 then bs
  else
    match y.trust.sessions.find? fun x => x.id == session with
    | some x => x.secured (y.trust.out.filter fun r => r.session == session).length bs
    | none => []

/-- A message that firmware sends. -/
def Sys.answer (y : Sys) (session : Nat) (bs : Bytes) : Sys :=
  { y with trust := { y.trust with out := y.trust.out ++ [{ session := session, bytes := y.secured session bs }] } }

/-- R404: the response to a request: the header of Table 19.4, with the digest as it stands, and a body. -/
def Sys.respond (y : Sys) (verb : Nat) (h : Req) (status : Nat) (body : Bytes) : Sys :=
  y.answer h.session (natLe 2 verb ++ natLe 2 status ++ natLe 4 h.rtag.toNat ++ natLe 8 y.trust.cdseq ++ y.trust.cd ++ body)

/-- R405: whether a power-fail sequence, the wait or the shedding that it ends in, or a replay is under way. -/
def Sys.sequencing (y : Sys) : Bool := y.power.hib.isSome || y.power.waiting || y.power.shed || y.power.manifest == .replaying

/-- R405, R412: whether the request in turn meets the restrictions, or met them when it arrived. -/
def Sys.restricted (y : Sys) : Bool := y.sequencing || y.trust.barred

/-- R412: the requests that firmware serves from its one queue: verbs, host commands, SPDM messages and MCTP requests. -/
def servedByFirmware : Event → Bool
  | .identify .. | .configDigest .. | .createContext .. | .loadKernel .. | .offerPage .. | .releaseRequest .. | .reclaimForce .. | .submit ..
  | .queryQueue .. | .hibernateNow .. | .resumeVerb .. | .attestSession .. | .scrubReset .. | .destroyContext .. | .mapPage .. | .unmapPage ..
  | .setAttr .. | .clearFailed .. | .readSlot .. | .readHk .. | .keyExchange .. | .getMeasurements .. | .unknownVerbRequest ..
  | .algorithmNegotiation .. | .mctpControlMessage .. => true
  | _ => false

/-! ### Frames and mappings -/

/-- The layer group of an HBM address (R234, R364). -/
def layerGroup (pa : Nat) : Nat := pa % stackBytes / 2 ^ 21 / 64 % 4

/-- Whether a frame of a size lies within one row of Table 16.1, on its own alignment (R354, R390). -/
def frameOk (pa size : Nat) : Bool :=
  pa % size == 0 && ((inHbm pa && inHbm (pa + size - 1)) || (inTier pa && pa + size ≤ 0x2BC00000000 && size ≤ 65536))

/-- Table 16.2: reserved bits are zero and RLG is a code of the table. -/
def codeOk (c : Nat) : Bool := c < 2 ^ 16 && !c.testBit 7 && c / 2 ^ 12 % 8 ≤ 4

/-- Table 16.3: the combinations refused for a page with its frame at `pa`. -/
def codeRefused (c : BitVec 16) (pa : Nat) : Bool :=
  (codeCC c && (c.extractLsb' 0 2 != 2 || !codePin c || codeCmp c || codeDD c)) || (codeCmp c && c.extractLsb' 0 2 == 0) ||
    (codeDD c && codePin c) || (inTier pa && (codeCC c || codeCmp c || codeRlg c != 0 || codeDclass c != 0)) ||
    (codeRlg c != 0 && inHbm pa && layerGroup pa + 1 != codeRlg c)

/-- The page of a context that covers an address. -/
def Sys.pageAt (y : Sys) (ctx va : Nat) : Option Page :=
  (y.ctx ctx).pages.find? fun p => p.va ≤ va && va < p.va + pageSize p.code

/-- The module with a context replaced. -/
def Sys.setCtx (y : Sys) (c : Nat) (x : Context) : Sys := { y with ctxs := SMap.put y.ctxs c x }

/-- The module with a page of a context replaced, by its address. -/
def Sys.setPage (y : Sys) (ctx : Nat) (p : Page) : Sys :=
  let x := y.ctx ctx
  y.setCtx ctx { x with pages := x.pages.map fun q => if q.va == p.va then p else q }

/-- The module with a page of a context added. -/
def Sys.addPage (y : Sys) (ctx : Nat) (p : Page) : Sys :=
  let x := y.ctx ctx
  y.setCtx ctx { x with pages := x.pages ++ [p] }

/-- The module with a page of a context removed. -/
def Sys.dropPage (y : Sys) (ctx va : Nat) : Sys :=
  let x := y.ctx ctx
  y.setCtx ctx { x with pages := x.pages.filter fun q => q.va != va }

/-- Whether a range of addresses meets a page of a context. -/
def Sys.overlaps (y : Sys) (ctx va size : Nat) : Bool :=
  (y.ctx ctx).pages.any fun p => p.va < va + size && va < p.va + pageSize p.code

/-- R364: whether an address lies in a layer group that is retired, or from which pages are being moved. -/
def Sys.offline (y : Sys) (pa : Nat) : Bool :=
  inHbm pa && (y.retired.contains (pa / stackBytes, layerGroup pa) ||
    y.retiring.any fun r => r.stack == pa / stackBytes && r.group == layerGroup pa && r.inval.isSome)

/-- Whether the frames of a run are free (Table 16.4), outside retired layer groups (R364). -/
def Sys.isFree (y : Sys) (pa size : Nat) : Bool :=
  y.hasMemory pa && !(y.frames.any fun f => f.1 < pa + size && pa < f.1 + f.2.size) && !y.offline pa

/-- The first free frame from an address on, among those that satisfy a test. -/
def Sys.findFree (y : Sys) (size hi : Nat) (ok : Nat → Bool) (pa : Nat) : Nat → Option Nat
  | 0 => none
  | fuel + 1 =>
    if hi < pa + size then none
    else if !ok pa || y.offline pa then
      y.findFree size hi ok ((pa / 2 ^ 27 + 1) * 2 ^ 27) fuel
    else
      match y.frames.find? fun f => f.1 < pa + size && pa < f.1 + f.2.size with
      | some f => y.findFree size hi ok ((f.1 + f.2.size + size - 1) / size * size) fuel
      | none => some pa

/-- A free frame of HBM of a size, in a layer group when one is asked for. Firmware chooses which: the search begins at a free
choice `n` (log 9). -/
def Sys.freeFrame (y : Sys) (size : Nat) (lg : Option Nat) (n : Nat) : Option Nat :=
  let hi := 2 * y.present.length * stackBytes
  let ok := fun pa => match lg with | some g => layerGroup pa == g | none => true
  let fuel := 8192 + 2 * y.frames.length
  match y.findFree size hi ok (Config.pick n % (hi / size) * size) fuel with
  | some pa => some pa
  | none => y.findFree size hi ok 0 fuel

/-- A free frame of the capacity tier below firmware's own area (R390), which only the N9-M has (R11). -/
def Sys.freeTier (y : Sys) (size : Nat) : Option Nat :=
  if y.trust.form != 3 then none else
  y.findFree size 0x2BC00000000 (fun _ => true) 0x10000000000 (64 + 2 * y.frames.length)

/-- The module with a frame taken. -/
def Sys.takeFrame (y : Sys) (pa size owner : Nat) (st : PageState) (code : BitVec 16) : Sys :=
  { y with frames := SMap.put y.frames pa { size := size, owner := owner, refc := 1, state := st, handle := 0, code := code } }

/-- A frame that loses a mapping: REFC falls, and at 0 the frame passes to scrubbing (R358, R359). -/
def Sys.unref (y : Sys) (pa : Nat) : Sys :=
  match SMap.get? y.frames pa with
  | none => y
  | some f =>
    if 1 < f.refc then { y with frames := SMap.put y.frames pa { f with refc := f.refc - 1 } }
    else { y with frames := SMap.put y.frames pa { f with refc := 0, state := .scrubbing } }

/-! ### TLBs -/

/-- Whether a TLB entry overlaps a range of a context. -/
def TlbEntry.overlaps (e : TlbEntry) (ctx va size : Nat) : Bool := e.ctx == ctx && e.va < va + size && va < e.va + pageSize e.code

/-- Whether a locked entry overlaps a range (R355, R356). -/
def Sys.lockedIn (y : Sys) (ctx va size : Nat) : Bool :=
  y.dies.any fun d => d.2.tlb.any fun e => e.locked != 0 && e.overlaps ctx va size

/-- A die without the entries of a range, and how many its die TLB dropped (R362). -/
def Die.invalidate (d : Die) (ctx va size : Nat) : Die × Nat :=
  let hit := fun (e : TlbEntry) => e.overlaps ctx va size
  ({ d with tlb := d.tlb.filter fun e => !hit e, coreTlbs := d.coreTlbs.map fun c => (c.1, c.2.filter fun e => !hit e) },
   (d.tlb.filter hit).length)

/-- R362: the accesses of a die that were translated through its entries of a range and have not performed. -/
def Sys.through (y : Sys) (die ctx va size : Nat) : List Nat :=
  let d := y.die die
  let l := (d.tlb ++ d.coreTlbs.flatMap (·.2)).filter fun e => e.overlaps ctx va size
  let by_ := fun (a : Access) (e : TlbEntry) => decide (e.va ≤ a.ea.toNat % 2 ^ 54) && decide (a.ea.toNat % 2 ^ 54 < e.va + pageSize e.code)
  (y.accesses.filter fun a =>
    a.result.isNone && a.ctx == ctx && a.space == 0 && a.core.any (fun c => dieOf c == die) && l.any (by_ a)).map (·.id)

/-- The entries of a range that are left on any die go with the mapping. -/
def Sys.invalidate (y : Sys) (ctx va size : Nat) : Sys :=
  { y with dies := y.dies.map fun d => (d.1, (d.2.invalidate ctx va size).1) }

/-- R362: firmware begins an invalidation of its own, under a number: every die of the form owes an acknowledgement (log 177). -/
def Sys.beginInval (y : Sys) (ranges : List (Nat × Nat × Nat)) : Nat × Sys :=
  let v : Inval := { no := y.nextId, ranges := ranges, acks := if ranges.isEmpty then [] else y.present, waits := [] }
  (v.no, { y with invals := y.invals ++ [v], nextId := y.nextId + 1 })

/-- R362: whether an invalidation has ended: every die has acknowledged it, and the accesses through what they dropped have performed. -/
def Sys.invalDone (y : Sys) (no : Nat) : Bool :=
  match y.invals.find? fun v => v.no == no with
  | some v => v.acks.isEmpty && v.waits.all y.performed
  | none => true

/-- The module without an invalidation. -/
def Sys.endInval (y : Sys) (no : Nat) : Sys := { y with invals := y.invals.filter fun v => v.no != no }

/-- R362: a die drops the entries of ranges: the module, how many its die TLB held, and the accesses translated through them that have not
performed. -/
def Sys.dropOn (y : Sys) (die : Nat) (ranges : List (Nat × Nat × Nat)) : Sys × Nat × List Nat :=
  let one := fun (a : Die × Nat) (x : Nat × Nat × Nat) =>
    let d := a.1.invalidate x.1 x.2.1 x.2.2
    (d.1, a.2 + d.2)
  let d := ranges.foldl one (y.die die, 0)
  (y.setDie die d.1, d.2, ranges.flatMap fun x => y.through die x.1 x.2.1 x.2.2)

/-- R362: whether firmware invalidates translations, so that no launch or restore locks entries (log 160). -/
def Sys.tlbBusy (y : Sys) : Bool := (y.pageReqs.any (·.started)) || y.invals.any fun v => !y.invalDone v.no

/-- The entries of a page take its attribute code. -/
def Sys.recode (y : Sys) (ctx va : Nat) (code : BitVec 16) : Sys :=
  let f := fun (e : TlbEntry) => if e.ctx == ctx && e.va == va then { e with code := code } else e
  { y with dies := y.dies.map fun d =>
      (d.1, { d.2 with tlb := d.2.tlb.map f, coreTlbs := d.2.coreTlbs.map fun c => (c.1, c.2.map f) }) }

/-- R355: an entry loaded into a die TLB; when it is full an unlocked entry, firmware's choice, is evicted, and with none unlocked nothing
is loaded. -/
def Sys.loadTlb (y : Sys) (die n : Nat) (e : TlbEntry) : Sys :=
  let d := y.die die
  if d.tlb.any fun x => x.ctx == e.ctx && x.va == e.va then y
  else if d.tlb.length < 12288 then y.setDie die { d with tlb := d.tlb ++ [e] }
  else
    let free := d.tlb.filter fun x => x.locked == 0
    match free[Config.pick n % free.length]? with
    | some x => y.setDie die { d with tlb := d.tlb.erase x ++ [e] }
    | none => y

/-! ### Memory by virtual address -/

/-- The bytes of a page at a physical address, expanded when it is compressed (R280). -/
def Sys.pageRead (y : Sys) (p : Page) (off n : Nat) : Bytes :=
  if codeCmp p.code then
    (List.range ((off % 4096 + n + 4095) / 4096)).flatMap (fun i =>
      (expandBlock (y.memRead (p.pa + 4288 * (off / 4096 + i)) 4288)).getD (List.replicate 4096 0)) |>.drop (off % 4096) |>.take n
  else y.memRead (p.pa + off) n

/-- Bytes written to one expansion unit of a compressed page (R280). -/
def Sys.unitWrite (y : Sys) (p : Page) (n off : Nat) (bs : Bytes) : Sys :=
  let at_ := p.pa + 4288 * (off / 4096)
  let u := (expandBlock (y.memRead at_ 4288)).getD (List.replicate 4096 0)
  let o := off % 4096
  y.memWrite at_ (recoded n (u.take o ++ bs ++ u.drop (o + bs.length)))

/-- Bytes written at an offset of a page, by units when it is compressed; `n` is firmware's choice of codes. -/
def Sys.pageWrite (y : Sys) (p : Page) (n off : Nat) (bs : Bytes) : Sys :=
  if codeCmp p.code then
    (columnsOf 4096 off bs.length (bs.length + 1)).foldl (fun y c => y.unitWrite p n c.1 ((bs.drop (c.1 - off)).take c.2)) y
  else y.memWrite (p.pa + off) bs
where
  /-- A range cut at multiples of `u`. -/
  columnsOf (u off len : Nat) : Nat → List (Nat × Nat)
    | 0 => []
    | f + 1 =>
      if len == 0 then []
      else
        let k := Nat.min len (u - off % u)
        (off, k) :: columnsOf u (off + k) (len - k) f

/-- The parts of a range of virtual addresses, page by page; none where an address is not mapped. -/
def Sys.vaParts (y : Sys) (ctx va len : Nat) : Nat → Option (List (Page × Nat × Nat))
  | 0 => none
  | f + 1 =>
    if len == 0 then some []
    else
      match y.pageAt ctx va with
      | none => none
      | some p =>
        if p.state == .retired then none
        else
          let k := Nat.min len (p.va + pageSize p.code - va)
          (y.vaParts ctx (va + k) (len - k) f).map fun l => (p, va - p.va, k) :: l

/-- Bytes at a virtual address of a context, or none when part of them is not mapped. -/
def Sys.vaRead (y : Sys) (ctx va len : Nat) : Option Bytes :=
  (y.vaParts ctx va len (len / 4096 + 3)).map fun l => l.flatMap fun x => y.pageRead x.1 x.2.1 x.2.2

/-- Bytes written at a virtual address of a context, where it is mapped. -/
def Sys.vaWrite (y : Sys) (ctx va n : Nat) (bs : Bytes) : Sys :=
  match y.vaParts ctx va bs.length (bs.length / 4096 + 3) with
  | none => y
  | some l =>
    (l.foldl (fun (a : Sys × Bytes) x => (a.1.pageWrite x.1 n x.2.1 (a.2.take x.2.2), a.2.drop x.2.2)) (y, bs)).1

/-! ### Queues and entries -/

/-- The context of a queue index. -/
def qctx (qi : Nat) : Nat := qi / 16
/-- A queue by its index. -/
def Sys.queue (y : Sys) (qi : Nat) : Option Queue := SMap.get? y.queues qi
/-- The module with a queue replaced. -/
def Sys.setQueue (y : Sys) (qi : Nat) (q : Queue) : Sys := { y with queues := SMap.put y.queues qi q }
/-- The module with a queue changed, if there is one. -/
def Sys.onQueue (y : Sys) (qi : Nat) (f : Queue → Queue) : Sys :=
  match y.queue qi with
  | some q => y.setQueue qi (f q)
  | none => y

/-- TYPE of an entry (Table 12.2). -/
def entryType (e : Bytes) : Nat := fieldLe e 0 1
/-- PRIO. -/
def entryPrio (e : Bytes) : Nat := fieldLe e 1 1
/-- VARMASK. -/
def entryVarmask (e : Bytes) : Nat := fieldLe e 4 4
/-- OBJ. -/
def entryObj (e : Bytes) : Nat := fieldLe e 8 8
/-- ARG. -/
def entryArg (e : Bytes) : Nat := fieldLe e 16 8
/-- WAITQ. -/
def entryWaitq (e : Bytes) : Nat := fieldLe e 24 2
/-- WAITSEQ. -/
def entryWaitseq (e : Bytes) : Nat := fieldLe e 32 8
/-- CREC. -/
def entryCrec (e : Bytes) : Nat := fieldLe e 40 8
/-- USER. -/
def entryUser (e : Bytes) : Nat := fieldLe e 48 8

/-- The entry at a position of a queue's ring, as its bytes stand (R308). -/
def Sys.ringEntry (y : Sys) (qi pos : Nat) (q : Queue) : Bytes :=
  (y.vaRead (qctx qi) (q.ring.toNat + 64 * (pos % q.cap)) 64).getD (List.replicate 64 0)

/-! ### Save areas and the drain budget -/

/-- A frame of 2 MiB pinned for firmware at a virtual address of a context; none when no frame is free. -/
def Sys.ownPage (y : Sys) (ctx va n : Nat) : Option Sys :=
  let code : BitVec 16 := if y.trust.conf then 0x800E else 0x000E
  (y.freeFrame (2 ^ 21) none n).map fun pa =>
    (y.takeFrame pa (2 ^ 21) ctx .mapped code).addPage ctx { va := va, pa := pa, code := code, state := .mapped, rtag := none, tier := none }

/-- Pages of 2 MiB from a virtual address on. -/
def Sys.ownPages (y : Sys) (ctx va n count : Nat) : Option Sys :=
  (List.range count).foldlM (fun y i => y.ownPage ctx (va + 2 ^ 21 * i) (n + i)) y

/-- A free range of virtual addresses of a context, searched from firmware's choice. -/
def Sys.freeVa (y : Sys) (ctx size va : Nat) : Nat → Option Nat
  | 0 => none
  | fuel + 1 =>
    if 2 ^ 54 < va + size then y.freeVa ctx size 0 fuel
    else
      match (y.ctx ctx).pages.find? fun p => p.va < va + size && va < p.va + pageSize p.code with
      | some p => y.freeVa ctx size ((p.va + pageSize p.code + 2 ^ 21 - 1) / 2 ^ 21 * 2 ^ 21) fuel
      | none => some va

/-- The pages of 2 MiB that a save area of an object takes. -/
def savePages (l : List Section) : Nat := (saveNeed l + 2 ^ 21 - 1) / 2 ^ 21

/-- R301: pages of a context for a save area, with their address. -/
def Sys.newArea (y : Sys) (ctx n : Nat) (l : List Section) : Option (Sys × Nat) := do
  let va ← y.freeVa ctx (savePages l * 2 ^ 21) (Config.pick n % 2 ^ 33 * 2 ^ 21) (2 * (y.ctx ctx).pages.length + 2)
  let z ← y.ownPages ctx va (n + 1) (savePages l)
  some (z, va)

/-- Whether a kernel has its save area in use: it is placed, in binding, saved or hibernated. -/
def Kernel.keepsArea (x : Kernel) : Bool := x.state == .binding || x.placed || x.state == .saved || x.state == .hibernated

/-- R288, R301: the save area of one more launch of an object: one of the object's that no other kernel of it has, or a further one in pages
of the context; none when no frame is free for it (log 166). -/
def Sys.areaFor (y : Sys) (h n : Nat) (k : KObj) : Option (Sys × Nat) :=
  match k.saves.find? fun a => !y.kernels.any fun x => x.2.obj == h && x.2.save == a && x.2.keepsArea with
  | some a => some (y, a)
  | none => (y.newArea k.ctx n k.sections).map fun z =>
      ({ z.1 with objs := SMap.put z.1.objs h { k with saves := k.saves ++ [z.2] } }, z.2)


/-- The clusters that a kernel occupies, by rank (R337). -/
def Sys.clustersOf (y : Sys) (q : Nat) : List Nat := ((y.coresOf q).map clusterOf).eraseDups

/-- The stacks whose timelines a kernel owns. -/
def Sys.stacksOf (y : Sys) (q : Nat) : List Nat := (y.stks.filter fun k => k.2.kernel == some q).map (·.1)

/-- R382: the ranges of the control class, as (context, address, length): the save area of every kernel that has one in use, the queue rings,
and the completion records that the entries in the rings name. -/
def Sys.controlRanges (y : Sys) : List (Nat × Nat × Nat) :=
  let saves := (y.kernels.filter fun x => x.2.keepsArea).filterMap fun x =>
    (SMap.get? y.objs x.2.obj).map fun k => (x.2.ctx, x.2.save, saveNeed k.sections)
  let rings := y.queues.map fun q => (q.2.ctx, q.2.ring.toNat, 64 * q.2.cap)
  let recs := y.queues.flatMap fun q => (List.range (Nat.min q.2.tail q.2.cap)).filterMap fun i =>
    let c := entryCrec (y.ringEntry q.1 (q.2.tail - 1 - i) q.2)
    if c == 0 then none else some (q.2.ctx, c, 64)
  saves ++ rings ++ recs

/-- R382, R402: the pages of the control class: those of its ranges, and every page that a context has for firmware's structures, in which
graph objects, page tables and, for context 0, the digest log lie (log 63). -/
def Sys.controlPages (y : Sys) : List (Nat × Page) :=
  let ranges := y.controlRanges
  y.ctxs.flatMap fun x => (x.2.pages.filter fun p => p.state != .retired &&
    (x.2.own.contains p.va || ranges.any fun r => r.1 == x.1 && r.2.1 < p.va + pageSize p.code && p.va < r.2.1 + r.2.2)).map fun p => (x.1, p)

/-- R382: the bytes of the control class, by whole pages, as they are drained (log 63). -/
def Sys.controlBytes (y : Sys) : Nat := ((y.controlPages.map fun p => pageSize p.2.code)).sum

/-- R382: the pages of the drain classes in drain order: class, context, address. -/
def Sys.drainPages (y : Sys) : List (Nat × Page) :=
  (List.range 16).flatMap fun c => if c == 0 then [] else
    y.ctxs.flatMap fun x => (sortBy (fun p q => p.va ≤ q.va) (x.2.pages.filter fun p => codeDclass p.code == c && p.state != .retired && inHbm p.pa)).map
      fun p => (x.1, p)

/-- The bytes of the drain classes. -/
def Sys.drainBytes (y : Sys) : Nat := ((y.drainPages.map fun p => pageSize p.2.code)).sum

/-- R383: whether the reserve carries a drain of B bytes: 120 J + (B ÷ 96 GB/s) × 600 W ≤ U. -/
def reserveCarries (b u : Nat) : Bool := 120 * 96000000000 + 600 * b ≤ u * 96000000000

/-- The pages of the drain classes that are drained: those that ageing has not dropped (R383). -/
def Sys.drainList (y : Sys) : List (Nat × Page) :=
  y.drainPages.filter fun p => !y.power.dropped.contains (p.1, p.2.va)

/-- The bytes that are drained. -/
def Sys.drained (y : Sys) : Nat := ((y.drainList.map fun p => pageSize p.2.code)).sum

/-- R382, R383: whether `delta` more bytes may be registered in the drain classes. -/
def Sys.mayRegister (y : Sys) (delta : Nat) : Bool :=
  delta == 0 || (y.drainBytes + delta ≤ 256 * 2 ^ 30 && reserveCarries (y.controlBytes + y.drained + delta) y.power.reserve)

/-- R389: the manifest's state follows what there is to protect. -/
def Sys.rearm (y : Sys) : Sys :=
  let busy := y.kernels.any fun q => q.2.placed || q.2.state == .saved
  let pages := y.ctxs.any fun x => x.2.pages.any fun p => codeDclass p.code != 0
  let m := match y.power.manifest with
    | .none => if busy || pages then .armed else .none
    | .armed => if !busy && !pages && (y.ctxs.all fun x => x.1 == 0 || x.2.state == .empty) then .none else .armed
    | m => m
  { y with power := { y.power with manifest := m } }

end Sys2Proof.Machine
end

