-- ==== Sys2Proof/Machine/Page.lean ====
section
/-! DEFINITION. Page requests TLBINV, PGREL, PGACC and PGATTR (R361, R362), how firmware performs them and the host commands that invalidate
(R363, R411), the faults that it resolves (R360), scrubs (R359), offers (R363) and deep retention (R364). -/

namespace Sys2Proof.Machine

/-- VA of a request block without its space bits. -/
def reqVa (bs : Bytes) : Nat := fieldLe bs 0 8 % 2 ^ 61
/-- ARG. -/
def reqArg (bs : Bytes) : Nat := fieldLe bs 8 8
/-- AUX. -/
def reqAux (bs : Bytes) : Nat := fieldLe bs 16 8
/-- SUB. -/
def reqSub (bs : Bytes) : Nat := fieldLe bs 24 1

/-- R361, Tables 16.6 and 16.7: whether a request block is one that the instruction permits. -/
def requestOk (op : Nat) (bs : Bytes) : Bool :=
  let va := reqVa bs
  let arg := reqArg bs
  let aux := reqAux bs
  let paged := va % 4096 == 0
  (bs.drop 25).all (· == 0) && va < 2 ^ 54 &&
    match op, reqSub bs with
    | 3, 0 => paged && arg == 0 && aux % 4096 == 0 && 4096 ≤ aux && aux ≤ 2 ^ 40
    | 4, 0 => paged && arg == 0 && aux == 0
    | 5, 0 => paged && codeOk aux
    | 6, 0 => paged && codeOk arg && aux == 0
    | 6, 1 => paged && arg % 2 ^ 61 % 4096 == 0 && arg % 2 ^ 61 < 2 ^ 54 && aux == 0
    | 6, 2 => arg == 0 && aux == 0
    | _, _ => false

/-- R361: a page request is issued. -/
def pageRequest (op : Nat) (i : BitVec 12) (a : BitVec 6) (s : State) : Out :=
  word s fun s => do
    let ea := s.addImm a i
    let off ← scratchEa s.unit 64 ea
    need (s.outstanding < 64) (trouble 0x17)
    let bs := s.spadRead off 64
    let s := s.touch 0x14 off 64 true false
    checked s do
      need (requestOk op bs) (addrTrouble 0x35 ea)
      let r : PageReq :=
        { hub := s.cur.hub, req := none, core := s.unit, ctx := s.old.ctxOf s.unit, op := op, block := bs, lp := off, tag := s.now % 4096,
          ranges := [], acks := [], waits := [], dropped := 0, started := false }
      .ok (s.onCur fun y => { y with pageReqs := y.pageReqs ++ [r] }).countOut

/-- R361: TLBINV. -/
def execTlbinv (i : BitVec 12) (a : BitVec 6) (s : State) : Out := pageRequest 3 i a s
/-- R361: PGREL. -/
def execPgrel (i : BitVec 12) (a : BitVec 6) (s : State) : Out := pageRequest 4 i a s
/-- R361: PGACC. -/
def execPgacc (i : BitVec 12) (a : BitVec 6) (s : State) : Out := pageRequest 5 i a s
/-- R361: PGATTR. -/
def execPgattr (i : BitVec 12) (a : BitVec 6) (s : State) : Out := pageRequest 6 i a s

/-! ### What firmware does (Tables 16.7, 16.8). Each answers REASON, VALUE and the module. -/

/-- A refusal: the REASON, and nothing changed. -/
def refuse (y : Sys) (reason : Nat) : Nat × Nat × Sys := (reason, 0, y)

/-- The page of a request by its base, or the REASON. -/
def Sys.pageBase (y : Sys) (ctx va : Nat) : Except Nat Page :=
  match y.pageAt ctx va with
  | none => .error 1
  | some p => if p.state == .retired then .error 7 else if p.va != va then .error 5 else .ok p

/-- R361: the frame of a page moved to another, with its bytes. -/
def Sys.movePage (y : Sys) (ctx : Nat) (p : Page) (pa : Nat) (code : BitVec 16) : Sys :=
  let size := pageSize p.code
  let y := (y.takeFrame pa size ctx .mapped code).memWrite pa (y.memRead p.pa size)
  ((y.setPage ctx { p with pa := pa, code := code }).invalidate ctx p.va size).unref p.pa

/-- The code that a SET leaves: W, PIN, DCLASS and RLG are the new ones (Table 16.7). -/
def setCode (old new : BitVec 16) : BitVec 16 := (old &&& 0x8073) ||| (new &&& 0x7F0C)

/-- Whether a code names a layer group that the page's frame lies outside, so that a SET moves the frame (Table 16.7). -/
def Page.movesFor (p : Page) (code : BitVec 16) : Bool := codeRlg code != 0 && inHbm p.pa && layerGroup p.pa + 1 != codeRlg code

/-- PGATTR SET (Table 16.7). `n` is firmware's free choice of a frame. -/
def attrSet (y : Sys) (ctx va new n : Nat) : Nat × Nat × Sys :=
  match y.pageBase ctx va with
  | .error r => refuse y r
  | .ok p =>
    let c : BitVec 16 := BitVec.ofNat 16 new
    if !codeOk new then refuse y 3
    else if c.extractLsb' 0 2 != p.code.extractLsb' 0 2 then refuse y 5
    else if codeCC c != codeCC p.code || codeCmp c != codeCmp p.code then refuse y 3
    else
      let code := setCode p.code c
      let size := pageSize p.code
      let more := if codeDclass code != 0 && codeDclass p.code == 0 then size else 0
      if !y.mayRegister more then refuse y 3
      else if p.movesFor code then
        if codePin p.code || codePin code || codeDD p.code then refuse y 3
        else if y.lockedIn ctx p.va size then refuse y 2
        else
          match y.freeFrame size (some (codeRlg code - 1)) n with
          | none => refuse y 6
          | some pa => if codeRefused code pa then refuse y 3 else (0, code.toNat, (y.movePage ctx p pa code).rearm)
      else if codeRefused code p.pa then refuse y 3
      else (0, code.toNat, ((y.setPage ctx { p with code := code }).recode ctx p.va code).rearm)

/-- The state of a page that is shared: one whose release is pending stays so (Table 16.4, R363). -/
def PageState.sharedNow (x : PageState) : PageState := if x == .releasing then .releasing else .shared

/-- PGATTR SHARE (Table 16.7). -/
def attrShare (y : Sys) (ctx va src : Nat) : Nat × Nat × Sys :=
  match y.pageBase ctx va, y.pageBase ctx src with
  | .error r, _ => refuse y r
  | _, .error r => refuse y r
  | .ok p, .ok q =>
    let dd := fun (c : BitVec 16) => (c &&& 0xFFFB) ||| 0x40
    if p.code.extractLsb' 0 2 != q.code.extractLsb' 0 2 then refuse y 5
    else if codeCC p.code != codeCC q.code || codeCmp p.code != codeCmp q.code || codePin p.code != codePin q.code || p.pa == q.pa then
      refuse y 3
    else if codeRefused (dd p.code) q.pa || codeRefused (dd q.code) q.pa then refuse y 3
    else if y.lockedIn ctx p.va (pageSize p.code) || y.lockedIn ctx q.va (pageSize q.code) then refuse y 2
    else
      match SMap.get? y.frames q.pa with
      | none => refuse y 1
      | some f =>
        let y := { y with frames := SMap.put y.frames q.pa { f with refc := f.refc + 1, state := .shared } }
        let y := (y.setPage ctx { p with pa := q.pa, code := dd p.code, state := p.state.sharedNow }).setPage ctx
          { q with code := dd q.code, state := q.state.sharedNow }
        (0, f.refc + 1, ((y.invalidate ctx p.va (pageSize p.code)).invalidate ctx q.va (pageSize q.code)).unref p.pa)

/-- PGATTR QUERY (Table 16.7). -/
def attrQuery (y : Sys) (ctx va : Nat) : Nat × Nat × Sys :=
  match y.pageAt ctx va with
  | none => refuse y 1
  | some p =>
    if p.state == .retired then refuse y 7
    else (0, p.code.toNat + 2 ^ 16 * (((SMap.get? y.frames p.pa).map (·.refc)).getD 1 % 2 ^ 40), y)

/-- R363: PGREL answers a pending RELEASE-REQUEST: the page is scrubbed and the verb's response sent. -/
def releasePage (y : Sys) (ctx va : Nat) : Nat × Nat × Sys :=
  match y.pageBase ctx va with
  | .error r => refuse y r
  | .ok p =>
    if p.state != .releasing then refuse y 4
    else if y.lockedIn ctx p.va (pageSize p.code) then refuse y 2
    else
      let mine := fun (r : Nat × Nat × Req) => r.1 == ctx && r.2.1 == p.va
      let y := ((y.dropPage ctx p.va).invalidate ctx p.va (pageSize p.code)).unref p.pa
      let y := (y.trust.releases.filter mine).foldl (fun y r => y.respond 0x06 r.2.2 0 []) y
      (0, 0, { y with trust := { y.trust with releases := y.trust.releases.filter fun r => !mine r } }.rearm)

/-- R363: PGACC maps an offered frame. -/
def acceptPage (y : Sys) (ctx va handle aux : Nat) : Nat × Nat × Sys :=
  match y.frames.find? fun f => f.2.state == .offered && f.2.owner == ctx && f.2.handle.toNat == handle with
  | none => refuse y 4
  | some f =>
    let code : BitVec 16 := ((BitVec.ofNat 16 aux) &&& 0x7FBF) ||| 0x8000
    if pageSize code != f.2.size || va % f.2.size != 0 || y.overlaps ctx va f.2.size then refuse y 5
    else if !codeOk aux || codeRefused code f.1 || !y.mayRegister (if codeDclass code != 0 then f.2.size else 0) then refuse y 3
    else
      let y := { y with frames := SMap.put y.frames f.1 { f.2 with refc := 1, state := .mapped, code := code } }
      (0, 0, (y.addPage ctx { va := va, pa := f.1, code := code, state := .mapped, rtag := none, tier := none }).rearm)

/-- A page's frame loses the page: HBM's, or the tier's when the page is retired. -/
def Sys.losePage (y : Sys) (p : Page) : Sys :=
  match p.tier with
  | some t => y.unref t
  | none => y.unref p.pa

/-- UNMAP-PAGE (Table 20.1): the STATUS, with the page unmapped and its frame to be scrubbed. -/
def unmapPage (y : Sys) (ctx va : Nat) : Nat × Nat × Sys :=
  match y.pageAt ctx va with
  | none => refuse y 4
  | some p =>
    if p.va != va then refuse y 4
    else if y.lockedIn ctx p.va (pageSize p.code) then refuse y 5
    else if codePin p.code then refuse y 2
    else (0, 0, (((y.dropPage ctx p.va).invalidate ctx p.va (pageSize p.code)).losePage p).rearm)

/-- What a request does: REASON, VALUE and the module (Tables 16.7, 16.8, 20.1). -/
def requestEffect (y : Sys) (r : PageReq) (n : Nat) : Nat × Nat × Sys :=
  let va := reqVa r.block
  match r.op, reqSub r.block with
  | 3, _ => if !r.started && y.lockedIn r.ctx va (reqAux r.block) then refuse y 2 else (0, r.dropped, y)
  | 4, _ => releasePage y r.ctx va
  | 5, _ => acceptPage y r.ctx va (reqArg r.block) (reqAux r.block)
  | 0x21, _ => unmapPage y r.ctx (fieldLe r.block 0 8)
  | 0x22, _ => attrSet y r.ctx (fieldLe r.block 0 8) (reqArg r.block) n
  | _, 0 => attrSet y r.ctx va (reqArg r.block) n
  | _, 1 => attrShare y r.ctx va (reqArg r.block % 2 ^ 61)
  | _, _ => attrQuery y r.ctx va

/-- R362: the ranges whose translations a request drops before it takes effect. -/
def Sys.requestRanges (y : Sys) (r : PageReq) : List (Nat × Nat × Nat) :=
  let va := if r.req.isSome then fieldLe r.block 0 8 else reqVa r.block
  let page := fun (a : Nat) => ((y.pageAt r.ctx a).map fun p => (r.ctx, p.va, pageSize p.code)).toList
  let moved := ((y.pageAt r.ctx va).filter fun p => p.movesFor (setCode p.code (BitVec.ofNat 16 (reqArg r.block)))).isSome
  match r.op, reqSub r.block with
  | 3, _ => [(r.ctx, va, reqAux r.block)]
  | 4, _ => page va
  | 5, _ => []
  | 0x21, _ => page va
  | 0x22, _ => if moved then page va else []
  | _, 0 => if moved then page va else []
  | _, 1 => page va ++ page (reqArg r.block % 2 ^ 61)
  | _, _ => []

/-- The request that firmware serves first: requests in order of arrival (R360, R412). -/
def Sys.nextRequest (y : Sys) : Option PageReq := y.pageReqs.head?

/-- R360, R412: whether a kernel stopped with a fault that the page chapter may resolve before a hub cycle, and firmware has not acted on it. -/
def Sys.faultWaits (y : Sys) (hub : Nat) : Bool :=
  y.kernels.any fun x => x.2.state == .stopped && x.2.saving.isNone && x.2.stop.any fun t =>
    decide (t.hub < hub) && t.report.any fun r => r.cause == 0x30 || r.cause == 0x31

/-- R361: the answer of a request lands, VALUE and REASON with status 0 or 4; that of a host command is its response. -/
def answerRequest (s : State) (r : PageReq) (reason value : Nat) : State :=
  s.onCur fun y =>
    let y := { y with pageReqs := y.pageReqs.erase r }
    match r.req with
    | some h => y.respond r.op h (if r.op == 0x22 && reason != 0 then 256 + reason else reason) []
    | none =>
      y.landAnswer r.core r.lp r.tag (BitVec.ofNat 64 ((if reason == 0 then 256 * value else 0) + reason)) (if reason == 0 then 0 else 4)

/-- R385, R412: a request that a power-fail sequence finds not yet begun is answered and changes nothing. -/
def Sys.turnAway (y : Sys) (r : PageReq) : Sys :=
  let y := { y with pageReqs := y.pageReqs.erase r }
  match r.req with
  | some h => y.respond r.op h 5 []
  | none => y.landAnswer r.core r.lp r.tag 0 3

/-- R412: whether a request that firmware serves from its one queue arrived before a hub cycle and still waits. -/
def State.requestWaits (s : State) (hub : Nat) : Bool := s.inputs.any fun i => servedByFirmware i.event && decide (i.time < hub)

/-- R414: whether the page that a SET moves may be copied now; `z` is the module with its effect. -/
def Sys.moveWorks (y z : Sys) (r : PageReq) : Bool :=
  !(r.op == 0x22 || (r.op == 6 && reqSub r.block == 0)) || r.ranges.all fun x =>
    match y.pageAt x.1 x.2.1, z.pageAt x.1 x.2.1 with
    | some p, some q => y.worksOn p.pa x.2.2 && y.worksOn q.pa x.2.2
    | _, _ => true

/-- R361, R362, R412: firmware performs the request at the head of its queue. One that drops translations first collects an acknowledgement of
every die and waits for the accesses translated through the dropped entries; a page is copied when memory work may fall (R414). -/
def execPageRequestPerform (s : State) : Out :=
  match s.cur.nextRequest with
  | none => .next s
  | some r =>
    let e := requestEffect s.cur r s.fresh
    let l := s.cur.requestRanges r
    let t := { s with fresh := s.fresh + 1 }
    if r.started then
      if r.acks.isEmpty && r.waits.all s.cur.performed && s.cur.moveWorks e.2.2 r then .next (answerRequest (t.onCur fun _ => e.2.2) r e.1 e.2.1) else .next t
    else if s.cur.power.hib.isSome then .next (t.onCur fun y => y.turnAway r)
    else if s.cur.faultWaits r.hub || s.requestWaits r.hub then .next t
    else if e.1 != 0 || l.isEmpty then .next (answerRequest (t.onCur fun _ => e.2.2) r e.1 e.2.1)
    else .next (t.onCur fun y => { y with pageReqs := { r with started := true, ranges := l, acks := y.present } :: y.pageReqs.drop 1 })

/-- R362: an invalidation of firmware's own is acknowledged by a die. -/
def Sys.ackInval (y0 : Sys) (die : Nat) (y : Sys) (v : Inval) : Sys :=
  if v.acks.contains die then
    let d := (y.dropOn die v.ranges).1
    { d with invals := d.invals.map fun w =>
        if w.no == v.no then { v with acks := v.acks.erase die, waits := v.waits ++ (y0.dropOn die v.ranges).2.2 } else w }
  else y

/-- R362: a die, its uncore or the hub acknowledges the invalidations in progress: the matching entries are gone from it, and they wait for
the accesses translated through those. -/
def execTlbinvDieAck (die : Nat) (s : State) : Out :=
  let y := s.cur.invals.foldl (s.cur.ackInval die) s.cur
  match s.cur.nextRequest with
  | none => .next { s with cur := y }
  | some r =>
    if r.started && r.acks.contains die then
      let d := s.cur.dropOn die r.ranges
      let y := y.dropOn die r.ranges
      .next { s with cur :=
        { y.1 with pageReqs := { r with acks := r.acks.erase die, waits := r.waits ++ d.2.2, dropped := r.dropped + d.2.1 } :: y.1.pageReqs.drop 1 } }
    else .next { s with cur := y }

/-! ### Resolution of faults (R360) -/

/-- The address of a translation fault's report (Table 11.5). -/
def Report.address (r : Report) : Nat := (r.detail.getD 0 0 + 2 ^ 32 * r.detail.getD 1 0) % 2 ^ 54

/-- A free frame of HBM for a page, in the layer group that its code names. -/
def Sys.frameFor (y : Sys) (code : BitVec 16) (n : Nat) : Option Nat :=
  y.freeFrame (pageSize code) (if codeRlg code == 0 then none else some (codeRlg code - 1)) n

/-- A frame of the tier that is left passes to scrubbing. -/
def Sys.leaveFrame (y : Sys) (pa : Nat) : Sys :=
  match SMap.get? y.frames pa with
  | some f => { y with frames := SMap.put y.frames pa { f with refc := 0, state := .scrubbing } }
  | none => y

/-- R363: whether a RELEASE-REQUEST of a page is pending. -/
def Sys.releasePending (y : Sys) (ctx va : Nat) : Bool := y.trust.releases.any fun r => r.1 == ctx && r.2.1 == va

/-- R360, Table 16.4: a retired page comes back into a frame, and with it the pages that share its frame of the tier. Each keeps its code,
or loses RLG where `code` has none; one whose release is pending is releasing again (R363, log 175). -/
def Sys.bringBack (y : Sys) (ctx : Nat) (p : Page) (pa : Nat) (code : BitVec 16) : Sys :=
  let size := pageSize p.code
  let from_ := p.tier.getD 0
  let refc := ((SMap.get? y.frames from_).map (·.refc)).getD 1
  let y := (y.takeFrame pa size ctx .mapped code).memWrite pa (y.memRead from_ size)
  let f : Frame := { size := size, owner := ctx, refc := refc, state := if 1 < refc then .shared else .mapped, handle := 0, code := code }
  let y := { y with frames := SMap.put y.frames pa f }
  let back := fun (q : Page) =>
    if q.state == .retired && q.tier == some from_ then
      { q with pa := pa, code := if codeRlg code == 0 then q.code &&& 0x8FFF else q.code, tier := none,
               state := if y.releasePending ctx q.va then .releasing else if 1 < refc then .shared else .mapped }
    else q
  let x := y.ctx ctx
  (y.setCtx ctx { x with pages := x.pages.map back }).leaveFrame from_

/-- R360: the frame for a refill with the page's code: in the layer group that RLG names while that group has a free frame online, else
anywhere with RLG 0. -/
def Sys.refillFrame (y : Sys) (p : Page) (n : Nat) : Option (Nat × BitVec 16) :=
  match y.frameFor p.code n with
  | some pa => some (pa, p.code)
  | none => (y.freeFrame (pageSize p.code) none n).map fun pa => (pa, p.code &&& 0x8FFF)

/-- The frame that holds a page's bytes: HBM's, or the tier's when the page is retired. -/
def Page.home (p : Page) : Nat := p.tier.getD p.pa

/-- R360: the module after a resolution, with the runs of memory between which it copies; none when firmware does not resolve the fault. A
page that was retired after a store to it faulted is copied from the tier, and with REFC 1 stays retired. -/
def Sys.resolveFault (y : Sys) (ctx n : Nat) (r : Report) : Option (Sys × List (Nat × Nat)) :=
  if r.detail.getD 2 0 != 0 then none
  else
    match y.pageAt ctx r.address with
    | none => none
    | some p =>
      let entry := fun (pa : Nat) (c : BitVec 16) => ({ ctx := ctx, va := p.va, pa := pa, code := c, locked := 0 } : TlbEntry)
      if r.cause == 0x30 && p.state != .retired then some (y.loadTlb r.die n (entry p.pa p.code), [])
      else if r.cause == 0x30 then
        if codePin p.code then none
        else (y.refillFrame p n).map fun f =>
          ((y.bringBack ctx p f.1 f.2).loadTlb r.die (n + 1) (entry f.1 f.2), [(f.1, pageSize p.code)])
      else if r.cause == 0x31 && codeDD p.code then
        let code := (p.code &&& 0xFFBF) ||| 4
        let state := if y.releasePending ctx p.va then .releasing else .mapped
        let size := pageSize code
        if ((SMap.get? y.frames p.home).map (·.refc)).getD 1 ≤ 1 then
          some ((y.setPage ctx { p with code := code, state := if p.state == .retired then .retired else state }).recode ctx p.va code, [])
        else
          (y.frameFor code n).map fun pa =>
            let z := (y.takeFrame pa size ctx .mapped code).memWrite pa (y.memRead p.home size)
            let z := (z.setPage ctx { p with pa := pa, code := code, state := state, tier := none }).unref p.home
            ((z.invalidate ctx p.va size).loadTlb r.die (n + 1) (entry pa code), [(p.home, size), (pa, size)])
      else none

/-- R362: whether the translations of a page are being dropped, so that none is loaded. -/
def Sys.invalidating (y : Sys) (ctx : Nat) (p : Page) : Bool :=
  (y.pageReqs.any fun r => r.started && r.ranges.any fun x => x.1 == ctx && x.2.1 < p.va + pageSize p.code && p.va < x.2.1 + x.2.2) ||
    (y.invals.any fun v => v.ranges.any fun x => x.1 == ctx && x.2.1 < p.va + pageSize p.code && p.va < x.2.1 + x.2.2) ||
    (p.state != .retired && y.retiring.any fun r => r.inval.isSome && inHbm p.pa && r.stack == p.pa / stackBytes && r.group == layerGroup p.pa)

/-- R360, R362: what copy-on-write of a fault's page invalidates before the kernel resumes. -/
def Sys.copyRanges (y : Sys) (ctx : Nat) (r : Report) : List (Nat × Nat × Nat) :=
  match y.pageAt ctx r.address with
  | some p =>
    if r.cause == 0x31 && codeDD p.code && 1 < ((SMap.get? y.frames p.home).map (·.refc)).getD 1 then [(ctx, p.va, pageSize p.code)] else []
  | none => []

/-- Whether a page request or another fault comes before a fault at a hub cycle (R360, R412). -/
def State.faultQueued (s : State) (hub : Nat) : Bool :=
  (s.cur.pageReqs.any fun q => decide (q.hub ≤ hub)) || s.cur.faultWaits hub || s.requestWaits (hub + 1)

/-- R360: a fault has been resolved: the kernel's stop no longer stands in the way of its resume. -/
def Stop.resolved (t : Stop) : Stop :=
  { kind := .fault, boundary := t.boundary, hub := t.hub, inval := none, report := none, more := false, collateral := true }

/-- R294, R360: firmware resolves the fault of a stopped kernel; it then resumes (`execResume`). One that it does not resolve is left for
R294 to end. Faults and requests are taken in the order in which they reached firmware (R412), and none is taken up in a power-fail
sequence, but a resolution that has begun completes (R385). Copy-on-write first drops the old translations (R362), and pages are copied when
memory work may fall (R414). -/
def execFaultResolution (kernel : Nat) (s : State) : Out :=
  match s.cur.kern kernel with
  | none => .next s
  | some x =>
    match x.stop, x.stop.bind (·.report) with
    | some t, some r =>
      let set := fun (y : Sys) (t : Stop) => y.setKern kernel { x with stop := some t }
      match t.inval with
      | some v =>
        if !s.cur.invalDone v then .next s
        else
          let y := s.cur.endInval v
          match y.resolveFault x.ctx s.fresh r with
          | none => .next { s with cur := set y { t with inval := none } }
          | some z =>
            if z.2.all fun m => s.cur.worksOn m.1 m.2 then .next { s with cur := set z.1 t.resolved, fresh := s.fresh + 2 }
            else .next { s with fresh := s.fresh + 2 }
      | none =>
        let busy := match s.cur.pageAt x.ctx r.address with
          | some p => s.cur.invalidating x.ctx p
          | none => false
        if s.cur.power.hib.isSome || s.cur.power.shed || busy || s.faultQueued t.hub then .next s
        else
          match s.cur.resolveFault x.ctx s.fresh r with
          | none => .next s
          | some z =>
            let l := s.cur.copyRanges x.ctx r
            if !l.isEmpty then
              let b := s.cur.beginInval l
              .next { s with cur := set b.2 { t with inval := some b.1 } }
            else if z.2.all fun m => s.cur.worksOn m.1 m.2 then .next { s with cur := set z.1 t.resolved, fresh := s.fresh + 2 }
            else .next { s with fresh := s.fresh + 2 }
    | _, _ => .next s

/-! ### Scrubs, offers and deep retention -/

/-- Table 11.1: a destroyed context none of whose frames is left becomes empty, which may leave the manifest nothing to protect (R389). -/
def Sys.buryContext (y : Sys) (ctx : Nat) : Sys :=
  if (y.ctx ctx).state == .destroyed && !(y.frames.any fun f => f.2.owner == ctx) then
    { y with ctxs := SMap.del y.ctxs ctx, invals := y.invals.filter fun v => !(v.ranges.all fun r => r.1 == ctx) }.rearm
  else y

/-- R241, R263, R359: whether a WRL's burst or a near-bank commit still has to write to a run of memory. -/
def Sys.writesTo (y : Sys) (pa n : Nat) : Bool :=
  let hit := fun (a : Nat) => decide (pa < a + 64 && a < pa + n)
  y.stks.any fun k => (k.2.writes.any fun f => hit f.pa) || k.2.pchs.any fun c =>
    (c.2.busy.any fun b => b.2 == .commit) && (c.2.commits k.1 c.1).any fun w => hit w.1

/-- R359, R414: a scrub ends, once the invalidation of its frame has ended, every access to the frame has performed and memory work may fall:
zeros are written and the frame is free. -/
def execScrubCompletion (frame : Nat) (s : State) : Out :=
  match SMap.get? s.cur.frames frame with
  | none => .next s
  | some f =>
    let reached := (s.cur.accesses.any fun a =>
      a.result.isNone && (a.space == 0 || a.space == 7) && frame ≤ a.pa && a.pa < frame + f.size) || s.cur.writesTo frame f.size
    let translated := s.cur.invals.any fun v => !s.cur.invalDone v.no && v.ranges.any fun r => r.1 == f.owner
    if f.state == .scrubbing && !reached && !translated && s.cur.worksOn frame f.size then
      .next (s.onCur fun y => ({ y with frames := SMap.del y.frames frame }.memClear frame f.size).buryContext f.owner)
    else .next s

/-- R358: the host withdraws an offered frame before it is accepted. -/
def execHostOfferWithdrawal (frame : Nat) (s : State) : Out :=
  match SMap.get? s.cur.frames frame with
  | none => .next s
  | some f =>
    if f.state == .offered then
      .next (s.onCur fun y => { y with frames := SMap.put y.frames frame { f with state := .scrubbing } })
    else .next s

/-- Whether a page lies in a layer group of a stack. -/
def Page.inGroup (p : Page) (stack group : Nat) : Bool := inHbm p.pa && p.pa / stackBytes == stack && layerGroup p.pa == group

/-- R364: the pages that share a frame of a group being retired move with it, to a free frame of an online group, or to the tier, when memory
work may fall on both (R414); `c` is the frame. -/
def evacuate (n : Nat) (y : Sys) (c : Nat × Frame) : Sys :=
  let size := c.2.size
  let ctx := c.2.owner
  let mine := (y.ctx ctx).pages.filter fun p => p.state != .retired && p.pa == c.1
  match if y.worksOn c.1 size then mine else [] with
  | [] => y
  | p :: _ =>
    let rlg := (mine.find? fun p => codeRlg p.code != 0).map fun p => codeRlg p.code - 1
    let same := fun (f : Page → Page) (y : Sys) =>
      let x := y.ctx ctx
      y.setCtx ctx { x with pages := x.pages.map fun q => if q.state != .retired && q.pa == c.1 then f q else q }
    let take := fun (y : Sys) (pa : Nat) (st : PageState) =>
      let y := (y.takeFrame pa size ctx st c.2.code).memWrite pa (y.memRead p.pa size)
      { y with frames := SMap.put y.frames pa { c.2 with state := st } }.leaveFrame c.1
    match y.freeFrame size rlg n with
    | some pa => if y.worksOn pa size then take (same (fun q => { q with pa := pa }) y) pa c.2.state else y
    | none =>
      match y.freeTier size with
      | some t => take (same (fun q => { q with state := .retired, tier := some t }) y) t .retired
      | none => y

/-- The mapped pages that lie in a layer group of a stack, with their contexts. -/
def Sys.groupPages (y : Sys) (stack group : Nat) : List (Nat × Page) :=
  y.ctxs.flatMap fun x => (x.2.pages.filter fun p => p.state != .retired && p.inGroup stack group).map fun p => (x.1, p)

/-- R364: whether retirement of a group has to wait: it holds a pinned or compute-capable page or a locked entry, or a frame that is offered
or being scrubbed (log 146). -/
def Sys.groupHeld (y : Sys) (stack group : Nat) : Bool :=
  (y.frames.any fun f => inHbm f.1 && f.1 / stackBytes == stack && layerGroup f.1 == group &&
    (f.2.state == .offered || f.2.state == .scrubbing)) || (y.groupPages stack group).any fun c => codePin c.2.code || codeCC c.2.code || y.lockedIn c.1 c.2.va (pageSize c.2.code)

/-- R234, R364: the extents of 128 MiB of a layer group of a stack, released to the host or added. -/
def extents (stack group : Nat) (added : Bool) : List HostReply :=
  (List.range 96).map fun i => .extent (stack * stackBytes + (4 * i + group) * 2 ^ 27) added

/-- R364: LAYER_GROUP_RETIRE. Groups of a stack are retired in the order 3, 2, 1, 0. Retirement waits while the group holds what may not
move; then its translations are dropped (R362), and once the accesses through them have performed its pages move, it is powered off, and its
extents leave the host. Only the N9-M has deep retention (R1). -/
def execLayerGroupRetire (stack : Nat) (group : Nat) (s : State) : Out :=
  let others := s.cur.retiring.filter fun r => !(r.stack == stack && r.group == group)
  match s.cur.retiring.find? fun r => r.stack == stack && r.group == group with
  | none =>
    let before := ([3, 2, 1, 0] : List Nat).takeWhile (· != group)
    if s.cur.trust.form == 3 && stack < 8 && group < 4 && !s.cur.retired.contains (stack, group) &&
        (before.all fun g => s.cur.retired.contains (stack, g) || others.any fun r => r.stack == stack && r.group == g) then
      .next (s.onCur fun y => { y with retiring := others ++ [{ stack := stack, group := group, inval := none }] })
    else .next s
  | some r =>
    let earlier := others.any fun q => q.stack == stack && group < q.group
    if s.cur.groupHeld stack group || earlier then
      .next (s.onCur fun y => { r.inval.elim y y.endInval with retiring := others ++ [{ r with inval := none }] })
    else
      match r.inval with
      | none =>
        let b := s.cur.beginInval ((s.cur.groupPages stack group).map fun c => (c.1, c.2.va, pageSize c.2.code))
        .next { s with cur := { b.2 with retiring := others ++ [{ r with inval := some b.1 }] } }
      | some v =>
        if !s.cur.invalDone v then .next s
        else
          let frames := s.cur.frames.filter fun f => inHbm f.1 && f.1 / stackBytes == stack && layerGroup f.1 == group
          let y := frames.foldl (evacuate s.fresh) s.cur
          let left := !(y.groupPages stack group).isEmpty
          .next { s with
            cur := if left then y
              else { y.endInval v with retiring := others, retired := (stack, group) :: y.retired, hostOut := y.hostOut ++ extents stack group false },
            fresh := s.fresh + 1 }

/-- The retired pages whose frames lay in a layer group of a stack, with their contexts. -/
def Sys.groupRetired (y : Sys) (stack group : Nat) : List (Nat × Page) :=
  y.ctxs.flatMap fun x => (x.2.pages.filter fun p => p.state == .retired && p.inGroup stack group).map fun p => (x.1, p)

/-- Table 16.4: a page that was retired with its group comes back, into its old frame where that is free, once memory work may fall (R414). -/
def comeBack (n : Nat) (y : Sys) (c : Nat × Page) : Sys :=
  match y.pageAt c.1 c.2.va with
  | some p =>
    let size := pageSize p.code
    let dest := if y.isFree p.pa size then some (p.pa, p.code) else y.refillFrame p n
    match dest with
    | some f => if p.state == .retired && y.worksOn f.1 size then y.bringBack c.1 p f.1 f.2 else y
    | none => y
  | none => y

/-- R364, Table 16.4: LAYER_GROUP_RETURN: the group's frames come back free, its extents to the host, and its retired pages are mapped
again. -/
def execLayerGroupReturn (stack : Nat) (group : Nat) (s : State) : Out :=
  let back := fun (y : Sys) =>
    let gone := fun (pa : Nat) => pa / stackBytes == stack && layerGroup pa == group
    { y with retired := y.retired.filter (· != (stack, group)), hostOut := y.hostOut ++ extents stack group true,
             hbm := y.hbm.filter fun c => !gone c.1, poison := y.poison.filter fun u => !gone (64 * u),
             macs := y.macs.filter fun c => !gone (64 * c.1) }
  let y := if s.cur.retired.contains (stack, group) then back s.cur
    else match s.cur.retiring.find? fun r => r.stack == stack && r.group == group with
      | some r => { r.inval.elim s.cur s.cur.endInval with retiring := s.cur.retiring.erase r }
      | none => s.cur
  .next { s with cur := (y.groupRetired stack group).foldl (comeBack s.fresh) y, fresh := s.fresh + 1 }

end Sys2Proof.Machine
end

