-- ==== Sys2Proof/Machine/Restart.lean ====
section
/-! DEFINITION. How tile tasks run on after a hold, a stop or a save (R107, R198, R231, R298, R326): the catch-up of open pairs,
the shift of a kernel's times, and the restart of dies. -/

namespace Sys2Proof.Machine

/-- The sections of a kernel's object. -/
def Sys.sections (y : Sys) (x : Kernel) : List Section := ((SMap.get? y.objs x.obj).map (·.sections)).getD []

/-! ### The catch-up run (R198) -/

/-- The state that a step of the core `c` answers; a step that does not go on leaves it as it is. -/
def stepOn (f : State → Out) (c : Nat) (s : State) : State :=
  match f { s with unit := c } with
  | .next t => { t with unit := s.unit }
  | _ => s

/-- A step repeated. -/
def repeatOn (f : State → Out) (c : Nat) (s : State) : Nat → State
  | 0 => s
  | n + 1 => repeatOn f c (stepOn f c s) n

/-- R198: a micro-word executes in a cycle of a catch-up run. -/
def microStep (w : Word) (s : State) : Out :=
  match decodeMx w with
  | some .mxnop => execMxnop s
  | some (.mxlda a f c i) => execMxlda a f c i s
  | some (.mxldb a f c i) => execMxldb a f c i s
  | some (.mxmac a b f c) => execMxmac a b f c s
  | some (.mxprom a b c) => execMxprom a b c s
  | some (.mxmod a b c) => execMxmod a b c s
  | some (.mxred a c i) => execMxred a c i s
  | some (.mxxch a i) => execMxxch a i s
  | some (.mxloop a c i) => execMxloop a c i s
  | some (.mxstep a b i) => execMxstep a b i s
  | some (.mxspar a c) => execMxspar a c s
  | some (.mxgen c i) => execMxgen c i s
  | some (.mxsplit a b c) => execMxsplit a b c s
  | some .mxend => execMxend s
  | _ => .next s

/-- An index past the end of a routine raises 0x45 (R177). -/
def microOverrun (s : State) : Out := .next (engineFault s (s.seq.trouble 0x45))

/-- R196, R198: the abandoned routine of a core whose first cycle is `g` begins again from index 0, with the clearing of a paired
MCALL. The one replayed before it stands aside. M is that of the MCALL, whatever an MSEED has written since, and the pattern register and
the modes stand as at the restart (log 171). -/
def Core.beginAgain (g : Nat) (k : Core) : Core :=
  match k.mx.prior.find? fun q => q.st == .abandoned && q.called + 1 == g with
  | none => k
  | some q =>
    match q.pair with
    | none => k
    | some p =>
      let x := MxUnit.setAside { k.mx with prior := k.mx.prior.erase q }
      let again := { Seq.called' q.routine (q.first, q.count) q.called q.params q.qmod q.qinv (some p) with cycles := q.cycles }
      { k with mx := { x with
          seq := again, m := p.m, exch := [], btile := { x.btile with present := false, bytes := [] },
          acc := Mem.clear x.acc (512 * p.row0) (512 * p.nrows) } }

/-- R198: before the run every abandoned routine stands aside, in the order of their calls. -/
def Core.beforeAgain (k : Core) : Core :=
  let x := k.mx
  { k with mx := { x with prior := if x.seq.st == .abandoned then x.prior ++ [x.seq] else x.prior, seq := Seq.reset, loads := [] } }

/-- R198: after the run a routine that was not abandoned takes the sequencer again; its tile loads, and an arming, still stand, and
loads keep the order in which they were started. It finds the B tile register, the pattern register and M as the run leaves them (log 172).
`k0` is the core before the run. -/
def Core.afterAgain (k0 k : Core) : Core :=
  let x := if k0.mx.seq.st == .abandoned then k.mx else { k.mx.setAside with seq := k0.mx.seq }
  let q := if x.arm.isSome && x.seq.st == .idle then { x.seq with st := .armed } else x.seq
  { k with mx := { x with seq := q, loads := sortBy (fun a b => a.start ≤ b.start) (k0.mx.loads ++ x.loads) } }

/-- The dies of a list at a Gnomon value. -/
def Sys.setGnomon (y : Sys) (ds : List Nat) (g : Nat) : Sys :=
  ds.foldl (fun y d => y.setDie d { y.die d with gnomon := g }) y

/-- One cycle of the catch-up of cores, at Gnomon value `g`: landings, then the micro-words of the cycle, then chunks. The
flags of rows that land join FFLAGS, of those too that had landed before the stop (log 173). -/
def catchCycle (cores ds : List Nat) (s : State) (g : Nat) : State :=
  let s := s.onCur fun y => y.setGnomon ds g
  let s := cores.foldl (fun s c => s.onCore c (Core.beginAgain g)) s
  let s := cores.foldl (fun s c => repeatOn execBTileLand c s (s.cur.core c).mx.loads.length) s
  let s := { s with old := s.cur }
  let land := fun (s : State) (c : Nat) =>
    let k := s.cur.core c
    let s := repeatOn execAccumulatorRowLand c s (k.dueRows g).length
    repeatOn execExchangeRowLand c s (k.due g Dest.isExch).length
  let s := cores.foldl land s
  let micro := fun (s : State) (c : Nat) =>
    let q := (s.old.core c).mx.seq
    if q.st == .paired then
      if q.index < q.count then
        stepOn (microStep (SMap.getD (s.old.core c).mx.store (q.first + q.index) mxEndWord)) c s
      else stepOn microOverrun c s
    else s
  let s := cores.foldl micro s
  cores.foldl (fun s c => s.onCore c (readChunks (s.old.core c).mx.wbuf g)) s

/-- Whether a core has an abandoned routine. -/
def Core.abandoned (k : Core) : Bool := k.mx.routines.any fun q => q.st == .abandoned

/-- R198: before the Gnomon of dies advances, the abandoned routines of their cores run again for the cycles they had run. -/
def catchUp (ds : List Nat) (cores : List Nat) (s : State) : State :=
  let cs := cores.filter fun c => (s.cur.core c).abandoned
  match cs with
  | [] => s
  | c0 :: _ =>
    let n := s.cur.gn c0
    let calls := cs.flatMap fun c => ((s.cur.core c).mx.routines.filter fun q => q.st == .abandoned).map (·.called)
    let first := calls.foldl Nat.min n
    let t := cs.foldl (fun s c => s.onCore c Core.beforeAgain) s
    let t := (List.range (n - (first + 1))).foldl (fun s i => catchCycle cs ds s (first + 1 + i)) t
    let t := cs.foldl (fun t c => t.onCore c fun k => (k.beginAgain n).afterAgain (s.cur.core c)) t
    { t.onCur (fun y => y.setGnomon ds n) with old := s.old, uses := s.uses }

/-! ### Shift (R298, R326) -/

/-- A time moved by `d` cycles. -/
def moved (d : Int) (t : Nat) : Nat := ((t : Int) + d).toNat

/-- A core with every cycle that it holds moved by `d`, a multiple of 4096. -/
def Core.shift (d : Int) (k : Core) : Core :=
  let x := k.mx
  { k with
      start := moved d k.start,
      window := k.window.map fun w => { w with issued := moved d w.issued },
      pending := k.pending.map fun p => { p with land := moved d p.land, issue := moved d p.issue },
      slotDone := k.slotDone.map fun c => (c.1, moved d c.2),
      copies := k.copies.map fun c => { c with start := moved d c.start },
      mx := { x with
        prior := x.prior.map fun q => { q with called := moved d q.called, lastLand := moved d q.lastLand },
        seq := { x.seq with called := moved d x.seq.called, lastLand := moved d x.seq.lastLand },
        loads := x.loads.map fun l => { l with start := moved d l.start, land := moved d l.land },
        drain := x.drain.map fun r => { r with start := moved d r.start } } }

/-- A kernel with every cycle that it holds moved. -/
def Kernel.shift (d : Int) (x : Kernel) : Kernel :=
  { x with start := moved d x.start,
           ops := x.ops.map fun o => { o with count := moved d o.count, issue := moved d o.issue } }

/-- R326: the kernel `q` with its cores, and the transfers they have under way, moved by `d` cycles. -/
def Sys.shiftKernel (y : Sys) (q : Nat) (d : Int) : Sys :=
  let ours := fun (c : Nat) => (y.core c).kernel == some q
  let link := { y.link with
    transfers := y.link.transfers.map fun x => if ours x.core then { x with start := moved d x.start } else x,
    rejoins := y.link.rejoins.map fun x => if ours x.core then { x with start := moved d x.start } else x }
  { (y.onCoresOf q (Core.shift d)).onKern q (Kernel.shift d) with link := link }

/-- The first value at or after `g` that differs from `n` by a multiple of 4096. -/
def congruent (n g : Nat) : Nat := if g ≤ n then n else n + (g - n + 4095) / 4096 * 4096

/-! ### Restarting -/

/-- The cores of dies. -/
def Sys.coresOn (y : Sys) (ds : List Nat) : List Nat := (y.cores.filter fun c => ds.contains (dieOf c.1)).map (·.1)

/-- The cores of dies whose kernels run. -/
def Sys.liveOn (y : Sys) (ds : List Nat) : List Nat :=
  (y.coresOn ds).filter fun c => match (y.core c).kernel.bind y.kern with | some x => x.state == .running | none => true

/-- R198, R326: dies run again: abandoned routines catch up, suspended ones go on, and the Gnomon advances. -/
def restartDies (ds : List Nat) (s : State) : State :=
  let live := s.cur.liveOn ds
  let s := catchUp ds live s
  let s := live.foldl (fun s c => s.onCore c Core.thawSeq) s
  s.onCur fun y => ds.foldl (fun y d => y.setDie d { y.die d with run := .running, equalise := 0 }) y

/-- R326: dies are held at this boundary. -/
def Sys.holdDies (y : Sys) (ds : List Nat) : Sys :=
  let freeze := fun (c : Nat × Core) => if ds.contains (dieOf c.1) then (c.1, c.2.freezeSeq (y.die (dieOf c.1)).gnomon) else c
  let y := { y with cores := y.cores.map freeze }
  ds.foldl (fun y d => y.setDie d { y.die d with run := .held }) y

/-- R298: THE RETURN FROM A STOP. The stopped kernels of a group of dies run on from the boundary at which they stopped: sectors
of copies are read again, those of halted cores too (R231), abandoned routines catch up (R198), and a kernel that was held when it stopped is
held still: the copies of a follower held by itself are read again at its release. -/
def resumeAt (ds : List Nat) (s : State) : State :=
  let ds := s.cur.reach ds
  let back := fun (x : Kernel) => x.state == .stopped && x.dies.any ds.contains
  let ids := (s.cur.kernels.filter fun x => back x.2).map (·.1)
  let held := fun (q : Nat) => ((s.cur.kern q).map (·.holds.step.isSome)).getD false
  let alone := fun (q : Nat) => held q && !((s.cur.kern q).map (·.lead)).getD false
  let core := fun (c : Nat) (k : Core) =>
    match k.kernel with
    | some q =>
      if ids.contains q then
        { k with task := if k.task == .stopped then (if held q then .held else .running) else k.task,
                 copies := if alone q then k.copies else k.copies.map (s.cur.rereadCopy c (s.cur.gn c)) }
      else k
    | none => k
  let kern := fun (q : Nat) (x : Kernel) =>
    if back x then
      { x with state := if held q then .held else .running, stop := none, holds := { x.holds with due := false },
               readyAt := s.cur.kernelNow x }
    else x
  restartDies (ds.filter fun d => (s.cur.die d).run == .stopped)
    (s.onCur fun y => { y with cores := y.cores.map fun c => (c.1, core c.1 c.2),
                               kernels := y.kernels.map fun q => (q.1, kern q.1 q.2) })

end Sys2Proof.Machine
end

