-- ==== Sys2Proof/Machine/Queue.lean ====
section
/-! DEFINITION. Queues and graphs (chapter 12, R340 to R342): entries, completion records, doorbells, patches, markers, replays,
successors and the publication of signals. A queue is named by its index QI = 16 × CTXID + queue (R417). -/

namespace Sys2Proof.Machine

/-! ### Entries -/

/-- R307, R309: whether CREC names 64 bytes of a mapped, writable page of a context. -/
def Sys.crecOk (y : Sys) (ctx crec : Nat) : Bool :=
  crec % 64 == 0 && crec < 2 ^ 54 &&
    match y.pageAt ctx crec with
    | some p => storeOk p.code && p.state != .retired
    | none => false

/-- R307: whether an entry at the head of a queue is well formed. -/
def Sys.entryOk (y : Sys) (qi : Nat) (e : Bytes) : Bool :=
  let ctx := qctx qi
  let kern := (SMap.get? y.objs (entryObj e)).any fun o => o.ctx == ctx
  let graph := (SMap.get? y.graphs (entryObj e)).any fun g => g.ctx == ctx
  fieldLe e 2 2 == 0 && fieldLe e 26 6 == 0 && fieldLe e 56 8 == 0 && entryPrio e ≤ 7 && entryVarmask e != 0 &&
    entryVarmask e < 16 &&
    (match entryType e with
      | 1 => kern
      | 2 => graph
      | 3 => graph
      | 4 => entryObj e == 0
      | _ => false) &&
    (entryWaitq e == 0xFFFF || (entryWaitq e < 16 && (y.queue (16 * ctx + entryWaitq e)).isSome)) &&
    (entryCrec e == 0 || y.crecOk ctx (entryCrec e))

/-! ### Completion (R309) -/

/-- The completion record of an entry (Table 12.4). -/
def completionRecord (seq status : Nat) (e : Bytes) (fcause fbix : Word) (frec : List Nat) (wallc : Word) : Bytes :=
  natLe 8 seq ++ natLe 2 status ++ natLe 2 (entryType e) ++ natLe 4 0 ++ natLe 8 fcause.toNat ++ natLe 8 fbix.toNat ++
    ((List.range 3).flatMap fun i => natLe 4 (frec.getD i 0)) ++ natLe 4 0 ++ natLe 8 (entryUser e) ++ natLe 8 wallc.toNat

/-- Published signal words raised to a value (R342). -/
def publish (pubs : SMap Word) (r : Raise) : SMap Word :=
  if (SMap.getD pubs r.word 0).toNat < r.value.toNat then SMap.put pubs r.word r.value else pubs

/-- R342: every signal raised in a queue is published. -/
def Queue.publishAll (q : Queue) : Queue := { q with pubs := q.raises.foldl publish q.pubs, raises := [] }

/-- R309, R342: the head entry of a queue finishes: its signals are published, its record is written, and then QHEAD and QCOMP advance. -/
def Sys.finishHead (y : Sys) (qi status : Nat) (fcause fbix : Word) (frec : List Nat) : Sys :=
  match y.queue qi with
  | none => y
  | some q =>
    if q.tail ≤ q.head then y
    else
      let e := if q.valid then q.entry else y.ringEntry qi q.head q
      let crec := entryCrec e
      let y := if crec == 0 then y
        else if y.crecOk (qctx qi) crec then
          y.vaWrite (qctx qi) crec q.head (completionRecord (q.head + 1) status e fcause fbix frec y.wallc)
        else y.hkAdd (hkEntry 0 0 0 status crec)
      y.setQueue qi
        { q.publishAll with
            head := q.head + 1, valid := false, entry := [], ready := none, state := if q.head + 1 < q.tail then .waiting else .idle }

/-! ### Doorbells (R308, R417) -/

/-- R308: QTAIL_WRITE: a value from the present QTAIL to QHEAD + CAP appends entries; another is counted in QERR. In confidential
mode it is ignored. -/
def execQtailWrite (qi : Nat) (value : BitVec 64) (s : State) : Out :=
  match s.cur.queue qi with
  | none => .next s
  | some q =>
    if s.cur.trust.conf then .next s
    else if value.toNat < q.tail || q.head + q.cap < value.toNat then
      .next (s.onCur fun y => y.setQueue qi { q with err := if q.err == 2 ^ 64 - 1 then q.err else q.err + 1 })
    else
      .next (s.onCur fun y => y.setQueue qi
        { q with tail := value.toNat, state := if q.state == .idle && q.head < value.toNat then .waiting else q.state })

/-- R340, R396, R417: a host write to any other BAR 2 register is ignored. -/
def execHostRegisterWrite (_offset : Nat) (_value : BitVec 64) (s : State) : Out := .next s

/-! ### Heads (R305 to R307, R312) -/

/-- R313: whether the WAITQ condition of a head holds. -/
def Sys.waitDone (y : Sys) (qi : Nat) (e : Bytes) : Bool :=
  entryWaitq e == 0xFFFF || (y.queue (16 * qctx qi + entryWaitq e)).any fun w => decide (entryWaitseq e ≤ w.head)

/-- R311: the replay at the head of a queue arrives at its graph. -/
def Sys.arriveAtGraph (y : Sys) (qi : Nat) (e : Bytes) : Sys :=
  match SMap.get? y.graphs (entryObj e) with
  | some g => { y with graphs := SMap.put y.graphs (entryObj e) { g with waitList := g.waitList ++ [qi] } }
  | none => y

/-- R313: the head of a queue other than a replay is ready once its WAITQ condition holds; a replay is ready when its graph's slot is
free too, and that is when it starts (R311). -/
def Sys.readyHead (y : Sys) (qi : Nat) (q : Queue) : Sys :=
  if q.ready.isNone && entryType q.entry != 2 && y.waitDone qi q.entry then y.setQueue qi { q with ready := some y.wallc.toNat } else y

/-- R307, R311, R313: the entry that has reached the head of a queue is read and validated: a malformed one finishes with status 2,
and a valid replay joins its graph's list, in the order in which replays reach their heads. A head becomes ready when its WAITQ
condition holds. -/
def execQueueHeadValidation (qi : Nat) (s : State) : Out :=
  match s.cur.queue qi with
  | none => .next s
  | some q =>
    if q.state != .waiting || q.tail ≤ q.head then .next s
    else if q.valid then .next (s.onCur fun y => y.readyHead qi q)
    else
      let e := s.cur.ringEntry qi q.head q
      if s.cur.entryOk qi e then
        let p := { q with valid := true, entry := e, ready := none }
        .next (s.onCur fun y =>
          let z := (y.setQueue qi p).readyHead qi p
          if entryType e == 2 then z.arriveAtGraph qi e else z)
      else .next (s.onCur fun y => y.finishHead qi 2 0 0 [])

/-- Whether the head of a queue is a ready entry of a type. -/
def Queue.readyFor (q : Queue) (type : Nat) : Bool :=
  q.state == .waiting && q.valid && q.ready.isSome && entryType q.entry == type

/-- R306: a marker finishes. -/
def execMarkerEntry (qi : Nat) (s : State) : Out :=
  match s.cur.queue qi with
  | some q => if q.readyFor 4 then .next (s.onCur fun y => y.finishHead qi 0 0 0 []) else .next s
  | none => .next s

/-- The records of a patch: offset and value (R312). -/
def patchRecords (bs : Bytes) : List (Nat × Nat) :=
  (List.range (fieldLe bs 0 4)).map fun i => (fieldLe bs (16 + 16 * i) 8, fieldLe bs (24 + 16 * i) 8)

/-- R312: the patch at ARG, or none when it breaks the limits. -/
def Sys.readPatch (y : Sys) (ctx arg : Nat) (g : Graph) : Option Bytes := do
  let h ← y.vaRead ctx arg 16
  let n := fieldLe h 0 4
  if 1 ≤ n && n ≤ 255 && (h.drop 4).all (· == 0) then
    let bs ← y.vaRead ctx arg (16 + 16 * n)
    if (patchRecords bs).all fun r => r.1 % 8 == 0 && r.1 + 8 ≤ g.params.length then some bs else none
  else none

/-- R312: a stage-patch entry stages its patch, or finishes with status 5 when one is staged, or 2 when it breaks the limits. -/
def execStagePatchEntry (qi : Nat) (s : State) : Out :=
  match s.cur.queue qi with
  | none => .next s
  | some q =>
    if !q.readyFor 3 then .next s
    else
      let h := entryObj q.entry
      match SMap.get? s.cur.graphs h with
      | none => .next s
      | some g =>
        if g.patch.isSome then .next (s.onCur fun y => y.finishHead qi 5 0 0 [])
        else
          match s.cur.readPatch (qctx qi) (entryArg q.entry) g with
          | none => .next (s.onCur fun y => y.finishHead qi 2 0 0 [])
          | some bs =>
            .next (s.onCur fun y => { y with graphs := SMap.put y.graphs h { g with patch := some bs } }.finishHead qi 0 0 0 [])

/-- R312: the records of a patch applied in ascending order. -/
def applyPatch (params : Bytes) (bs : Bytes) : Bytes :=
  (patchRecords bs).foldl (fun p r => p.take r.1 ++ natLe 8 r.2 ++ p.drop (r.1 + 8)) params

/-- R311, R313: a replay that heads its graph's list starts when its WAITQ condition holds and the slot is free, which makes it ready;
the staged patch is applied and becomes empty. -/
def execGraphReplayStart (qi : Nat) (s : State) : Out :=
  match s.cur.queue qi with
  | none => .next s
  | some q =>
    let h := entryObj q.entry
    match SMap.get? s.cur.graphs h with
    | none => .next s
    | some g =>
      if q.state == .waiting && q.valid && entryType q.entry == 2 && s.cur.waitDone qi q.entry && g.slot.isNone &&
          g.waitList.head? == some qi then
        let g := { g with slot := some qi, waitList := g.waitList.drop 1, patch := none, begun := [], bound := false, done := [],
                          ended := none,
                          params := match g.patch with | some bs => applyPatch g.params bs | none => g.params }
        .next (s.onCur fun y =>
          { y with graphs := SMap.put y.graphs h g }.setQueue qi
            { q with state := .running, ready := some y.wallc.toNat })
      else .next s

/-- R306: when every kernel of a replay has completed or ended, its entry finishes and the slot is free. -/
def Sys.replayDone (y : Sys) (h : Nat) : Sys :=
  match SMap.get? y.graphs h with
  | none => y
  | some g =>
    match g.slot with
    | none => y
    | some qi =>
      if g.launches.length ≤ g.done.length then
        let y := { y with graphs := SMap.put y.graphs h { g with slot := none, begun := [], bound := false, done := [], ended := none } }
        match g.ended with
        | some e => y.finishHead qi e.1 e.2.1 e.2.2.1 e.2.2.2
        | none => y.finishHead qi 0 0 0 []
      else y

/-- The entry of a kernel's launch, or its part in a replay, finishes (R306). -/
def Sys.finishLaunch (y : Sys) (qi : Nat) (launch : Option Nat) (status : Nat) (fcause fbix : Word) (frec : List Nat) : Sys :=
  match launch, (y.queue qi).map fun q => entryObj q.entry with
  | some i, some h =>
    match SMap.get? y.graphs h with
    | some g =>
      let e := if status == 0 then g.ended else some (status, fcause, fbix, frec)
      { y with graphs := SMap.put y.graphs h { g with done := g.done ++ [i], ended := e } }.replayDone h
    | none => y
  | _, _ => y.finishHead qi status fcause fbix frec

/-! ### Successors (R315) and signals (R341, R342) -/

/-- R315: successors are appended to their queues in order, up to the first whose queue is full; those from it on stay. -/
def Sys.appendSucc (y : Sys) : List (Nat × Bytes) → Sys × List (Nat × Bytes)
  | [] => (y, [])
  | (qi, e) :: rest =>
    match y.queue qi with
    | none => y.appendSucc rest
    | some q =>
      if q.head + q.cap ≤ q.tail then (y, (qi, e) :: rest)
      else
        ((y.vaWrite (qctx qi) (q.ring.toNat + 64 * (q.tail % q.cap)) q.tail e).setQueue qi
          { q with tail := q.tail + 1, state := if q.state == .idle then .waiting else q.state }).appendSucc rest

/-- R315: the successors of a completed kernel that found their queue full are appended when there is room. -/
def execSuccessorAppend (kernel : Nat) (s : State) : Out :=
  match s.cur.kern kernel with
  | none => .next s
  | some x =>
    if x.state != .completed then .next s
    else
      let r := s.cur.appendSucc x.succ
      .next (s.onCur fun _ => r.1.setKern kernel { x with succ := r.2 })

/-- R341, R342: a raise of a signal word by a kernel. The raises of a word in one cycle combine: each takes the value that the word then
holds and waits for the accesses that every one of their cores issued before, and those of one kernel are kept as one; `kept` is how many
raises were there before the cycle (log 164). -/
def Queue.raise (q : Queue) (kept kernel n : Nat) (v : Word) (after : List Nat) : Queue :=
  let old := SMap.getD q.sigs n 0
  let new := if old.toNat < v.toNat then v else old
  let now := q.raises.drop kept
  let waits := ((now.find? fun r => r.word == n).map (·.after)).getD [] ++ after
  let now' := now.map fun r => if r.word == n then { r with value := new, after := waits } else r
  let more : List Raise := if now.any fun r => r.word == n && r.kernel == kernel then [] else [⟨kernel, n, new, waits⟩]
  { q with sigs := SMap.put q.sigs n new, raises := q.raises.take kept ++ now' ++ more }

/-- R342: firmware publishes a raised word once every access that its raise waits for has performed. -/
def execSignalPublish (kernel : Nat) (word : Nat) (s : State) : Out :=
  match s.cur.kern kernel with
  | none => .next s
  | some x =>
    match s.cur.queue x.queue with
    | none => .next s
    | some q =>
      match q.raises.find? fun r => r.kernel == kernel && r.word == word && r.after.all s.cur.performed with
      | some r => .next (s.onCur fun y => y.setQueue x.queue { q with pubs := publish q.pubs r, raises := q.raises.erase r })
      | none => .next s

end Sys2Proof.Machine
end

