-- ==== Sys2Proof/Machine/Kernel.lean ====
section
/-! DEFINITION. The kernel: ENQ, GSIG, DICTLD, STEP and HOLD (R315, R329 to R331, R341), its start (R324), step points and holds
(R326 to R331, R347, R350), operating points (R333), completion (R332) and end (R294). -/

namespace Sys2Proof.Machine

/-! ### Bundle words -/

/-- The kernel of the core in turn, with the writes made so far. -/
def State.kernel (s : State) : Option (Nat × Kernel) := s.me.kernel.bind fun q => (s.cur.kern q).map fun x => (q, x)

/-- R315: ENQ. The queue number is the immediate; the pointer is a itself. -/
def execEnq (i : BitVec 12) (a : BitVec 6) (s : State) : Out :=
  word s fun s => do
    let ea := s.sv a
    let off ← scratchEa s.unit 64 ea
    match s.kernel with
    | none => .error (addrTrouble 0x31 ea)
    | some (q, x) =>
      let n := s.immS i
      need (0 ≤ n && (s.cur.ctx x.ctx).queues.contains n.toNat) (addrTrouble 0x31 ea)
      need (x.succ.length < 16) (addrTrouble 0x31 ea)
      let s := s.touch 0x13 off 64 true false
      .ok (s.onCur fun y => y.setKern q { x with succ := x.succ ++ [(16 * x.ctx + n.toNat, s.spadRead off 64)] })

/-- R341: GSIG. -/
def execGsig (i : BitVec 12) (a : BitVec 6) (s : State) : Out :=
  plain s fun s =>
    match s.kernel with
    | none => s
    | some (n, x) =>
      let kept := ((s.old.queue x.queue).map (·.raises.length)).getD 0
      let after := (s.old.accesses.filter fun a => a.core == some s.unit && a.result.isNone).map (·.id)
      s.onCur fun y => y.onQueue x.queue fun q => q.raise kept n i.toNat (s.sv a) after

/-- R59, R69: the first bundle of a dictionary range that fails, with its entry and word. -/
def firstBadBundle (first : Nat) (bs : List (BitVec 384)) : Option Trouble :=
  (List.zip (List.range bs.length) bs).findSome? fun b => (validateBundle b.2).map fun e => ⟨e.2, [first + b.1 + 2 ^ 13 * e.1, 0, 0]⟩

/-- R329: DICTLD, unconditional. The bank access precedes the checks of the bundles, so it stands even when they fail. -/
def execDictld (i : BitVec 12) (a : BitVec 6) (s : State) : Out :=
  word s fun s => do
    let ea := s.addImm a i
    let off ← scratchEa s.unit 64 ea
    let h := s.spadRead off 64
    let first := leNat h % 2 ^ 13
    let count := leNat h / 2 ^ 16 % 2 ^ 13
    need (leNat h == first + 2 ^ 16 * count && first != 0 && count != 0 && first + count ≤ 8192) (trouble 0x0A)
    need (off + 64 + 48 * count ≤ 2 ^ 21) (addrTrouble 0x32 ea)
    let s := s.touch 0x12 off (64 + 48 * count) true false
    let bs := (chunks 48 (s.spadRead (off + 64) (48 * count))).map fun b => BitVec.ofNat 384 (leNat b)
    match firstBadBundle first bs with
    | some e => .ok (takeFault s e)
    | none =>
      let write := fun (c : Cluster) =>
        { c with dict := (List.zip (List.range count) bs).foldl (fun m b => SMap.set emptyBundleBits m (first + b.1) b.2) c.dict }
      .ok (s.onCur fun y => y.setCluster (clusterOf s.unit) (write (y.cluster (clusterOf s.unit))))

/-- The sections of the kernel of the core in turn. -/
def State.sections (s : State) : List Section := (s.kernel.map fun x => s.cur.sections x.2).getD []
/-- The relative cycle t − S of the core in turn. -/
def State.rel (s : State) : Nat := s.now - s.me.start

/-- R330: STEP, unconditional. When the step table has no entry of that index, the detail's expected cycle is not given: it is a
free value (log 9). -/
def execStep (n : BitVec 12) (s : State) : Out :=
  word s fun s => do
    let l := s.sections
    if n.toNat < nstepOf l then
      need (stepCycle l n.toNat == s.rel) ⟨0x10, [(stepCycle l n.toNat + 2 ^ 32 - s.rel % 2 ^ 32) % 2 ^ 32, 0, 0]⟩
      .ok (s.onMine fun k => { k with csr := { k.csr with stepno := n.setWidth 64 } })
    else
      let f := s.free
      .ok (takeFault f.2 ⟨0x10, [f.1.toNat % 2 ^ 32, 0, 0]⟩)

/-- R331: HOLD is valid only in a step bundle. -/
def inStepBundle (s : State) : Except Trouble Unit := need (stepAt s.sections s.rel).isSome (trouble 0x1E)

/-- R331: `hold.out`. By the time the bundle issues its condition has been met at the boundary (`execStepPointHold`). -/
def execHoldOut (s : State) : Out := word s fun s => do inStepBundle s; .ok s

/-- R331, R344: `hold.bar`. -/
def execHoldBar (a : BitVec 6) (s : State) : Out :=
  word s fun s => do
    inStepBundle s
    need (refOk (s.sv a)) (syncTrouble (s.sv a))
    .ok s

/-! ### The step bundle -/

/-- The bundle that a core issues next, when it is not inside an idle run (R54). -/
def Sys.nextBundle (y : Sys) (c : Nat) : List Word32 :=
  let k := y.core c
  if k.idle != 0 then []
  else
    match decodeIndex (SMap.getD k.index k.ip 0) with
    | some (.dictionaryBundle e) => bundleWords (y.dictEntry c e.toNat)
    | some .literalBundle => if k.ip ≤ 131047 then bundleWords (literalAt k k.ip) else []
    | _ => []

/-- A word that a kernel may wait on at a step point. -/
inductive WaitWord where
  | out
  | bar (v : Word)
  | acq (v : Word)
  deriving DecidableEq, Repr

/-- The waiting word among the words of a bundle, with its guard (R331, R350). -/
def findWait (k : Core) (guard : Bool) : List Word32 → Option WaitWord
  | [] => none
  | w :: ws =>
    match decodeUnit w ws.head? with
    | .ok (.pfx _ e inv p _ _ _ _ _ _) => findWait k (e == 0 || xor (k.pname p.toNat) (inv == 1)) ws
    | .ok .holdOut => some .out
    | .ok (.holdBar a) => some (.bar (k.sreg a.toNat))
    | .ok (.sacq a) => if guard then some (.acq (k.sreg a.toNat)) else none
    | .ok _ => if isTwoWord w then (match ws with | _ :: r => findWait k true r | [] => none) else findWait k true ws
    | .error _ => none

/-- The waiting words of a kernel's step bundle, by core. -/
def Sys.waits (y : Sys) (q : Nat) : List (Nat × WaitWord) :=
  (y.coresOf q).filterMap fun c =>
    if (y.core c).task == .running || (y.core c).task == .held then (findWait (y.core c) true (y.nextBundle c)).map fun w => (c, w)
    else none

/-- R331, R347, R350: whether a waiting word is satisfied; one whose reference is malformed is, so that its bundle issues and
faults. -/
def Sys.satisfied (y : Sys) (x : Kernel) (w : Nat × WaitWord) : Bool :=
  match w.2 with
  | .out => (y.core w.1).csr.outst == 0
  | .bar v => !refOk v || ((y.project x).barrier (refNum v)).complete (refPhase v)
  | .acq v =>
    let r := (y.project x).slot (stageSlot v)
    !stageOk v || (r.owner.isNone && r.full == (stageMode v == 1))

/-- The waiting words of a kernel that are not satisfied. -/
def Sys.unsatisfied (y : Sys) (q : Nat) (x : Kernel) : List (Nat × WaitWord) := (y.waits q).filter fun w => !y.satisfied x w

/-- Whether a waiting word is a HOLD (R327). -/
def WaitWord.isHold : WaitWord → Bool
  | .acq _ => false
  | _ => true

/-! ### Energy (R379 to R381) -/

/-- A fraction. -/
structure Frac where
  num : Int
  den : Nat
  deriving DecidableEq, Repr

/-- A sum of fractions. -/
def Frac.add (a b : Frac) : Frac := { num := a.num * b.den + b.num * a.den, den := a.den * b.den }
/-- Whether a fraction is at most a number. -/
def Frac.le (a : Frac) (n : Int) : Bool := a.num ≤ n * a.den

/-- R380: the mean power M of an object, in W; its last interval lasts its ENERGY ÷ its PEAK. `num` and `den` are the present
clock over the nominal one (R17): a cycle lasts den ÷ (940 num) µs. -/
def meanOf (l : List Section) (num den : Nat) : Frac :=
  let last := nstepOf l - 1
  let energy := ((List.range (nstepOf l)).map (energyOf l)).sum
  let cycles := stepCycle l last * den
  let pk := peakAt l last
  let tail := if pk == 0 then 0 else energyOf l last
  let d := cycles * Nat.max 1 pk + tail * 940 * num
  if d == 0 then { num := peakAt l last, den := 1 } else { num := energy * (940 * num * Nat.max 1 pk), den := d }

/-- P0 of R380. -/
def staticPower : Int := 250

/-- R379: P. -/
def Sys.powerLimit (y : Sys) : Nat := Nat.min (Nat.min y.power.granted y.power.limit) 1900

/-- Whether a kernel has been admitted and occupies its clusters. -/
def Kernel.admitted (x : Kernel) : Bool := x.placed || x.state == .binding
/-- The kernels that have been admitted. -/
def Sys.bound (y : Sys) : List (Nat × Kernel) := y.kernels.filter fun x => x.2.admitted

/-- M − P0 of a kernel. -/
def Sys.excess (y : Sys) (x : Kernel) : Frac :=
  let m := meanOf (y.sections x) y.opNum y.opDen
  m.add { num := -staticPower, den := 1 }

/-- R313: the effective priority of the entry of a queue. -/
def Sys.effective (y : Sys) (qi : Nat) : Nat :=
  match y.queue qi with
  | some q => Nat.min 15 (entryPrio q.entry + ((y.wallc.toNat : Int) - q.ready.getD y.wallc.toNat).toNat / 400000)
  | none => 0

/-- R381: duty divisors 1/δ chosen in ascending effective priority; each is the smallest of 1, 2, 4 and 8 for which the sum of
the terms chosen so far keeps to P, else 8. -/
def chooseDuty (p : Int) (sum : Frac) : List (Nat × Frac) → List (Nat × Nat)
  | [] => []
  | (q, e) :: rest =>
    let term := fun (k : Nat) => sum.add { num := e.num, den := e.den * k }
    let others := rest.foldl (fun (f : Frac) x => f.add x.2) { num := 0, den := 1 }
    let k := ([1, 2, 4].find? fun k => ((term k).add others).le (p - staticPower)).getD 8
    (q, k) :: chooseDuty p (term k) rest

/-- R381: the duty divisor of every running kernel. -/
def Sys.duties (y : Sys) : List (Nat × Nat) :=
  let running := sortBy (fun a b => y.effective a.2.queue ≤ y.effective b.2.queue)
    (y.kernels.filter fun x => x.2.state == .running || x.2.state == .held)
  chooseDuty y.powerLimit { num := 0, den := 1 } (running.map fun x => (x.1, y.excess x.2))

/-- R381: the WALLC ticks of a duty hold at step point `n` of a kernel: d_(n−1) × (1/δ − 1). -/
def Sys.dutyTicks (y : Sys) (q : Nat) (x : Kernel) (n : Nat) : Nat :=
  let k := ((y.duties.find? fun d => d.1 == q).map (·.2)).getD 1
  let l := y.sections x
  if n == 0 then 0
  else ((stepCycle l n - stepCycle l (n - 1)) * (k - 1) * 5 * y.opDen + 47 * y.opNum - 1) / (47 * y.opNum)

/-! ### Start (R324, R444) -/

/-- R237, R244: a fresh compiled timeline starts at its first word, every pseudo-channel at split 2 and no rule pending. A stack without one
stays with the idle timeline (R249). -/
def Stack.start (x : Stack) : Stack :=
  let fresh := fun (p : Nat) =>
    let c := x.pch p
    { Pch.reset with store := c.store, units := c.units }
  if x.prog.isEmpty then x
  else
  { x with driver := .compiled, pos := 0, word := 0, tick := 0, seam := none, seams := 0, lands := [],
           writes := [], engines := [], engCmd := none, seamCmd := none, starts := [], rises := 0, reopen := [], delayed := [],
           pchs := (List.range 64).map fun p => (p, fresh p) }

/-- R444: an announcement kept for a core counts at the start of the kernel bound there. -/
def countAnnounce (cores : List Nat) (s : State) (a : Announce) : State :=
  match cores.find? fun c => (s.cur.core c).number == a.core with
  | none => s
  | some c => contribute s c (BitVec.ofNat 64 (a.num + 64 + 256 * a.exp + 2 ^ 32 * a.phase))

/-- Whether the stacks of a kernel have been handed back (R251, R253, R416). -/
def Sys.handedBack (y : Sys) (q : Nat) : Bool := (y.stacksOf q).all fun k => (y.stk k).handed (2 * y.hub)

/-- R324, R335: the die Gnomon reaches S, or the g of a restore (R298): tile tasks and timelines start together. Stacks of a
restored kernel have been handed back with their records; until then, and while firmware rejoins ports (R387), g is 4096 later (R253). -/
def execKernelStart (kernel : Nat) (s : State) : Out :=
  match s.cur.kern kernel with
  | none => .next s
  | some x =>
    if x.state != .bound then .next s
    else if !s.cur.handedBack kernel || s.cur.link.rejoining then
      .next (s.onCur fun y => (y.shiftKernel kernel 4096).onKern kernel fun x => { x with readyAt := x.readyAt + 4096 })
    else
      let t := s.onCur fun y =>
        let kept := { Holds.none with shed := x.holds.shed, opPoint := x.holds.opPoint, preempt := x.holds.preempt }
        let y := y.setKern kernel { x with state := .running, holds := kept }
        let y := y.onCoresOf kernel fun k => if k.task == .bound then { k with task := .running } else k
        let fresh := fun (k : Stack) => k.kernel == some kernel && x.readyAt == x.start
        let again := fun (c : Nat × Core) =>
          if c.2.kernel == some kernel then (c.1, { c.2 with copies := c.2.copies.map (y.rereadCopy c.1 (y.gn c.1)) }) else c
        { y with stks := y.stks.map fun k => (k.1, if fresh k.2 then k.2.start else k.2), cores := y.cores.map again }
      let cores := t.cur.coresOf kernel
      let t := catchUp x.dies cores t
      let t := cores.foldl (fun s c => s.onCore c Core.thawSeq) t
      let mine := t.cur.link.announces.filter fun a => cores.any fun c => (t.cur.core c).number == a.core
      let t := mine.foldl (countAnnounce cores) t
      .next (t.onCur fun y =>
        { y with link := { y.link with announces := y.link.announces.filter fun a => !mine.contains a } })

/-! ### Holds (R326 to R328) -/

/-- R251: whether a stack has executed the SEAM named for a step point of cycle `c` and no later command, with its next command at
tick 2c or later. -/
def Stack.seamHolds (x : Stack) (named c : Nat) : Bool :=
  let next := match x.prog[x.pos]? with
    | some w => decide (2 * c ≤ x.tick + cmdDelta w)
    | none => true
  if named == 0xFFFF then x.pos == 0 && next
  else next && (x.seam == some named || (x.seams == named + 1 && x.driver == .idle))

/-- The logical number of a physical stack in a kernel (R317). -/
def Kernel.logicalStack (x : Kernel) (k : Nat) : Nat := 2 * (x.dies.findIdx (· == k / 2)) + k % 2

/-- The logical number of a die of a kernel (R317). -/
def Kernel.logicalDie (x : Kernel) (d : Nat) : Nat := x.dies.findIdx (· == d)
/-- The logical number of a core. -/
def Kernel.logicalCore (x : Kernel) (c : Nat) : Nat := 160 * x.logicalDie (dieOf c) + c % 160
/-- The logical number of a cluster. -/
def Kernel.logicalCluster (x : Kernel) (r : Nat) : Nat := 20 * x.logicalDie (r / 20) + r % 20

/-- R327: the stack of a kernel whose seam check fails at step point `n`. -/
def Sys.seamFails (y : Sys) (q : Nat) (x : Kernel) (n : Nat) : Option Nat :=
  let l := y.sections x
  (y.stacksOf q).find? fun k => !(y.stk k).seamHolds (stepSeam l (x.logicalStack k) n) (stepCycle l n)

/-- R327: the report of a failed seam check. -/
def Sys.seamReport (y : Sys) (q k : Nat) : Report :=
  { rank := 2, late := false, die := k / 2, cluster := 0, core := 0, word := 0, cause := 0x29,
    detail := [stackDetail k 0 44, (y.stk k).pos, (y.stk k).tick], pos := none, kernel := some q }

/-- R326: a kernel is held at this boundary: a lead kernel with its dies, a follower alone. -/
def holdKernel (q : Nat) (x : Kernel) (h : Holds) (s : State) : State :=
  let g := s.cur.kernelNow x
  let t := s.onCur fun y =>
    let y := y.setKern q { x with state := .held, holds := h }
    let y := y.onCoresOf q fun k => if k.task == .running then { k with task := .held } else k
    if x.lead then y.holdDies x.dies else y.onCoresOf q fun k => k.freezeSeq g
  settleContributions t q

/-- A kernel stops alone, where it stands: a follower that is held by itself, or one whose die is held. -/
def Sys.stopAlone (y : Sys) (kind : StopKind) (r : Option Report) (q : Nat) : Sys :=
  match y.kern q with
  | none => y
  | some x =>
    let fc := fcauseWord kind r false
    let stop : Stop :=
      { kind := kind, boundary := y.kernelNow x, hub := y.hub, inval := none, report := r, more := false, collateral := false }
    (y.setKern q { x with state := .stopped, stop := some stop }).onCoresOf q fun k =>
      { k with task := if k.task == .held || k.task == .running then .stopped else k.task,
               csr := { k.csr with fcause := fc, fbix := BitVec.ofNat 64 k.bundlePos } }

/-- R384, step 3: every kernel that runs on a group of dies stops at this boundary by power fail. -/
def Sys.powerHalt (y : Sys) (ds : List Nat) : Sys :=
  let ds := y.reach ds
  y.stopAt .powerFail none false ((y.kernels.filter fun x => x.2.state == .running && x.2.dies.any ds.contains).map (·.1)) ds

/-- R384, steps 2 and 3: a kernel stops at the boundary selected for it: with everything on its dies where a lead kernel occupies one
of them, and alone on dies without a lead kernel, whose other kernels keep their own selections. -/
def Sys.powerStop (y : Sys) (q : Nat) (x : Kernel) : Sys :=
  if y.kernels.any fun k => k.2.lead && k.2.placed && k.2.dies.any x.dies.contains then y.powerHalt x.dies
  else (y.stopAlone .powerFail none q).onCoresOf q fun k => k.freezeSeq (y.kernelNow x)

/-- R384, step 2: the kernels on the dies of a lead kernel that is held take its boundary. -/
def Sys.powerFollow (y : Sys) (x : Kernel) : Sys :=
  let qs := y.kernels.filter fun k => (k.2.state == .running || k.2.state == .bound) && k.2.dies.any x.dies.contains
  if x.lead then qs.foldl (fun y k => y.stopAlone .powerFail none k.1) y else y

/-- R384, step 3: a kernel that the power-fail sequence holds at its step point has FCAUSE and FBIX as after a stop (R291, R449). -/
def Sys.markPower (y : Sys) (q : Nat) : Sys :=
  y.onCoresOf q fun k => { k with csr := { k.csr with fcause := fcauseWord .powerFail none false, fbix := BitVec.ofNat 64 k.bundlePos } }

/-- R384: whether the boundary selected for a kernel has come. A follower that takes its lead kernel's boundary has no selection of its
own; one whose lead kernel has gone stops at once. -/
def Sys.haltDue (y : Sys) (q : Nat) (x : Kernel) : Bool :=
  y.power.hib.any fun h =>
    match h.chosen.find? fun c => c.1 == q with
    | some c => !c.2.1 && (c.2.2 ≤ y.kernelNow x || (y.die (x.dies.headD 0)).run != .running)
    | none => !y.kernels.any fun k => k.2.lead && k.2.placed && k.2.dies.any x.dies.contains

/-- R326 to R328, R331, R333, R347, R350, R381, R384: a running kernel at one of its step points. Its seams are checked when its
step bundle holds a HOLD word or a hold takes place; it is held when a HOLD or SACQ waits, a duty hold is due, or firmware holds
it. A check that fails stops it with 0x29, or by power fail without a fault. A kernel for which the power-fail sequence selected a
bundle boundary stops there. -/
def execStepPointHold (kernel : Nat) (s : State) : Out :=
  match s.cur.kern kernel with
  | none => .next s
  | some x =>
    if x.state != .running then .next s
    else if s.cur.haltDue kernel x then .next (s.onCur fun y => y.powerStop kernel x)
    else
      match stepAt (s.cur.sections x) (s.cur.kernelNow x - x.start) with
      | none => .next s
      | some n =>
        let fw := x.holds.shed
        let waits := s.cur.waits kernel
        let waiting := !fw && waits.any fun w => !s.cur.satisfied x w
        let d := if fw || x.readyAt == s.cur.kernelNow x then 0 else s.cur.dutyTicks kernel x n
        let hold := waiting || fw || d != 0 || x.holds.opPoint || x.holds.preempt
        if !hold && !(waits.any fun w => w.2.isHold) then .next s
        else
          match s.cur.seamFails kernel x n with
          | some k =>
            if fw then .next (s.onCur fun y => y.powerStop kernel x)
            else .next (s.onCur fun y => y.stopAt .fault (some (y.seamReport kernel k)) false [kernel] x.dies)
          | none =>
            if !hold then .next s
            else
              let h : Holds :=
                { x.holds with step := some n, waiting := waiting, since := waits.map fun w => (w.1, s.cur.wallc.toNat),
                               duty := if d == 0 then none else some (s.cur.wallc.toNat + d) }
              let t := holdKernel kernel x h s
              .next (if fw then t.onCur fun y => (y.markPower kernel).powerFollow x else t)

/-- R381: a duty hold has run its time. -/
def execDutyHoldExpiry (kernel : Nat) (s : State) : Out :=
  match s.cur.kern kernel with
  | none => .next s
  | some x =>
    match x.holds.duty with
    | some e =>
      if e ≤ s.cur.wallc.toNat then .next (s.onCur fun y => y.setKern kernel { x with holds := { x.holds with duty := none } })
      else .next s
    | none => .next s

/-- R328: whether no reason for a kernel's hold remains. -/
def Sys.mayRelease (y : Sys) (q : Nat) (x : Kernel) : Bool :=
  x.state == .held && x.holds.duty.isNone && !x.holds.opPoint && !x.holds.shed && !x.holds.preempt && x.saving.isNone &&
    (!x.holds.waiting || (y.unsatisfied q x).isEmpty)

/-- R328, R416: HOLD_RELEASE: once no reason remains the stacks are handed back, each at its own tick, and then the kernel runs on:
a lead kernel with its dies, a follower at the first value of the Gnomon that differs by a multiple of 4096, when the rest of its copies is
read again as after a stop (R231). -/
def execHoldRelease (kernel : Nat) (s : State) : Out :=
  match s.cur.kern kernel with
  | none => .next s
  | some x =>
    if !s.cur.mayRelease kernel x then .next s
    else if !x.holds.due then .next (s.onCur fun y => y.setKern kernel { x with holds := { x.holds with due := true } })
    else if !s.cur.handedBack kernel then .next s
    else
      let wake := fun (k : Core) => if k.task == .held then { k with task := .running } else k
      if x.lead then
        let t := s.onCur fun y =>
          (y.setKern kernel { x with state := .running, holds := Holds.none, readyAt := y.kernelNow x }).onCoresOf kernel wake
        .next (restartDies x.dies t)
      else
        let g := s.cur.kernelNow x
        let n := x.start + stepCycle (s.cur.sections x) (x.holds.step.getD 0)
        if (g - n) % 4096 != 0 || g < n then .next s
        else
          let t := s.onCur fun y =>
            let y := y.shiftKernel kernel ((g : Int) - n)
            let y := { y with cores := y.cores.map fun (c : Nat × Core) =>
              if c.2.kernel == some kernel then (c.1, { c.2 with copies := c.2.copies.map (y.rereadCopy c.1 g) }) else c }
            (y.onKern kernel fun x => { x with state := .running, holds := Holds.none, readyAt := g }).onCoresOf kernel wake
          let cores := t.cur.coresOf kernel
          let t := catchUp x.dies cores t
          .next (cores.foldl (fun s c => s.onCore c Core.thawSeq) t)

/-! ### HOLDLIM (R331, R348, R373, R375) -/

/-- The open windows that a barrier phase of a kernel waits on: those whose BAR names the barrier and the phase. -/
def Sys.awaited (y : Sys) (q : Nat) (v : Word) : List LandWin :=
  (y.coresOf q).flatMap fun c => ((y.core c).wins.map (·.2)).filter fun w =>
    refNum w.bar == refNum v && refPhase w.bar == refPhase v && w.bar != 0

/-- Whether a waiting word waits on a window of a holding peer (R375). -/
def Sys.suspendedWait (y : Sys) (q : Nat) (w : Nat × WaitWord) : Bool :=
  match w.2 with
  | .bar v => (y.awaited q v).any fun l => l.state == 6
  | _ => false

/-- The cause and detail with which a HOLD that has waited HOLDLIM stops its kernel. -/
def Sys.timeoutTrouble (y : Sys) (q : Nat) (x : Kernel) : WaitWord → Trouble
  | .out => trouble 0x15
  | .acq v => syncTrouble v
  | .bar v =>
    let b := x.barrier (refNum v)
    let remote := (refPhase v == b.done && b.remote) || (refPhase v == (b.done + 1) % 2 ^ 32 && b.remoten)
    match (y.awaited q v).find? fun l => l.state == 1 || l.state == 2 || l.state == 4 || l.state == 5 with
    | some l => ⟨0x53, [l.port + 256 * l.xfer, l.peer, l.step]⟩
    | none => if remote then trouble 0x53 else syncTrouble v

/-- A follower held by itself stops alone. -/
def Sys.stopHeld (y : Sys) (q : Nat) (r : Report) : Sys :=
  if (y.kern q).any fun x => x.state == .held then y.stopAlone .fault (some r) q else y

/-- R375: the time that has passed since the last cycle does not count for the words that wait on a window of a holding peer. -/
def Sys.countWaits (y : Sys) (q : Nat) (x : Kernel) (passed : Nat) (waits : List (Nat × WaitWord)) : Kernel :=
  let later := fun (c : Nat × Nat) =>
    if waits.any fun w => w.1 == c.1 && y.suspendedWait q w then (c.1, c.2 + passed) else c
  { x with holds := { x.holds with since := x.holds.since.map later } }

/-- R331: HOLD_TIMEOUT: a HOLD or SACQ that has waited HOLDLIM stops the kernel at its step point. -/
def execHoldTimeout (kernel : Nat) (s : State) : Out :=
  match s.cur.kern kernel with
  | none => .next s
  | some x =>
    if x.state != .held || !x.holds.waiting then .next s
    else
      let waits := s.cur.unsatisfied kernel x
      let x := s.cur.countWaits kernel x (s.cur.wallc.toNat - s.old.wallc.toNat) waits
      let lim := 100 * holdlimOf (s.cur.sections x)
      let t := s.onCur fun y => y.setKern kernel x
      match waits.find? fun w => decide (SMap.getD x.holds.since w.1 s.cur.wallc.toNat + lim ≤ s.cur.wallc.toNat) with
      | none => .next t
      | some w =>
        let e := s.cur.timeoutTrouble kernel x w.2
        let r : Report :=
          { rank := 3, late := false, die := dieOf w.1, cluster := clusterOf w.1 % 20, core := w.1 % 8, word := 0, cause := e.cause,
            detail := e.detail, pos := none, kernel := some kernel }
        .next (t.onCur fun y => (y.stopAt .fault (some r) false [kernel] (if x.lead then x.dies else [])).stopHeld kernel r)

/-! ### Operating points (R17, R333) -/

/-- R333: OPERATING_POINT_CHANGE: every die is held, at its lead kernel's next step point or, without one, at this boundary; once
the last is held the clocks change together and the holds end. -/
def execOperatingPointChange (num : Nat) (den : Nat) (s : State) : Out :=
  if num == 0 || den == 0 then .next s
  else
    let y := { s.cur with opNext := some (num, den) }
    let leads := y.kernels.filter fun x => x.2.lead && x.2.placed
    let running := (List.range 4).filter fun d => (y.die d).run == .running
    let plain := running.filter fun d => !leads.any fun x => x.2.dies.contains d
    let mark := fun (x : Nat × Kernel) =>
      if x.2.lead && (x.2.state == .running || x.2.state == .bound) then
        (x.1, { x.2 with holds := { x.2.holds with opPoint := true } })
      else x
    let y := ({ y with kernels := y.kernels.map mark }).holdDies plain
    if (List.range 4).all fun d => (y.die d).run != .running then
      let clear := fun (x : Nat × Kernel) => (x.1, { x.2 with holds := { x.2.holds with opPoint := false } })
      let free := (List.range 4).filter fun d => (y.die d).run == .held && !leads.any fun x => x.2.dies.contains d
      .next (restartDies free { s with
        cur := { y with opNum := num, opDen := den, opNext := none, kernels := y.kernels.map clear } })
    else .next { s with cur := y }

/-! ### Completion and end (R294, R332) -/

/-- R332: whether nothing of a core is in flight. -/
def Core.quiet (k : Core) : Bool :=
  (k.task == .halted || k.task == .unbound) && k.csr.outst == 0 && k.pending.isEmpty && k.copies.isEmpty && k.mx.loads.isEmpty &&
    k.mx.drain.isNone && k.mx.seq.done && k.arrived.isEmpty

/-- R332: whether a kernel is complete. -/
def Sys.complete (y : Sys) (q : Nat) (x : Kernel) : Bool :=
  x.state == .running && ((y.coresOf q).all fun c => (y.core c).quiet) &&
    (y.stacksOf q).all fun k => (y.stk k).driver == .idle && (y.stk k).pos == (y.stk k).prog.length && (y.stk k).lands.isEmpty &&
      (y.stk k).engines.isEmpty

/-- R452: a page leaves a kernel's regions: one that launch mapped keeps the region's attributes with PIN = 0, a kept one takes its earlier
code. -/
def Sys.unpin (y : Sys) (ctx : Nat) (r : Pin) : Sys :=
  match y.pageAt ctx r.va with
  | none => y
  | some p => (y.setPage ctx { p with code := r.code }).recode ctx p.va r.code

/-- R356: locked entries of a kernel's pages are unlocked. -/
def Sys.unlock (y : Sys) (ctx : Nat) (ds vas : List Nat) : Sys :=
  let f := fun (e : TlbEntry) => if e.ctx == ctx && vas.contains e.va then { e with locked := e.locked - 1 } else e
  { y with dies := y.dies.map fun d => (d.1, if ds.contains d.1 then { d.2 with tlb := d.2.tlb.map f } else d.2) }

/-- A stack that its kernel has left at a tick: where its compiled timeline still drove it the idle timeline takes it. -/
def Stack.leave (x : Stack) (w : Nat) : Stack :=
  let x := if x.driver == .compiled then x.takenBy .idle w else x
  { x with kernel := none, prog := [], descs := [], pos := 0, seam := none, seams := 0, lands := [], engines := [], reopen := [] }

/-- A kernel leaves its cores, clusters and stacks: tile tasks unbound, clusters free, and what was still under way for them
dropped. -/
def Sys.vacate (y : Sys) (q : Nat) (x : Kernel) : Sys :=
  let cores := y.coresOf q
  let mine := fun (c : Nat) => cores.contains c
  let keep := fun (a : Access) => match a.core with | some c => !mine c | none => true
  let link := { y.link with transfers := y.link.transfers.filter fun t => !mine t.core,
                            rejoins := y.link.rejoins.filter fun t => !mine t.core }
  let free := fun (c : Cluster) => { c with owner := if c.owner == some q then none else c.owner,
                                            last := if c.owner == some q then some x.ctx else c.last }
  let leave := fun (k : Core) =>
    { k with
        task := .unbound, kernel := none, hold := none, fenced := [], window := none, pending := [], flagsDue := 0, arrived := [],
        wrote := [], copies := [],
        mx := { k.mx with arm := none, prior := [], loads := [], drain := none, seq := { k.mx.seq with st := .idle, pair := none, done := true } } }
  { y.onCoresOf q leave with
      clusters := y.clusters.map fun c => (c.1, free c.2),
      stks := y.stks.map fun k => (k.1, if k.2.kernel == some q then k.2.leave (2 * y.hub) else k.2),
      accesses := y.accesses.filter keep, pageReqs := y.pageReqs.filter fun r => r.req.isSome || !mine r.core,
      link := link }

/-- The state of a context follows its kernels (Table 11.1). -/
def Sys.settleContext (y : Sys) (ctx : Nat) : Sys :=
  let x := y.ctx ctx
  let mine := y.kernels.filter fun k => k.2.ctx == ctx
  let st := if x.state == .destroyed || x.state == .empty then x.state
    else if mine.any fun k => k.2.admitted then .active
    else if mine.any fun k => k.2.state == .saved then .suspended
    else if mine.any fun k => k.2.state == .hibernated then .hibernated
    else if x.state == .created then .created else .loaded
  y.setCtx ctx { x with state := st }

/-- R332, R452: a kernel leaves the machine with a state: everything of it is unbound, unpinned and unlocked. -/
def Sys.dismiss (y : Sys) (q : Nat) (x : Kernel) (st : KernelState) (status cause : Nat) : Sys :=
  let y := y.vacate q x
  let y := if x.admitted then y.unlock x.ctx x.dies (x.pinned.map (·.va)) else y
  let y := x.pinned.foldl (fun y r => y.unpin x.ctx r) y
  let succ := if status == 0 then x.succ else []
  let y := y.setKern q { x with state := st, status := status, cause := cause, succ := succ, pinned := [], saving := none, stop := none }
  ({ y with saved := SMap.del y.saved q }.settleContext x.ctx).rearm

/-- R332: KERNEL_COMPLETION: the successors are appended (R315), signals are published and the record is written (R342), and the tile tasks
are unbound. The signals of a kernel of a replay may wait longer, up to the replay's record. -/
def execKernelCompletion (kernel : Nat) (s : State) : Out :=
  match s.cur.kern kernel with
  | none => .next s
  | some x =>
    if s.cur.complete kernel x then
      let r := s.cur.appendSucc x.succ
      .next (s.onCur fun _ =>
        (r.1.dismiss kernel { x with succ := r.2 } .completed 0 0).finishLaunch x.queue x.launch 0 0 0 [])
    else .next s

/-- FCAUSE, FBIX of the reporting core, and FREC of a stopped kernel (R291, R293). -/
def Sys.stopReport (y : Sys) (q : Nat) (x : Kernel) : Word × Word × List Nat :=
  match y.coresOf q with
  | [] => (0, 0, [])
  | c0 :: cs =>
    let r := x.stop.bind (·.report)
    let c := match r with
      | some r => if (c0 :: cs).contains r.coreNo then r.coreNo else c0
      | none => c0
    ((y.core c0).csr.fcause, (y.core c).csr.fbix, (r.map (·.detail)).getD [])

/-- R294: a kernel ends with STATUS 1 and a report: FCAUSE, FBIX and FREC. -/
def Sys.endWith (y : Sys) (q : Nat) (x : Kernel) (r : Word × Word × List Nat) : Sys :=
  (y.dismiss q x .ended 1 (r.1.toNat % 256)).finishLaunch x.queue x.launch 1 r.1 r.2.1 r.2.2

/-- R294: a stopped kernel ends with the report of its stop. -/
def Sys.endKernel (y : Sys) (q : Nat) (x : Kernel) : Sys := y.endWith q x (y.stopReport q x)

end Sys2Proof.Machine
end

