-- ==== Sys2Proof/Machine/Launch.lean ====
section
/-! DEFINITION. Launch: admission in priority order (R313, R322, R380), checks 5 and 6 of Table 13.6 (R356, R364, R425, R452),
binding (R324, R337, R338, R399) and the equalisation of Gnomon copies (R325). -/

namespace Sys2Proof.Machine

/-! ### Offers (R313) -/

/-- What firmware offers to admission: a launch entry (or launch number `launch` of the replay that runs there), or the saved
kernel `back`, that waits for its restore. -/
structure Offer where
  qi      : Nat
  launch  : Option Nat
  back    : Option Nat
  obj     : Nat
  arg     : Nat
  varmask : Nat
  deriving DecidableEq, Repr

/-- The launches of a replay that may begin: those whose dependences are done (R311). -/
def Graph.open_ (g : Graph) : List (Nat × Nat × Nat) :=
  (List.zip (List.range g.launches.length) g.launches).filterMap fun l =>
    if g.begun.contains l.1 || g.done.contains l.1 || !(l.2.2.2.all g.done.contains) then none else some (l.1, l.2.1, l.2.2.1)

/-- The offers of a queue. -/
def Sys.queueOffers (y : Sys) (c : Nat × Queue) : List Offer :=
  let e := c.2.entry
  let saved := (y.kernels.filter fun x => x.2.queue == c.1 && x.2.state == .saved).map fun x =>
    ({ qi := c.1, launch := x.2.launch, back := some x.1, obj := x.2.obj, arg := x.2.arg.toNat, varmask := entryVarmask e } : Offer)
  let fresh :=
    if c.2.readyFor 1 then
      [{ qi := c.1, launch := none, back := none, obj := entryObj e, arg := entryArg e, varmask := entryVarmask e }]
    else if c.2.state == .running && entryType e == 2 then
      match SMap.get? y.graphs (entryObj e) with
      | some g =>
        if g.slot == some c.1 then
          g.open_.map fun l =>
            ({ qi := c.1, launch := some l.1, back := none, obj := l.2.1, arg := entryArg e, varmask := Nat.land l.2.2 (entryVarmask e) } : Offer)
        else []
      | none => []
    else []
  saved ++ fresh

/-- R313: the order of offers: descending effective priority, earlier ready time, context, queue. -/
def Sys.offerKey (y : Sys) (o : Offer) : List Nat :=
  [15 - y.effective o.qi, (2 ^ 64 + ((y.queue o.qi).bind (·.ready)).getD 0).toNat, o.qi]

/-- R313: every offer, in order. -/
def Sys.offers (y : Sys) : List Offer :=
  sortBy (fun a b => !ageLt (y.offerKey b) (y.offerKey a)) (y.queues.flatMap y.queueOffers)

/-- Whether admission is open (Table 18.1, R384, R393, R395, R405). -/
def Sys.admissionOpen (y : Sys) : Bool :=
  y.power.powered && y.power.hib.isNone && !y.power.shed && !y.power.forced && !y.power.waiting && y.trust.scrubbing.isNone &&
    (y.power.supply == .normal || y.power.supply == .limited) && y.power.manifest != .replaying && !y.trust.recovery

/-! ### Placement (R317, R322, R337, check 5) -/

/-- The ranks of the clusters that a kernel occupies on the dies of a variant. -/
def ranksOf (l : List Section) (dies : List Nat) : List Nat :=
  (List.zip (List.range dies.length) dies).flatMap fun d => (clustersIn l d.1).map fun c => 20 * d.2 + c

/-- The physical stack of a logical one (R317). -/
def physStack (dies : List Nat) (k : Nat) : Nat := 2 * dies.getD (k / 2) 0 + k % 2

/-- R322: whether an object makes a lead kernel. -/
def isLead (l : List Section) : Bool := 1 < nldieOf l || l.any fun s => s.type == 10

/-- Whether a die carries a lead kernel. -/
def Sys.hasLead (y : Sys) (d : Nat) : Bool := y.bound.any fun x => x.2.lead && x.2.dies.contains d

/-- Check 5: whether a die is present for launch: its clusters have not failed (R27) and it is not shed. -/
def Sys.diePresent (y : Sys) (d : Nat) : Bool :=
  y.hasDie d && ((List.range 20).all fun c => !y.failed.getLsbD (20 * d + c)) && (y.die d).run != .shed

/-- R425: the frame of page `k` of a compute-capable region, or none when its base breaks the limits. -/
def ccFrame (dies : List Nat) (r : Region) (k : Nat) : Option Nat :=
  let off := r.base % 2 ^ 36
  let lst := r.base / 2 ^ 36
  if lst < 2 * dies.length && off % 2 ^ 21 == 0 && off + r.size ≤ stackBytes then
    some (physStack dies lst * stackBytes + off + 2 ^ 21 * k)
  else none

/-- The attribute code of a region. -/
def Region.attr (r : Region) : BitVec 16 := BitVec.ofNat 16 r.code

/-- R364: whether a region needs a frame in a retired layer group, or holds a retired page (R452). -/
def Sys.needsRetired (y : Sys) (ctx : Nat) (dies : List Nat) (r : Region) : Bool :=
  (codeCC r.attr && (List.range (r.size / 2 ^ 21)).any fun k => (ccFrame dies r k).any y.offline) ||
    (codeRlg r.attr != 0 && (List.range 8).all fun s => y.offline (stackBytes * s + 2 ^ 27 * (codeRlg r.attr - 1))) ||
    (y.ctx ctx).pages.any fun p => p.state == .retired && p.va < r.base + r.size && r.base < p.va + pageSize p.code

/-- R313: what admission answers to an offer. -/
inductive Verdict where
  | wait
  | refuse (e : Trouble)
  | grant (v : Nat)
  deriving DecidableEq, Repr

/-- R322: whether a variant fits the present occupancy. -/
def Sys.fits (y : Sys) (l : List Section) (dies : List Nat) : Bool :=
  (!isLead l || dies.all fun d => !y.hasLead d) && (ranksOf l dies).all fun r => (y.cluster r).owner.isNone

/-- The bytes that a region adds to the drain classes: not those of its pages that are in one already (R452). -/
def Sys.regionDrain (y : Sys) (ctx : Nat) (r : Region) : Nat :=
  if codeDclass r.attr == 0 then 0
  else
    let have_ := (y.ctx ctx).pages.filter fun p => codeDclass p.code != 0 && r.base ≤ p.va && p.va < r.base + r.size
    r.size - (have_.map fun p => pageSize p.code).sum

/-- The bytes that an object's regions add to the drain classes. -/
def Sys.newDrain (y : Sys) (ctx : Nat) (l : List Section) : Nat := ((regionsOf l).map (y.regionDrain ctx)).sum

/-- R380, R383: whether the envelope takes one more kernel. -/
def Sys.envelope (y : Sys) (ctx : Nat) (l : List Section) (fresh : Bool) : Bool :=
  let own : Frac := (meanOf l y.opNum y.opDen).add { num := -staticPower, den := 1 }
  let peaks := y.bound.foldl (fun (n : Int) x => n + peakOf (y.sections x.2) - staticPower) (peakOf l - staticPower)
  let means := y.bound.foldl (fun (f : Frac) x => f.add (y.excess x.2)) own
  let need := y.controlBytes + y.drained + (if fresh then savePages l * 2 ^ 21 + y.newDrain ctx l else 0)
  staticPower + peaks ≤ 2100 && means.le (y.powerLimit - staticPower) && (y.trust.form != 3 || reserveCarries need y.power.reserve)

/-- R298: whether a saved kernel may be restored under a variant: its compute-capable regions stand where the variant fixes them. -/
def Sys.framesStand (y : Sys) (ctx : Nat) (l : List Section) (dies : List Nat) : Bool :=
  (regionsOf l).all fun r => !codeCC r.attr || (List.range (r.size / 2 ^ 21)).all fun k =>
    ((y.pageAt ctx (r.base + 2 ^ 21 * k)).map (·.pa)) == ccFrame dies r k

/-- R356: whether a die TLB takes the locked entries of more pages. -/
def Sys.tlbRoom (y : Sys) (ctx : Nat) (vas : List Nat) (die : Nat) : Bool :=
  let locked := (y.die die).tlb.filter fun e => e.locked != 0
  let new := vas.filter fun va => !locked.any fun e => e.ctx == ctx && e.va == va
  locked.length + new.length ≤ 12288

/-- R355, R356: whether the die TLBs take the locked entries of a saved kernel. -/
def Sys.locksFit (y : Sys) (back : Option Nat) (dies : List Nat) : Bool :=
  (back.bind y.kern).all fun x => dies.all (y.tlbRoom x.ctx (x.pinned.map (·.va)))

/-- R313, R322, R323: checks 5 and 7 of an offer. None is admitted while firmware invalidates translations (R362). -/
def Sys.verdict (y : Sys) (o : Offer) : Verdict :=
  match SMap.get? y.objs o.obj with
  | none => .refuse (trouble 0x40)
  | some k =>
    let l := k.sections
    let dies := fun v => diesOfMask ((masksOf l).getD v 0)
    let present := (List.range 4).filter fun v => o.varmask.testBit v && !(dies v).isEmpty && (dies v).all y.diePresent
    if present.isEmpty then (if o.back.isSome then .wait else .refuse (trouble 0x4D))
    else
      let placed := present.filter fun v =>
        (if o.back.isSome then y.framesStand k.ctx l (dies v) && y.locksFit o.back (dies v) else (regionsOf l).all fun r => !y.needsRetired k.ctx (dies v) r) &&
          y.fits l (dies v)
      match placed with
      | [] => .wait
      | v :: _ => if !y.tlbBusy && y.envelope k.ctx l o.back.isNone then .grant v else .wait

/-- R313: the first offer on which firmware acts. An offer of effective priority 15 that waits holds back every lower one. -/
def Sys.firstAction (y : Sys) : Bool → List Offer → Option (Offer × Verdict)
  | _, [] => none
  | held, o :: rest =>
    if held && y.effective o.qi < 15 then none
    else
      match y.verdict o with
      | .wait => y.firstAction (held || y.effective o.qi == 15) rest
      | v => some (o, v)

/-! ### Check 6: regions (R356, R425, R452) -/

/-- Regions being pinned: the module, the pages taken, and the number of firmware's next free choice. -/
structure Pinning where
  sys   : Sys
  pages : List Pin
  n     : Nat
  deriving DecidableEq, Repr

/-- R452: a page that a region takes with the code `new`, and that had `old`: a page already taken for an earlier region that overlaps this
one is not taken twice, and keeps what it returns to, or this region's attributes when launch mapped it. -/
def takePin (l : List Pin) (va : Nat) (new old : BitVec 16) : List Pin :=
  if l.any fun p => p.va == va then l.map fun p => if p.va == va && p.new then { p with code := new &&& 0xFFF7 } else p
  else l ++ [{ va := va, code := old, new := false }]

/-- R452: one page of a region. In confidential mode launch maps no frame (Table 16.4, log 161). -/
def pinPage (ctx : Nat) (dies : List Nat) (r : Region) (p : Pinning) (k : Nat) : Except Trouble Pinning :=
  let y := p.sys
  let bad := addrTrouble 0x35 (BitVec.ofNat 64 r.base)
  let code : BitVec 16 := (r.attr &&& 0x7FFF) ||| (if y.trust.conf then 0x8000 else 0)
  let size := pageSize code
  let va := r.base + size * k
  let fixed := if codeCC code then ccFrame dies r k else none
  let pinned := code ||| 8
  if codeCC code && fixed.isNone then .error bad
  else
    match (y.ctx ctx).pages.filter fun q => va < q.va + pageSize q.code && q.va < va + size with
    | [] =>
      let frame := if y.trust.conf then none else match fixed with
        | some pa => if y.isFree pa size then some pa else none
        | none => y.freeFrame size (if codeRlg code == 0 then none else some (codeRlg code - 1)) p.n
      match frame with
      | none => .error bad
      | some pa =>
        if codeRefused code pa then .error bad
        else
          let y := (y.takeFrame pa size ctx .mapped pinned).addPage ctx
            { va := va, pa := pa, code := pinned, state := .mapped, rtag := none, tier := none }
          .ok { sys := y, pages := p.pages ++ [{ va := va, code := code &&& 0xFFF7, new := true }], n := p.n + 1 }
    | [q] =>
      if q.va == va && q.code.extractLsb' 0 2 == code.extractLsb' 0 2 && !codeDD q.code && (q.state == .mapped || q.state == .releasing) &&
          !codeRefused code q.pa && (fixed.isNone || fixed == some q.pa) then
        .ok { p with sys := (y.setPage ctx { q with code := pinned }).recode ctx va pinned, pages := takePin p.pages va code q.code }
      else .error bad
    | _ => .error bad

/-- R356: one region. -/
def pinRegion (ctx : Nat) (dies : List Nat) (p : Pinning) (r : Region) : Except Trouble Pinning :=
  let size := pageSize r.attr
  let bad := addrTrouble 0x35 (BitVec.ofNat 64 r.base)
  let pages := r.size / size
  if !codeOk r.code || codeDD r.attr || r.base % size != 0 || r.size % size != 0 || r.size == 0 || 2 ^ 54 < r.base + r.size ||
      12288 < pages || 256 * 2 ^ 30 < p.sys.drainBytes + p.sys.regionDrain ctx r then
    .error bad
  else (List.range pages).foldlM (pinPage ctx dies r) p

/-- R355, R356: an entry locked in a die TLB. -/
def Sys.lockTlb (y : Sys) (die n : Nat) (e : TlbEntry) : Sys :=
  let y := y.loadTlb die n e
  let d := y.die die
  y.setDie die { d with tlb := d.tlb.map fun x =>
    if x.ctx == e.ctx && x.va == e.va then { x with pa := e.pa, code := e.code, locked := x.locked + 1 } else x }

/-- R356: the pages of a kernel are locked on dies. -/
def Sys.lockPages (y : Sys) (ctx n : Nat) (dies vas : List Nat) : Sys :=
  dies.foldl (fun y d => vas.foldl (fun y va =>
    match y.pageAt ctx va with
    | some p => y.lockTlb d n { ctx := ctx, va := p.va, pa := p.pa, code := p.code, locked := 0 }
    | none => y) y) y

/-- Check 6. -/
def Sys.pinRegions (y : Sys) (ctx n : Nat) (dies : List Nat) (l : List Section) : Except Trouble Pinning := do
  let p ← (regionsOf l).foldlM (pinRegion ctx dies) { sys := y, pages := [], n := n }
  let vas := p.pages.map (·.va)
  need (dies.all (p.sys.tlbRoom ctx vas)) (addrTrouble 0x35 (BitVec.ofNat 64 (((regionsOf l).map (·.base)).headD 0)))
  .ok { p with sys := p.sys.lockPages ctx n dies vas }

/-! ### Binding (R98, R133, R324, R325, R337, R338, R399) -/

/-- TCOORD of a tile task (R338). -/
def tcoordOf (logical die cl core v : Nat) : Word :=
  BitVec.ofNat 64 (core * 2 ^ 41 + cl * 2 ^ 36 + die * 2 ^ 34 + v * 2 ^ 32 + logical * 2 ^ 16 + 8 * cl + core)

/-- The index-store image of a core (R53, R75). -/
def imageOf (bs : Bytes) : SMap (BitVec 16) :=
  let ws := unpackN 16 (bs.length / 2) (leNat bs)
  (List.zip (List.range ws.length) ws).filterMap fun w => if w.2 == 0 then none else some (w.1, BitVec.ofNat 16 w.2)

/-- The routines of a core loaded into its matrix unit (R169). -/
def loadRoutines (l : List Section) (i cl core : Nat) (x : MxUnit) : MxUnit :=
  (l.filter fun s => s.type == 9 && s.u0 == i && s.u1 == cl && s.u2 == core).foldl (fun x s =>
    let h := fieldLe s.data 0 8
    x.load s.u3 (h % 4096) (wordsOf (h / 2 ^ 16 % 2 ^ 13) (s.data.drop 8))) x

/-- R98, R133, R205, Table 7.1: a core at binding; its scratchpad stays within one context (R399). -/
def bindCore (q v i die cl core : Nat) (same : Bool) (l : List Section) (k : Core) : Core :=
  let k := if same then { Core.reset with spad := k.spad } else Core.reset
  match sectionData l 7 i cl core with
  | none => k
  | some bs =>
    let mpc := fieldLe ((sectionData l 8 i cl core).getD []) 0 8
    let ds := chunks 64 ((sectionData l 12 i cl core).getD [])
    { k with
        task := .bound, kernel := some q, index := imageOf bs, mx := loadRoutines l i cl core k.mx,
        descs := List.zip (List.range ds.length) ds,
        csr := { k.csr with mpc := BitVec.ofNat 64 mpc, tcoord := tcoordOf i die cl core v } }

/-- R324, R399: a cluster at binding, with its dictionary; an entry that stands zeroed is the empty bundle (log 168). -/
def bindCluster (q ctx : Nat) (l : List Section) (i cl : Nat) (c : Cluster) : Cluster :=
  let c := if c.last == some ctx then c else Cluster.reset
  { c with
      dict := (dictOf l i cl).foldl (fun m r => SMap.set emptyBundleBits m r.1 r.2) c.dict, owner := some q, last := some ctx,
      keys := some ctx }

/-- One occupied cluster bound with its cores. -/
def Sys.bindAt (y : Sys) (q ctx v : Nat) (l : List Section) (i die cl : Nat) : Sys :=
  let r := 20 * die + cl
  let y := { y with saved := y.saved.map fun (s : Nat × Saved) => (s.1, { s.2 with retained := s.2.retained.erase die }) }
  let same := (y.cluster r).last == some ctx
  let y := y.setCluster r (bindCluster q ctx l i cl (y.cluster r))
  (List.range 8).foldl (fun y n => y.setCore (8 * r + n) (bindCore q v i die cl n same l (y.core (8 * r + n)))) y

/-- R324: the stacks of a lead kernel: timelines, descriptors and channel stores. -/
def Sys.bindStack (y : Sys) (q : Nat) (l : List Section) (dies : List Nat) (k : Nat) : Sys :=
  if (sectionData l 10 k 0 0).isNone then y
  else
    let n := physStack dies k
    let x := y.stk n
    let store := fun (p : Nat) =>
      let ws := channelOf l k p
      (List.zip (List.range ws.length) ws).foldl (fun m w => SMap.set nbEndWord m w.1 w.2) []
    y.setStk n
      { x with kernel := some q, prog := timelineOf l k, descs := engineDescsOf l k, pos := 0, seam := none, seams := 0,
               pchs := (List.range 64).map fun p => (p, { x.pch p with store := store p }) }

/-- R318, R452: the initial contents of the regions. -/
def Sys.fillRegions (y : Sys) (ctx n : Nat) (l : List Section) : Sys :=
  (regionsOf l).foldl (fun y r =>
    if r.init == 0xFFFF then y
    else y.vaWrite ctx r.base n ((sectionData l 13 (r.init % 256) (r.init / 256) 0).getD [])) y

/-- R324: the first start cycle at least 256 cycles after the last binding write. -/
def startCycle (g : Nat) : Nat := (g + 256 + 4095) / 4096 * 4096

/-- R340: the signal words of a queue at the binding of an entry's first kernel. -/
def Sys.resetSignals (y : Sys) (qi : Nat) (launch : Option Nat) : Sys :=
  let clear := fun (y : Sys) => y.onQueue qi fun q => { q with sigs := [], pubs := [], raises := [] }
  match launch, (y.queue qi).map fun q => entryObj q.entry with
  | some _, some h =>
    match SMap.get? y.graphs h with
    | some g => if g.bound then y else clear { y with graphs := SMap.put y.graphs h { g with bound := true } }
    | none => y
  | _, _ => clear y

/-- R324: a kernel in binding is bound: everything of it is loaded, and every die holds S. -/
def Sys.bindKernel (y : Sys) (q n : Nat) (x : Kernel) : Sys :=
  let l := y.sections x
  let s := startCycle (y.kernelNow x)
  let y := (List.zip (List.range x.dies.length) x.dies).foldl (fun y d =>
    (clustersIn l d.1).foldl (fun y c => y.bindAt q x.ctx x.variant l d.1 d.2 c) y) y
  let y := (List.range (2 * x.dies.length)).foldl (fun y k => y.bindStack q l x.dies k) y
  let y := y.onCoresOf q fun k => { k with start := s }
  let y := (y.fillRegions x.ctx n l).resetSignals x.queue x.launch
  ((y.setKern q { x with state := .bound, start := s, readyAt := s }).settleContext x.ctx).rearm

/-- R325: the dies of a kernel that are ahead of the one that is furthest behind are held for the difference. -/
def Sys.equaliseDies (y : Sys) (ds : List Nat) : Sys :=
  let low := ds.foldl (fun m d => Nat.min m (y.die d).gnomon) ((y.die (ds.headD 0)).gnomon)
  let ahead := ds.filter fun d => low < (y.die d).gnomon && (y.die d).run == .running
  let y := y.holdDies ahead
  ahead.foldl (fun y d => y.setDie d { y.die d with equalise := (y.die d).gnomon - low }) y

/-- R325: whether the copies of dies are equal and run. -/
def Sys.equal (y : Sys) (ds : List Nat) : Bool :=
  ds.all fun d => (y.die d).gnomon == (y.die (ds.headD 0)).gnomon && (y.die d).run == .running

/-- An admitted launch: check 6, then the kernel with its clusters and its save area at `save` (R301, R313, R321, R323). -/
def Sys.admitOffer (y : Sys) (o : Offer) (v n save : Nat) (k : KObj) : Except Trouble Sys := do
  let l := k.sections
  let dies := diesOfMask ((masksOf l).getD v 0)
  let p ← y.pinRegions k.ctx n dies l
  let q := p.sys.nextId
  let x : Kernel :=
    { state := .binding, ctx := k.ctx, queue := o.qi, obj := o.obj, arg := BitVec.ofNat 64 o.arg, variant := v, dies := dies,
      lead := isLead l, start := 0, readyAt := 0, holds := Holds.none, stop := none, barriers := [], rings := [], ops := [],
      succ := [], pinned := p.pages, status := 0, cause := 0, saving := none, lost := false, launch := o.launch, save := save }
  let z := { p.sys with nextId := q + 1 }.setKern q x
  let z := (ranksOf l dies).foldl (fun z r => z.setCluster r { z.cluster r with owner := some q }) z
  let z := match o.launch, (z.queue o.qi).map fun c => entryObj c.entry with
    | some i, some h =>
      (match SMap.get? z.graphs h with
      | some g => { z with graphs := SMap.put z.graphs h { g with begun := g.begun ++ [i] } }
      | none => z)
    | _, _ => z.onQueue o.qi fun c => { c with state := .running }
  .ok ((z.settleContext k.ctx).rearm.equaliseDies dies)

/-- R313, R321 to R325: LAUNCH_ADMISSION: firmware first finishes a binding under way whose copies are equal, and holds dies that
are ahead; otherwise it acts on the first offer that it admits or refuses. A launch for whose save area no frame is free waits. -/
def execLaunchAdmission (s : State) : Out :=
  let n := s.fresh
  match s.cur.kernels.find? fun x => x.2.state == .binding && !SMap.has s.cur.saved x.1 && s.cur.equal x.2.dies with
  | some (q, x) => .next { s with cur := s.cur.bindKernel q n x, fresh := n + 1 }
  | none =>
    let s := s.onCur fun y => (y.kernels.filter fun x => x.2.state == .binding).foldl (fun y x =>
      if x.2.dies.all fun d => (y.die d).run == .running then y.equaliseDies x.2.dies else y) y
    if !s.cur.admissionOpen then .next s
    else
      match s.cur.firstAction false s.cur.offers with
      | none => .next s
      | some (_, .wait) => .next s
      | some (o, .refuse e) =>
        .next (s.onCur fun y => y.finishLaunch o.qi o.launch 3 (BitVec.ofNat 64 e.cause) 0 e.detail)
      | some (o, .grant v) =>
        if o.back.isSome then .next s
        else
          match SMap.get? s.cur.objs o.obj with
          | none => .next s
          | some k =>
            match s.cur.areaFor o.obj n k with
            | none => .next s
            | some (z, save) =>
              match z.admitOffer o v n save k with
              | .ok y => .next { s with cur := y, fresh := n + 1024 }
              | .error e =>
                .next (s.onCur fun y => y.finishLaunch o.qi o.launch 3 (BitVec.ofNat 64 e.cause) 0 e.detail)

end Sys2Proof.Machine
end

