-- ==== Sys2Proof/Machine/SaveArea.lean ====
section
/-! DEFINITION. The bytes of a save area (R300 to R302, R352, Tables 11.6 to 11.10). The forms that the spec leaves open are in log 19. -/

namespace Sys2Proof.Machine

/-- A part of a save area that is written: its offset, its length, and its bytes that are not zero. -/
structure Piece where
  off  : Nat
  len  : Nat
  mem  : Mem
  deriving DecidableEq, Repr

/-- The bytes of a list that are not zero. -/
def sparse (bs : Bytes) : Mem := (List.zip (List.range bs.length) bs).filter fun b => b.2 != 0

/-- A piece given by its bytes. -/
def piece (off : Nat) (bs : Bytes) : Piece := { off := off, len := bs.length, mem := sparse bs }

/-- Bytes moved up in a store. -/
def raised (d : Nat) (m : Mem) : Mem := m.map fun c => (c.1 + d, c.2)

/-- A piece moved up. -/
def Piece.up (d : Nat) (p : Piece) : Piece := { p with off := p.off + d }

/-- Values of a fixed size by number, end to end. -/
def spread (size : Nat) (l : List (Nat × Nat)) : Mem := l.flatMap fun r => raised (size * r.1) (sparse (natLe size r.2))

/-- A range of units of a store, as a piece at its place in a record. -/
def rangePiece (base unit first count : Nat) (m : Mem) : Piece :=
  { off := base + unit * first, len := unit * count, mem := Mem.slice m (unit * first) (unit * count) }

/-- A signed 64-bit difference of cycles. -/
def relBytes (n size : Nat) (a b : Nat) : Bytes := natLe size ((((a : Int) - b) % (2 ^ n : Int)).toNat)

/-! ### The core record (Tables 11.6a to 11.9) -/

/-- The stores of a class that one of the ranges names (Tables 11.7 and 13.4); the word of the predicates holds those of every range of
class 2. -/
def classPiece (k : Core) (ranges : List (Nat × Nat × Nat)) (cls first count : Nat) : Piece :=
  match cls with
  | 1 => rangePiece 0x100 8 first count (spread 8 (k.s.map fun r => (r.1, r.2.toNat)))
  | 2 =>
    let live := fun (i : Nat) => k.preg i && ranges.any fun r => r.1 == 2 && r.2.1 ≤ i && i < r.2.1 + r.2.2
    piece 0x300 (natLe 8 (((List.range 64).map fun i => if live i then 2 ^ i else 0).sum))
  | 3 => rangePiece 0x28000 512 first count (spread 512 (k.v.map fun r => (r.1, r.2.toNat)))
  | 4 => rangePiece 0x340 64 first count (spread 64 ((0, 2 ^ 512 - 1) :: k.k.map fun r => (r.1, r.2.toNat)))
  | 5 => rangePiece 0x200000 64 first count k.spad
  | 6 => rangePiece 0x100000 512 first count k.mx.acc
  | 7 => rangePiece 0x80000 64 first count k.mx.wbuf
  | 8 => rangePiece 0x30000 512 first count k.mx.exch
  | 10 => rangePiece 0x900 16 first count (k.z.flatMap fun r => raised (16 * r.1) (sparse (streamRecord (some r.2))))
  | 11 => rangePiece 0x1000 128 first count (k.slots.flatMap fun r => raised (128 * r.1) (sparse r.2))
  | _ => { off := 0, len := 0, mem := [] }

/-- Every class of a core with all of its store. -/
def allClasses : List (Nat × Nat × Nat) := ([1, 2, 3, 4, 5, 6, 7, 8, 10, 11] : List Nat).map fun c => (c, 0, liveTotal c)

/-- Bytes in whole payload units. -/
def padUnits (bs : Bytes) : Bytes := bs ++ List.replicate ((64 - bs.length % 64) % 64) 0

/-- A bit per byte. -/
def byteMap (l : List Bool) : Bytes := padUnits (natLe ((l.length + 7) / 8) (packN 1 (l.map Bool.toNat)))

/-- TYPE, TARGET and payload of a result in flight (Table 11.6a); an accumulator landing shows its row as it would land now. A vector result
of two cycles is a stream pop's or a die transfer's (R127, R158). A vector still on its way to its XRECV has no register yet: its TARGET is
0x100 plus the sending die (log 19). -/
def inflight (k : Core) (p : Pending) : Nat × Nat × Bytes :=
  match p.dest with
  | .scalar r v => (1, r, padUnits (natLe 8 v.toNat))
  | .pred r b => (2, 0x200 + r, padUnits (natLe 8 b.toNat))
  | .mask n m => (2, 0x400 + n, natLe 64 m.toNat)
  | .csr c v _ => (2, c, padUnits (natLe 8 v.toNat))
  | .vector r v map =>
    if p.land == p.issue + 2 then (9, r, bytesOfVec v)
    else
    let bytes := (List.range 512).map fun j => map.getLsbD (8 * j)
    (3, r, bytesOfVec v ++ byteMap bytes)
  | .store off bs _ => (4, off, padUnits bs ++ byteMap (bs.map fun _ => true))
  | .acc off op _ =>
    let n := op.size
    let now := (op.apply fun m => Mem.read k.mx.acc off m).1
    let row := Mem.read (Mem.write k.mx.acc off now) (off / 512 * 512) 512
    let hit := (List.range 512).map fun j => off ≤ off / 512 * 512 + j && off / 512 * 512 + j < off + n
    (5, off / 512, row ++ byteMap hit)
  | .exch row bs => (6, row, bs)
  | .die d v _ => (9, 0x100 + d, bytesOfVec v)
  | .loopb lc rv rp b => (10, 0, padUnits (natLe 8 lc.toNat ++ natLe 8 rv.toNat ++ natLe 8 rp.toNat ++ natLe 8 b.toNat))

/-- One entry of the in-flight record (R300). -/
def entryBytes (n land : Nat) (e : Nat × Nat × Bytes) : Bytes :=
  natLe 1 e.1 ++ [0] ++ natLe 2 (e.2.2.length / 64) ++ relBytes 32 4 land n ++ natLe 8 e.2.1 ++ e.2.2

/-- The rows that an MDRAIN has read and not yet written, converted, with the cycle, place and bytes of each (R194). -/
def Drain.flying (d : Drain) : List (Nat × Nat × Bytes) :=
  let made := d.rows.map fun r => (r.1, (d.convert r.1 r.2).1)
  ((d.ready.filter fun r => (SMap.get? d.rows r.1).isNone) ++ made).map fun r =>
    (d.start + 4 + r.1, d.dst + drainSlot d.fmt d.srcKind d.zrc * r.1, r.2)

/-- The in-flight record of a core: results, tile loads and drain rows in ascending LAND order, within one LAND in issue order and then in
word order (R300). -/
def inflightRecord (n : Nat) (k : Core) : Bytes :=
  let res := k.pending.map fun p => ([p.land, p.issue, p.word], inflight k p)
  let loads := k.mx.loads.map fun l => ([l.land, l.start, l.word], (7, l.off, padUnits (Mem.read l.got 0 l.size)))
  let rows := match k.mx.drain with
    | some d => d.flying.map fun r => ([r.1, d.start, d.word], (8, r.2.1, padUnits r.2.2))
    | none => []
  let all := sortBy (fun a b => !ageLt b.1 a.1) (res ++ loads ++ rows)
  natLe 4 all.length ++ natLe 4 0 ++ all.flatMap fun e => entryBytes n (e.1.headD 0) e.2

/-- The order of Table 7.2. -/
def SeqState.code : SeqState → Nat
  | .idle => 0 | .armed => 1 | .running => 2 | .paired => 3 | .suspended => 4 | .abandoned => 5

/-- A 64-bit pair descriptor: first row and rows (R195). -/
def pairDesc (p : Pair) : Bytes := natLe 8 p.cluster ++ natLe 4 p.row0 ++ natLe 4 p.nrows

/-- The matrix state (Table 11.9). -/
def matrixPieces (n : Nat) (x : MxUnit) : List Piece :=
  let q := x.seq
  let regs := fun (m : SMap Word) => (List.range 8).flatMap fun i => natLe 8 (SMap.getD m i 0).toNat
  let a := match q.astr with
    | some a => natLe 8 a.base.toNat ++ natLe 8 a.stride ++ natLe 2 a.fmt ++ natLe 2 a.rows ++ natLe 4 a.next ++ natLe 4 a.gen ++
        natLe 4 a.genImm.toNat
    | none => List.replicate 32 0
  let seq := q.st.code + 8 * q.index + 2 ^ 20 * q.routine + 2 ^ 32 * q.cycles
  let d := match x.drain with
    | some d => natLe 4 d.src ++ natLe 4 d.dst ++ natLe 4 d.nrows ++ natLe 4 (d.fmt + 16 * d.mode + 256 * d.sat.toNat + 512 * d.zrc.toNat + 1024 * d.srcKind) ++
        natLe 8 d.done ++ relBytes 64 8 d.start n
    | none => List.replicate 32 0
  [{ off := 0xA000, len := 1024, mem := spread 4 (x.table.map fun t => (t.1, t.2.1 + 2 ^ 16 * t.2.2 + 2 ^ 31)) },
   piece 0xA400 (regs x.params ++ regs q.params ++ natLe 8 seq ++ ((List.range 8).flatMap fun i => natLe 4 (SMap.getD q.loops i 0)) ++ a ++
     (natLe 8 (q.sae.toNat + 2 * q.sbe.toNat + 4 * q.isat.toNat) ++ natLe 4 q.sb0.toNat ++ natLe 4 q.sb1.toNat) ++ natLe 32 x.pattern.toNat ++
     natLe 8 (x.btile.kind + 256 * x.btile.fmt)),
   piece 0xA500 (((List.range 16).flatMap fun i => natLe 4 (x.mqueue.getD i 0).toNat) ++ natLe 4 x.mqueue.length ++ natLe 4 x.mmode ++
     natLe 8 x.m.toNat ++ natLe 8 x.seeded.toNat ++ (match x.arm with | some p => pairDesc p | none => List.replicate 16 0) ++ d ++
     List.replicate 6776 0)]

/-- The progress of a copy (R231, Table 11.8), after its kept descriptor. -/
def copyBytes (n : Nat) (c : Copy) : Bytes :=
  let d := copyDesc c.desc
  let k := (List.range d.n).findIdx fun i => decide (n ≤ c.start + copyW c.conf d i)
  let first := if d.exp then k / 16 * 16 else k
  c.desc ++ natLe 8 (1 + 2 * c.kind + 16 * c.slot) ++ relBytes 64 8 c.start n ++ natLe 8 first ++ natLe 8 c.hlen ++
    (c.hash.flatMap fun w => natLe 4 w.toNat) ++ List.replicate (32 - 4 * c.hash.length) 0 ++ natLe 8 c.cmp ++ natLe 8 c.raddr ++
    List.replicate 48 0

/-- TASK of Table 11.7. -/
def taskWord (k : Core) (partner : Nat) : Nat :=
  let st := match k.task with | .bound => 0 | .halted => 2 | _ => 1
  match k.mx.routines.find? fun q => q.st == .abandoned with
  | some q => st + 256 + 2 ^ 16 * q.routine + 2 ^ 24 * partner
  | none => st

/-- The CSRs of Table 11.7 in their order. -/
def Csrs.list (f : Csrs) : List Word :=
  [f.vsh, f.lc, f.rotv, f.rotp, f.mpc, f.seed, f.qmod, f.qinv, f.rmode, f.fflags, f.outst, f.tcoord, f.fcause, f.fbix, f.stepno]

/-- WINDOW of Table 11.7, with the link value of +0x28. -/
def windowWords (n : Nat) : Option Window → Nat × Word
  | some w =>
    (w.target + 2 ^ 18 * (w.issued + 4 - n) + 2 ^ 20 * w.transfer.toNat + 2 ^ 21 * ((w.link.map (·.1)).getD 0), (w.link.map (·.2)).getD 0)
  | none => (0, 0)

/-- The first 256 bytes of a core record. -/
def headPiece (n partner : Nat) (k : Core) : Piece :=
  let w := windowWords n k.window
  piece 0 (natLe 8 (taskWord k partner) ++ natLe 8 k.bundlePos ++ natLe 8 k.idle ++ natLe 8 w.1 ++ relBytes 64 8 k.start n ++
    natLe 8 w.2.toNat ++ List.replicate 16 0 ++ (k.csr.list.flatMap fun v => natLe 8 v.toNat) ++ List.replicate 72 0)

/-- The parts of a core record that only a bundle-boundary save writes, besides the stores (R295, R296). -/
def fullPieces (n : Nat) (k : Core) : List Piece :=
  let done := (List.range 16).flatMap fun i => match SMap.get? k.slotDone i with
    | some c => relBytes 64 8 c n
    | none => List.replicate 8 0
  [{ off := 0x800, len := 256, mem := spread 8 (k.bfmt.map fun r => (r.1, r.2.toNat)) },
   piece 0x1800 (done ++ List.replicate 1920 0), { off := 0x2000, len := 0x8000, mem := sparse (k.copies.flatMap (copyBytes n)) }] ++
  matrixPieces n k.mx ++
  [{ off := 0xC000, len := 0xC000, mem := k.mx.btile.bytes }, { off := 0x18000, len := 0x10000, mem := spread 2 k.tags },
   { off := 0x40000, len := 0x20000, mem := sparse (inflightRecord n k) },
   { off := 0x60000, len := 0x8000, mem := spread 8 ((List.range 4096).filterMap fun i =>
       let w := SMap.getD k.mx.store i mxEndWord
       if w == 0 then none else some (i, w.toNat)) }]

/-- R371: the landing windows, which every save writes. -/
def windowPiece (k : Core) : Piece :=
  piece 0x980 ((List.range 16).flatMap fun i => match SMap.get? k.wins i with
    | some w => w.block
    | none => List.replicate 64 0)

/-- The core record (Table 11.7). A step-point save writes the CSRs, the tile task's own words, the windows (R371, Table 25.6) and the ranges
that the live map names, and no more (R295, log 85). -/
def corePieces (n : Nat) (full : Bool) (ranges : List (Nat × Nat × Nat)) (partner : Nat) (k : Core) : List Piece :=
  headPiece n partner k :: windowPiece k ::
    ((if full then fullPieces n k else []) ++ ranges.map fun r => classPiece k ranges r.1 r.2.1 r.2.2)

/-! ### Cluster and stack records (R352, Table 11.10) -/

/-- The dictionary with its 48-byte entries; entry 0 is zero. -/
def dictMem (c : Cluster) : Mem :=
  spread 48 ((List.range 8191).map fun i => (i + 1, (SMap.getD c.dict (i + 1) emptyBundleBits).toNat))

/-- The cluster record; `ops` are the pending operations of its cores. -/
def clusterPieces (n : Nat) (ranges : List (Nat × Nat)) (ops : List SyncOp) (c : Cluster) : List Piece :=
  let entry := fun (o : SyncOp) => natLe 8 o.value.toNat ++ relBytes 32 4 o.count n ++ natLe 1 (o.core % 8) ++ natLe 1 o.op ++ natLe 2 0
  [{ off := 0, len := 0x60000, mem := dictMem c },
   { off := 0x60000, len := 0x20000, mem := sparse (natLe 8 ops.length ++ ops.flatMap entry) }] ++
  ranges.map fun r => rangePiece 0x80000 64 r.1 r.2 c.l2

/-- One pseudo-channel of the stack record; of a step-point save the split and the debts alone. -/
def pchBytes (rises : Nat) (full : Bool) (reopen : List (Nat × Nat)) (c : Pch) : Bytes :=
  let c := if full then c else { c with nbFlag := false, loopc := 0, queue := [] }
  let entry := fun (i : NbIssue) => natLe 4 i.lg ++ natLe 4 i.g0 ++ natLe 4 i.start ++ natLe 4 i.tick
  let issues := (c.queue.take 4).flatMap entry ++ List.replicate (16 * (4 - c.queue.length)) 0
  let rows := (List.range 64).flatMap fun b => natLe 2 (((reopen.find? fun r => r.1 == b).map (·.2)).getD 0xFFFF)
  let debts := (List.range 64).map fun b => BitVec.ofInt 8 ((SMap.getD c.banks b Bank.reset).debt + rises)
  let bs := natLe 1 c.split ++ natLe 1 c.nbFlag.toNat ++ natLe 2 0 ++ natLe 4 c.loopc ++ issues ++ rows ++ debts
  bs ++ List.replicate (512 - bs.length) 0

/-- The near-bank state of a pseudo-channel: latches, broadcast registers, slot data and slot places. -/
def nearMem (c : Pch) : Mem :=
  c.units.flatMap fun u =>
    let lat := u.2.lat.flatMap fun l => raised (64 * l.1) (sparse (natLe 64 l.2.toNat))
    let data := u.2.slots.flatMap fun l => raised (1056 + 64 * l.1) (sparse l.2.2.2)
    let place := u.2.slots.flatMap fun l => raised (2080 + 8 * l.1) (sparse (natLe 8 (l.2.1 + 2 ^ 16 * l.2.2.1 + 2 ^ 32)))
    raised (0x900 * u.1) (lat ++ raised 1024 (sparse (natLe 32 u.2.bc.toNat)) ++ data ++ place)

/-- The stack record (Table 11.10); a step-point save writes position, splits, debts and channel stores only (R295). -/
def stackPieces (rel : Nat) (full : Bool) (x : Stack) : List Piece :=
  let p := fun (i : Nat) => SMap.getD x.pchs i Pch.reset
  let rows := fun (i : Nat) => (x.reopen.filter fun r => r.1 == i).map fun r => (r.2.1, r.2.2)
  let store := fun (i : Nat) => (List.range 256).map fun j => (256 * i + j, (SMap.getD (p i).store j nbEndWord).toNat)
  let entry := fun (l : Nat × Nat × Nat × Bytes) => natLe 1 l.1 ++ natLe 3 l.2.1 ++ relBytes 32 4 l.2.2.1 rel ++ l.2.2.2
  let lands := (x.lands.map fun l => entry (l.cluster, l.line, l.cycle, l.bytes.getD (List.replicate 64 0))) ++
    x.engines.flatMap fun e => e.out.map fun l => entry (l.1, l.2.1, e.cycle, l.2.2)
  [piece 0 (natLe 8 x.pos ++ natLe 8 (2 * rel) ++ natLe 8 (x.seams - 1) ++ List.replicate 4072 0),
   piece 0x1000 ((List.range 64).flatMap fun i => pchBytes x.rises full (if full then rows i else []) (p i)),
   { off := 0x10000, len := 0x10000, mem := spread 4 ((List.range 64).flatMap store) }] ++
  if full then
    [{ off := 0x20000, len := 0x40000, mem := sparse (natLe 8 lands.length ++ lands.flatten) },
     { off := 0x100000, len := 0x900000, mem := (List.range 64).flatMap fun i => raised (0x24000 * i) (nearMem (p i)) }]
  else []

/-! ### The header (R301, R352, Table 11.6) -/

/-- The barrier table. -/
def barTab (x : Kernel) : Bytes :=
  (List.range 64).flatMap fun n =>
    let b := x.barrier n
    natLe 4 b.done ++ natLe 2 b.arr ++ natLe 2 (b.exp.getD 0) ++ natLe 2 b.arrn ++ natLe 2 (b.expn.getD 0) ++
      natLe 1 (b.remote.toNat + 2 * b.remoten.toNat) ++ natLe 3 0

/-- The stage-ring table. -/
def ringTab (x : Kernel) : Bytes :=
  (List.range 512).flatMap fun n =>
    let r := x.slot n
    natLe 2 (r.owner.getD 0x3FF + 2 ^ 14 * r.mode + 2 ^ 15 * r.full.toNat)

/-- The header. -/
def headerBytes (x : Kernel) (r : Saved) : Bytes :=
  let core := (r.cores.head?.map (·.2)).getD Core.reset
  let flags := r.valid.toNat + 2 * r.lost.toNat + 4 * r.mc.toNat + 8 * r.pairOpen.toNat
  let detail := ((r.stop.bind (·.report)).map (·.detail)).getD []
  let more := (r.stop.map (·.more)).getD false
  let frec := ((List.range 3).flatMap fun i => natLe 4 (detail.getD i 0)) ++ natLe 1 more.toNat ++ List.replicate 19 0
  let nc := r.cores.length
  let ncl := r.clusters.length
  natLe 4 0x4E395341 ++ natLe 2 1 ++ natLe 2 (if r.step.isSome then 1 else 2) ++ natLe 4 x.ctx ++ natLe 4 flags ++ natLe 8 r.stepno ++
    relBytes 64 8 r.boundary x.start ++ natLe 1 ((x.dies.map fun d => 2 ^ d).sum) ++ natLe 1 x.variant ++ natLe 6 0 ++
    natLe 8 core.csr.fcause.toNat ++ frec ++ natLe 4 nc ++ natLe 4 ncl ++ natLe 4 r.stackRecs.length ++ natLe 4 0 ++ natLe 8 4096 ++
    natLe 8 (4096 + nc * 2 ^ 22) ++ natLe 8 (4096 + nc * 2 ^ 22 + ncl * 8912896) ++ natLe 8 0 ++ barTab x ++ ringTab x ++
    List.replicate 1920 0

/-! ### Writing (R297) -/

/-- The cells of a list that stand in rising order, without those that hold what an unlisted address reads as: a memory, whatever the
list. -/
def canonical (l : List Host.Cell) : Mem :=
  l.foldr (fun c m =>
    let below := match m with | [] => true | d :: _ => decide (c.1 < d.1)
    if c.2 != memDefault && below then c :: m else m) []

/-- The units of a piece written to the pages of a context. -/
def Sys.putPiece (y : Sys) (ctx va : Nat) (p : Piece) : Sys :=
  match y.vaParts ctx (va + p.off) p.len (p.len / 4096 + 3) with
  | none => y
  | some l =>
    (l.foldl (fun (a : Sys × Nat) e =>
      let pa := e.1.pa + e.2.1
      let new := canonical (raised pa (Mem.slice p.mem a.2 e.2.2))
      let hbm := a.1.hbm
      let put : Sys := { a.1 with hbm := (hbm.filter fun c => c.1 < pa) ++ new ++ hbm.filter fun c => pa + e.2.2 ≤ c.1 }
      (put.resealed pa e.2.2, a.2 + e.2.2)) (y, 0)).1

/-- R301: in confidential mode a save area is enciphered under the context's XTS keys; the data-unit numbers are not given and are free
(log 9). -/
def Sys.putCipher (y : Sys) (ctx va n : Nat) (p : Piece) : Sys :=
  let keys := hkdf (y.ctx ctx).mkey [] (ascii "N9 xts") 64
  let a := p.off / 64 * 64
  let len := (p.off + p.len + 63) / 64 * 64 - a
  let unit := fun (j : Nat) => Config.saveUnit ((va + a) / 64 + j)
  let each := fun (enc : Bool) (bs : Bytes) =>
    (List.zip (List.range (len / 64)) (chunks 64 bs)).flatMap fun c => xts enc keys (unit c.1) c.2
  let old := each false ((y.vaRead ctx (va + a) len).getD (List.replicate len 0))
  let new := old.take (p.off - a) ++ Mem.read p.mem 0 p.len ++ old.drop (p.off - a + p.len)
  y.vaWrite ctx (va + a) n (each true new)

/-- The number of the routine that is paired with a core's abandoned one, in the record of its partner (Table 11.7). -/
def partnerOf (r : Saved) (c : Nat × Core) : Nat :=
  match (c.2.mx.routines.find? fun q => q.st == .abandoned).bind fun q => q.pair.map fun p => (q.called, p) with
  | some (t, p) =>
    let other := ((SMap.get? r.cores (c.1 / 160 * 160 + 8 * p.cluster + c.1 % 8)).map (·.mx.routines)).getD []
    ((other.find? fun q => q.called == t).map (·.routine)).getD 0
  | none => 0

/-- The pieces of a save, in the order in which they are written: records first, then the header, and VALID last of all. -/
def savePieces (l : List Section) (x : Kernel) (r : Saved) : List Piece :=
  let n := r.boundary
  let live := fun (i : Nat) => (r.step.map fun k => liveOf l i k).getD []
  let ranges := fun (i cl c : Nat) =>
    if r.step.isSome then ((live i).filter fun e => e.cl == cl && e.core == c && e.cls != 9).map fun e => (e.cls, e.first, e.count)
    else allClasses
  let lines := fun (i cl : Nat) =>
    if r.step.isSome then ((live i).filter fun e => e.cl == cl && e.cls == 9).map fun e => (e.first, e.count) else [(0, 131072)]
  let cores := (List.zip (List.range r.cores.length) r.cores).flatMap fun e =>
    (corePieces n r.step.isNone (ranges (e.2.1 / 160) (e.2.1 % 160 / 8) (e.2.1 % 8)) (partnerOf r e.2) e.2.2).map (Piece.up (4096 + e.1 * 2 ^ 22))
  let o1 := 4096 + r.cores.length * 2 ^ 22
  let ops := fun (i : Nat) => x.ops.filter fun o => o.op != 4 && x.logicalCluster (clusterOf o.core) == i
  let clusters := (List.zip (List.range r.clusters.length) r.clusters).flatMap fun e =>
    (clusterPieces n (lines (e.2.1 / 20) (e.2.1 % 20)) (ops e.2.1) e.2.2).map (Piece.up (o1 + e.1 * 8912896))
  let o2 := o1 + r.clusters.length * 8912896
  let stks := (List.zip (List.range r.stackRecs.length) r.stackRecs).flatMap fun e =>
    (stackPieces (n - x.start) r.step.isNone e.2.2).map (Piece.up (o2 + e.1 * 2 ^ 24))
  cores ++ clusters ++ stks ++ [piece 0 (headerBytes x { r with valid := false }), piece 0 (headerBytes x r)]

/-- R297: the save area of a kernel is written. -/
def Sys.writeSave (y : Sys) (n : Nat) (x : Kernel) (r : Saved) : Sys :=
  match SMap.get? y.objs x.obj with
  | none => y
  | some k =>
    (savePieces k.sections x r).foldl (fun y p =>
      if y.trust.conf then y.putCipher x.ctx x.save n p else y.putPiece x.ctx x.save p) y

end Sys2Proof.Machine
end

