-- ==== Sys2Proof/Machine/LinkHold.lean ====
section
/-! DEFINITION. Data, holding and rejoining on the link (R369 to R377, R387): the flits that change the windows of running and of saved
kernels, and the keying and the loss of ports. -/

namespace Sys2Proof.Machine

/-- The windows of a core, changed through the landing port where `f` changes them. -/
def Core.mapWins (k : Core) (f : LandWin → Option LandWin) : Core :=
  k.wins.foldl (fun k w => match f w.2 with | some v => k.landing fun k => k.putWin w.1 v | none => k) k

/-- A saved kernel with its records replaced; its save area follows. -/
def Sys.resave (y : Sys) (free q : Nat) (r : Saved) : Sys :=
  let y := { y with saved := SMap.put y.saved q r }
  match y.kern q with
  | some x => y.writeSave free x r
  | none => y

/-- Every core and every core of a saved kernel, changed; a saved kernel's save area follows. -/
def Sys.mapCores (y : Sys) (free : Nat) (g : Core → Core) : Sys :=
  let z : Sys := { y with cores := y.cores.map fun c => (c.1, g c.2) }
  z.saved.foldl (fun (y : Sys) r =>
    let r' := { r.2 with cores := r.2.cores.map fun c => (c.1, g c.2) }
    if r' == r.2 then y else y.resave free r.1 r') z

/-- The windows of every core and of every saved kernel, changed. -/
def Sys.mapWins (y : Sys) (free : Nat) (f : LandWin → Option LandWin) : Sys := y.mapCores free fun k => k.mapWins f

/-! ### Data flits (R372, R373, R385) -/

/-- Whose window a data flit fills: a core's, or that of a core of a saved kernel, by kernel and logical number. -/
inductive WinPlace where
  | core (c : Nat)
  | saved (q c : Nat)
  deriving DecidableEq, Repr

/-- The core that a window belongs to, as it stands or as it was saved. -/
def Sys.coreAt (y : Sys) : WinPlace → Core
  | .core c => y.core c
  | .saved q c => (((SMap.get? y.saved q).bind fun r => SMap.get? r.cores c)).getD Core.reset

/-- The core that a window belongs to, changed through its landing port; a saved one changes in its save area (log 155). -/
def Sys.landAt (y : Sys) (free : Nat) (f : Core → Core) : WinPlace → Sys
  | .core c => y.setCore c ((y.core c).landing f)
  | .saved q c =>
    match SMap.get? y.saved q with
    | none => y
    | some r => y.resave free q { r with cores := SMap.put r.cores c (f (SMap.getD r.cores c Core.reset)) }

/-- R372: the window that a flit for core number `n` may fill, among bound cores first and then among those of saved kernels. -/
def Sys.winPlace (y : Sys) (n : Nat) (f : Core → Bool) : Option WinPlace :=
  match y.coreNumbered n f with
  | some c => some (.core c)
  | none => y.saved.findSome? fun r => (r.2.cores.find? fun k => k.2.number == n && f k.2).map fun k => .saved r.1 k.1

/-- A report at a core of a saved kernel, by its logical number (R290, R291). -/
def Sys.savedReport (y : Sys) (q c cause : Nat) (detail : List Nat) : Report :=
  let die := (((y.kern q).map (·.dies)).getD []).getD (c / 160) 0
  { rank := 3, late := false, die := die, cluster := c / 8 % 20, core := c % 8, word := 0, cause := cause, detail := detail, pos := none,
    kernel := some q }

/-- A saved kernel takes a fault, with which its restore ends (R387, R393). One that was saved after a fault keeps that one. -/
def Sys.faultSaved (y : Sys) (free q : Nat) (rep : Report) : Sys :=
  match SMap.get? y.saved q with
  | none => y
  | some r =>
    if (r.stop.bind (·.report)).isSome then y
    else
      let fc := fcauseWord .fault (some rep) false
      let mark := fun (k : Core) => { k with csr := { k.csr with fcause := fc, fbix := BitVec.ofNat 64 k.bundlePos } }
      let t : Stop :=
        { kind := .fault, boundary := r.boundary, hub := y.hub, inval := none, report := some rep, more := false, collateral := false }
      y.resave free q { r with stop := some t, cores := r.cores.map fun k => (k.1, mark k.2) }

/-- R372: the contribution of a window counts, for a saved kernel at once (R345, log 155). -/
def contributeAt (s : State) (v : Word) : WinPlace → State
  | .core c => contribute s c v
  | .saved q c =>
    match s.cur.kern q, SMap.get? s.cur.saved q with
    | some x, some r =>
      let n := (SMap.getD r.cores c Core.reset).number
      let o : SyncOp := { count := r.boundary, issue := r.boundary, core := 160 * x.dies.getD (c / 160) 0 + c % 160, op := 4, value := v }
      match x.countNow n o with
      | some x => s.onCur fun y => (y.setKern q x).resave s.fresh q r
      | none => s.onCur fun y => y.faultSaved s.fresh q (y.savedReport q c 0x1F (syncTrouble v).detail)
    | _, _ => s

/-- R372: the final flit: CSUM is checked against the plaintext, and the transfer is accepted or its granules are poisoned. -/
def finishTransfer (s : State) (f : Flit) (at_ : WinPlace) (win : Nat) (w : LandWin) (text : Bytes) : State :=
  if crc32c text == f.csum then
    let s := s.onCur fun y =>
      let y := y.landAt s.fresh (fun k => k.putWin win (w.change 3 w.rcvd (fieldLe w.block 40 4))) at_
      let y := { y with link := { y.link with colls := SMap.put y.link.colls w.coll (Nat.max (y.lastStep w.coll) w.step) } }
      y.sendFlit s.unit (flitOf kindAck f.xfer.toNat)
    if w.bar == 0 then s else contributeAt s w.bar at_
  else
    s.onCur fun y =>
      let y := y.landAt s.fresh (fun k => (k.poisonWin w).putWin win ({ w with written := [] }.change 4 w.rcvd (fieldLe w.block 40 4))) at_
      y.sendFlit s.unit (flitOf kindBad f.xfer.toNat)

/-- R372: the granules of a data flit in the window that takes it. -/
def fillWindow (s : State) (f : Flit) (inc : Incoming) (rest : List Incoming) (at_ : WinPlace) (win : Nat) (w : LandWin) : State :=
  let setIn := fun (s : State) (l : List Incoming) => s.onCur fun y => { y with link := { y.link with incoming := l } }
  let gs := (List.range 3).filter fun j => f.goff.toNat + j < w.ngran
  let inc := { inc with got := gs.foldl (fun m j => SMap.put m (f.goff.toNat + j) ((f.data.drop (64 * j)).take 64)) inc.got }
  let w := { w with written := (w.written ++ gs.map fun j => f.goff.toNat + j).eraseDups }
  let w := w.change (if w.state == 6 then 6 else 2) inc.got.length (fieldLe w.block 40 4)
  let write := fun (k : Core) =>
    (gs.foldl (fun (k : Core) j => k.landGranule (w.granuleAt (f.goff.toNat + j)) w.tag ((f.data.drop (64 * j)).take 64)) k).putWin win w
  let t := s.onCur fun y => y.landAt s.fresh write at_
  if f.last then
    finishTransfer (setIn t rest) f at_ win w ((List.range w.ngran).flatMap fun j => SMap.getD inc.got j (List.replicate 64 0))
  else setIn t (rest ++ [inc])

/-- R372: a data flit that has been accepted. -/
def takeData (f : Flit) (s : State) : Out :=
  let xfer := f.xfer.toNat
  let win := f.win.toNat
  let mine := fun (x : Incoming) => x.port == s.unit && x.xfer == xfer && x.dcore == f.dcore.toNat && x.win == win
  let before := s.cur.link.incoming.find? mine
  let rest := s.cur.link.incoming.filter fun x => !mine x
  let setIn := fun (s : State) (l : List Incoming) => s.onCur fun y => { y with link := { y.link with incoming := l } }
  let found := s.cur.winPlace f.dcore.toNat fun k => (SMap.get? k.wins win).any fun w => w.takes xfer
  let blank : Incoming :=
    { port := s.unit, peer := ((s.cur.port s.unit).peer).getD 0, xfer := xfer, dcore := f.dcore.toNat, win := win, refused := false,
      got := [] }
  let inc := before.getD { blank with refused := found.isNone }
  if inc.refused then
    let t := setIn s (if f.last then rest else rest ++ [inc])
    .next (if before.isNone then t.onCur fun y => y.sendFlit t.unit (flitOf kindRefusal xfer) else t)
  else
    match found with
    | none => .next (setIn s (if f.last then rest else rest ++ [inc]))
    | some at_ =>
      match SMap.get? (s.cur.coreAt at_).wins win with
      | none => .next s
      | some w => .next { fillWindow s f inc rest at_ win w with fresh := s.fresh + 1 }

/-- R369, R372, R385: FLIT_TRANSFER_DATA. One ahead of the SEQ expected is asked for again, and one behind it is a duplicate. While this
module holds, its own step recorded, data is discarded without an answer, and comes again after the rejoin. -/
def execFlitTransferData (f : Flit) (s : State) : Out :=
  let x := s.cur.port s.unit
  if x.usable && f.seq.toNat != x.rxSeq then
    .next (if f.seq.toNat < x.rxSeq then s else s.onCur fun y => y.setPort s.unit (x.askAgain false))
  else onNewFlit s fun s => if x.ownHold then .next s else takeData f s

/-! ### Holding and rejoining (R375, R377, R387, R393) -/

/-- The step that a list of steps gives for a collective. -/
def heldStep (steps : List (Nat × Nat)) (coll : Nat) : Option Nat := (steps.find? fun c => c.1 == coll).map (·.2)

/-- R375: a window of the holding peer: one that is open or filling takes WSTATE 6, and PSTEP as the hold flits give it. -/
def LandWin.hold (w : LandWin) (steps : List (Nat × Nat)) : Option LandWin :=
  if w.state == 1 || w.state == 2 then some (w.change 6 w.rcvd ((heldStep steps w.coll).getD 0))
  else if w.state == 6 then (heldStep steps w.coll).map (w.change 6 w.rcvd)
  else none

/-- R375: FLIT_HOLD. A peer with more collectives than one flit holds sends several (log 156). -/
def execFlitHold (steps : List (Nat × Nat)) (s : State) : Out :=
  onNewFlit s fun s =>
    let x := s.cur.port s.unit
    let t := s.onCur fun y =>
      y.setPort s.unit { x with state := .answeringHold, peerHold := some (x.peerHold.getD [] ++ steps) }
    .next { t.onCur fun y => y.mapWins s.fresh fun w => if some w.peer == x.peer then w.hold steps else none with fresh := s.fresh + 1 }

/-- R374, R377: a port whose hold has ended: the transfers sent before it that the peer had not accepted are sent again, and then its buffered
flits in their order. -/
def Sys.release (y : Sys) (p : Nat) : Sys :=
  let x := y.port p
  let y := y.setPort p { x with state := .keyed, peerHold := none, ownHold := false, held := [] }
  let again := y.link.transfers.filter fun z => z.port == p && z.sent && !x.held.any fun f => f.xfer == z.xfer && f.kind == kindData
  let y := again.foldl (fun y z => y.sendTransfer z) y
  y.setPort p (x.held.foldl Port.transmit (y.port p))

/-- R377: FLIT_REJOIN. -/
def execFlitRejoin (coll : Nat) (step : Nat) (s : State) : Out :=
  onNewFlit s fun s =>
    let own := s.cur.lastStep coll
    let ok := own == step || own == step + 1
    let answer := fun (y : Sys) => y.sendFlit s.unit { flitOf kindRejoined 0 with data := natLe 1 (if ok then 1 else 0) }
    if !ok then .next (s.onCur answer)
    else
      let peer := (s.cur.port s.unit).peer
      let back := fun (w : LandWin) => some w.peer == peer && w.state == 6
      let opened := fun (k : Core) => (k.wins.filter fun w => back w.2).map fun w => openFlit w.2 w.1 k.number true
      let flits := (s.cur.cores.flatMap fun c => opened c.2) ++ s.cur.saved.flatMap fun r => r.2.cores.flatMap fun c => opened c.2
      let t := s.onCur fun y => answer (y.release s.unit)
      let t := t.onCur fun y => y.mapWins s.fresh fun w => if back w then some (w.change 1 w.rcvd 0) else none
      .next { t.onCur fun y => flits.foldl (fun y f => y.sendFlit s.unit f) y with fresh := s.fresh + 1 }

/-- The step of a core's window of a collective. -/
def Core.collStep (k : Core) (coll : Nat) : Option Nat := (k.wins.find? fun w => w.2.coll == coll).map fun w => w.2.step

/-- R387, R393: a peer refuses a rejoin by firmware: every kernel with a window of that collective takes the fault 0x54, a saved one in its
records. -/
def Sys.refuseRejoin (y : Sys) (free port coll : Nat) : Sys :=
  let peer := ((y.port port).peer).getD 0
  let y := y.saved.foldl (fun y r =>
    match r.2.cores.findSome? fun c => (c.2.collStep coll).map fun n => (c.1, n) with
    | none => y
    | some (c, n) => y.faultSaved free r.1 (y.savedReport r.1 c 0x54 [port, peer, n])) y
  (y.kernels.filter fun x => x.2.placed).foldl (fun y x =>
    match (y.coresOf x.1).findSome? fun c => ((y.core c).collStep coll).map fun n => (c, n) with
    | none => y
    | some (c, n) => y.reportNow
        { rank := 3, late := false, die := dieOf c, cluster := clusterOf c % 20, core := c % 8, word := 0, cause := 0x54,
          detail := [port, peer, n], pos := none, kernel := some x.1 } x.1) y

/-- R377: the port is keyed again once the peer has answered every rejoin sent to it (Table 17.1). -/
def Sys.answered (y : Sys) (p : Nat) : Sys :=
  let x := y.port p
  let z := y.setPort p { x with joins := x.joins.drop 1 }
  if x.joins.length ≤ 1 then z.release p else z

/-- R377: FLIT_REJOIN_ANSWER: it answers the first rejoin flit not yet answered, firmware's or an LREJOIN's. -/
def execFlitRejoinAnswer (accepted : Bool) (s : State) : Out :=
  onNewFlit s fun s =>
    let p := s.unit
    let coll := (s.cur.port p).joins.head?
    let t := s.onCur fun y => y.answered p
    match t.cur.link.rejoins.find? fun r => r.waiting.contains p && coll == some r.coll with
    | none =>
      .next (if accepted then t
        else { t.onCur fun y => coll.elim y fun n => y.refuseRejoin s.fresh p n with fresh := s.fresh + 1 })
    | some r =>
      let r' := { r with waiting := r.waiting.erase p, refused := r.refused || !accepted }
      let put := fun (l : List Rejoin) => t.onCur fun y => { y with link := { y.link with rejoins := l } }
      if r'.waiting.isEmpty then
        let t := (put (t.cur.link.rejoins.filter (· != r))).onCur fun y =>
          y.landAnswer r.core r.block r.start 0 (if r'.refused then 4 else 0)
        let rep : Report :=
          { rank := 3, late := false, die := dieOf r.core, cluster := clusterOf r.core % 20, core := r.core % 8, word := 0,
            cause := 0x54, detail := [p, ((t.cur.port p).peer).getD 0, r.step], pos := none, kernel := (t.cur.core r.core).kernel }
        .next (if r'.refused then t.onCur fun y => rep.kernel.elim y (y.reportNow rep) else t)
      else .next (put (t.cur.link.rejoins.map fun x => if x == r then r' else x))

/-! ### Losses, keying and the ends of a port (R366, R370, R408) -/

/-- R370: whether the peer had already answered a transfer's final flit when the port faulted. That is a fact of the peer, free here
(log 9); a transfer with data still buffered had not reached it. -/
def Port.answered (x : Port) (z : Transfer) (free : Nat) : Bool :=
  z.sent && Config.pick free % 2 == 1 && !x.held.any fun f => f.xfer == z.xfer && f.kind == kindData

/-- R370: everything in flight on a port is lost, but for the transfers that `spared` names: the other transfers land status 3, windows that
were filling become lost with what was written poisoned, and space-5 accesses land status 3. -/
def losePort (s : State) (p : Nat) (spared : Transfer → Nat → Bool) : State :=
  let mine := s.cur.link.transfers.filter fun x => x.port == p
  let gone := (mine.zipIdx.filter fun x => !spared x.1 x.2).map (·.1)
  let t := s.onCur fun y => gone.foldl (fun y x => (y.forget x).settle x 0 3) y
  let lose := fun (k : Core) (n : Nat × LandWin) =>
    let w := n.2
    if w.port == p && (w.state == 2 || (w.state == 6 && !w.written.isEmpty)) then
      k.landing fun k => (k.poisonWin w).putWin n.1 ({ w with written := [] }.change 5 w.rcvd 0)
    else k
  let t := { t.onCur fun y => y.mapCores s.fresh fun k => k.wins.foldl lose k with fresh := s.fresh + 1 }
  let ids := (s.cur.link.remotes.filter fun r => r.port == p).map (·.id)
  let t := t.onCur fun y => { y with link := { y.link with remotes := y.link.remotes.filter fun r => r.port != p,
                                                           incoming := y.link.incoming.filter fun x => x.port != p } }
  ids.foldl (fun t id => match t.cur.access id with | some a => land t a 0 3 | none => t) t

/-- Everything that was on a port or buffered toward it is lost, and the port is down. -/
def loseAll (s : State) : State := (losePort s s.unit fun _ _ => false).onCur fun y => y.setPort s.unit (y.port s.unit).lost

/-- R370, R408: a port keyed under new secrets: what the peer had not accepted is lost, and the kept acknowledgements and the unacknowledged
window-open flits go out first. -/
def rekeyPort (secrets : Bytes) (s : State) : State :=
  let p := s.unit
  let x := s.cur.port p
  let t := losePort s p fun z n => x.answered z (s.fresh + 1 + n)
  let again := x.acks ++ (x.replay ++ x.held).filter fun f => f.kind == kindOpen
  { t.onCur fun y => y.setPort p (again.foldl Port.send (y.keyed p secrets)) with
    fresh := s.fresh + 1 + s.cur.link.transfers.length }

/-- R370, R408: PORT_FAULT_REKEY. Where the exchange fails the port is down and everything is lost. -/
def execPortFaultRekey (secrets : Bytes) (s : State) : Out :=
  .next (if Config.rekeyFails secrets then loseAll s else rekeyPort secrets s)

/-- R23, R366: PORT_TRAINED; a module that would be the 321st is refused. What a retrained port still had in flight is lost when another
module stands at its end. -/
def execPortTrained (module : Nat) (modules : Nat) (s : State) : Out :=
  if 320 < modules || 319 < module then .next (loseAll s)
  else
    let x := s.cur.port s.unit
    let t := if x.peer.all (· == module) then s else loseAll s
    .next (t.onCur fun y => y.setPort s.unit { y.port s.unit with state := .up, peer := some module })

/-- R408: PORT_KEYED: mutual SPDM of a trained port with the peer's chain and measurement checked; a failure leaves the port down. A port
that was retrained after a fault goes on as after a rekey (R370). -/
def execPortKeyed (secrets : Bytes) (chainOk : Bool) (fwmeas : Bytes) (s : State) : Out :=
  if (s.cur.port s.unit).state != .up then .next s
  else .next (if chainOk && !Config.policyRefuses fwmeas then rekeyPort secrets s else loseAll s)

/-- R366, R375: PORT_LOSS_OF_SIGNAL: the port goes down, and what was on it or buffered toward it is lost. Firmware that disables a port has
the same event (log 157). -/
def execPortLossOfSignal (s : State) : Out := .next (loseAll s)

end Sys2Proof.Machine
end

