-- ==== Sys2Proof/Machine/LoadArea.lean ====
section
/-! DEFINITION. A save area read back (R295, R298, R300 to R302, R352): the bytes that stand in memory govern the restore. A part whose bytes
are those that the save wrote stands as it was saved, with what the bytes do not hold (log 19); any other part is read by its layout. -/

namespace Sys2Proof.Machine

/-! ### The bytes -/

/-- The first `len` bytes of a save area, deciphered in confidential mode, as a store that begins at the area's first byte. -/
def Sys.areaOf (y : Sys) (x : Kernel) (len : Nat) : Mem :=
  if y.trust.conf then
    let keys := hkdf (y.ctx x.ctx).mkey [] (ascii "N9 xts") 64
    let bs := (y.vaRead x.ctx x.save len).getD []
    sparse ((List.zip (List.range (len / 64)) (chunks 64 bs)).flatMap fun c => xts false keys (Config.saveUnit (x.save / 64 + c.1)) c.2)
  else
    let parts := (y.vaParts x.ctx x.save len (len / 4096 + 3)).getD []
    canonical (parts.flatMap fun p => raised (p.1.va + p.2.1 - x.save) (Mem.slice y.hbm (p.1.pa + p.2.1) p.2.2))

/-- A field of an area. -/
def areaNat (a : Mem) (off n : Nat) : Nat := leNat (Mem.read a off n)
/-- A signed field of an area. -/
def areaInt (a : Mem) (off n : Nat) : Int := sval (8 * n) (areaNat a off n)
/-- A store in an area. -/
def areaStore (a : Mem) (off n : Nat) : Mem := canonical (Mem.slice a off n)
/-- Whether the bytes of an area at a record are those of a piece. -/
def Piece.stands (a : Mem) (o : Nat) (p : Piece) : Bool := areaStore a (o + p.off) p.len == canonical p.mem

/-- The values of a fixed size that are not `d`, by number from `first`. -/
def areaVals (a : Mem) (off size first count d : Nat) : List (Nat × Nat) :=
  (List.range count).filterMap fun i =>
    let v := areaNat a (off + size * (first + i)) size
    if v == d then none else some (first + i, v)

/-! ### The header (Table 11.6) -/

/-- R301: the bytes of a header that are reserved. -/
def areaReserved : List (Nat × Nat) := [(0x22, 6), (0x3D, 19), (0x5C, 4), (0x78, 8), (0x880, 1920)]

/-- R301: whether a header may be restored: its MAGIC and VERSION are right and its reserved bytes and bits zero. -/
def areaOk (a : Mem) : Bool :=
  areaNat a 0 4 == 0x4E395341 && areaNat a 4 2 == 1 && (areaNat a 6 2 == 1 || areaNat a 6 2 == 2) && areaNat a 0xC 4 < 16 &&
    areaReserved.all (fun r => (Mem.slice a r.1 r.2).isEmpty) &&
    ((List.range 64).all fun n => areaNat a (0x80 + 16 * n + 12) 4 < 4) &&
    (List.range 512).all fun n => areaNat a (0x480 + 2 * n) 2 / 2 ^ 10 % 16 == 0

/-- R297: VALID. -/
def areaValid (a : Mem) : Bool := (areaNat a 0xC 4).testBit 0

/-- The barriers of an area. A barrier that stands as it was saved keeps its latest arrivals. -/
def areaBarriers (a : Mem) (x : Kernel) : SMap Barrier :=
  (List.range 64).filterMap fun n =>
    let f := fun (o k : Nat) => areaNat a (0x80 + 16 * n + o) k
    let opt := fun (v : Nat) => if v == 0 then none else some v
    let b := x.barrier n
    let z : Barrier :=
      { done := f 0 4, arr := f 4 2, exp := opt (f 6 2), arrn := f 8 2, expn := opt (f 10 2), remote := (f 12 1).testBit 0,
        remoten := (f 12 1).testBit 1, last := b.last, lastn := b.lastn }
    let z := if z == b then z else { z with last := none, lastn := none }
    if z == Barrier.reset then none else some (n, z)

/-- The stage rings of an area. -/
def areaRings (a : Mem) : SMap RingSlot :=
  (List.range 512).filterMap fun n =>
    let v := areaNat a (0x480 + 2 * n) 2
    let owner := v % 2 ^ 10
    let r : RingSlot := { full := v.testBit 15, owner := if owner == 0x3FF then none else some owner, mode := v / 2 ^ 14 % 2 }
    if r == RingSlot.reset then none else some (n, r)

/-! ### Core records -/

/-- The windows of a record; a window's granule and tag are those of the window that was saved. -/
def areaWins (a : Mem) (o : Nat) (k : Core) : SMap LandWin :=
  k.wins.filterMap fun w =>
    let bs := Mem.read a (o + 0x980 + 64 * w.1) 64
    if fieldLe bs 32 1 == 0 then none else some (w.1, { w.2 with block := bs })

/-- The copies of a record (Table 11.8). -/
def areaCopies (a : Mem) (o n : Nat) (conf : Bool) : List Copy :=
  (List.range 128).filterMap fun i =>
    let b := o + 0x2000 + 256 * i + 128
    let f := areaNat a b 8
    if !f.testBit 0 then none
    else
      some { desc := Mem.read a (b - 128) 128, kind := f / 2 % 4, slot := f / 16 % 16, start := ((n : Int) + areaInt a (b + 8) 8).toNat,
             word := 0, raddr := areaNat a (b + 72) 8, conf := conf, buf := [], plain := [], offs := [], reread := true,
             hash := (List.range 8).map fun j => BitVec.ofNat 32 (areaNat a (b + 32 + 4 * j) 4), hlen := areaNat a (b + 24) 8,
             cmp := areaNat a (b + 64) 8 }

/-- One in-flight entry by its TYPE (Table 11.6a); types 7 and 8 are a tile load's (`areaLoad`) and an MDRAIN's (`areaReady`). -/
def areaEntry (type target : Nat) (payload : Bytes) : Option Dest :=
  let v := BitVec.ofNat 64 (fieldLe payload 0 8)
  let map := fun (bs : Bytes) (len : Nat) => (List.range len).map fun i => (bs.getD (i / 8) 0).getLsbD (i % 8)
  let whole := BitVec.ofNat 4096 (leNat (payload.take 512))
  match type with
  | 1 => some (.scalar target v)
  | 2 =>
    if target / 256 == 2 then some (.pred (target % 256) (v != 0))
    else if target / 256 == 4 then some (.mask (target % 256) (BitVec.ofNat 512 (leNat payload)))
    else some (.csr (target % 4096) v true)
  | 3 =>
    let m := map (payload.drop 512) 512
    some (.vector target whole (BitVec.ofNat 4096 (packN 8 (m.map fun b => if b then 255 else 0))))
  | 4 =>
    let len := (payload.length / 64) * 64 * 8 / 9 / 64 * 64
    let bytes := (List.zip (payload.take len) (map (payload.drop len) len)).takeWhile (·.2)
    some (.store target (bytes.map (·.1)) 0x02)
  | 5 => some (.acc (512 * target) (.write (payload.take 512)) none)
  | 6 => some (.exch target (payload.take 512))
  | 9 => some (if target < 256 then .vector target whole (BitVec.allOnes 4096) else .die (target - 256) whole true)
  | 10 =>
    let w := fun (i : Nat) => BitVec.ofNat 64 (fieldLe payload (8 * i) 8)
    some (.loopb (w 0) (w 1) (w 2) (w 3 != 0))
  | _ => none

/-- An entry of an in-flight record: its TYPE, landing cycle, TARGET and payload. -/
structure AreaEntry where
  type    : Nat
  land    : Nat
  target  : Nat
  payload : Bytes
  deriving DecidableEq, Repr

/-- The in-flight entries of a record, from `at_` on, for `count` entries (R300). -/
def areaFlight (a : Mem) (n : Nat) : Nat → Nat → List AreaEntry
  | _, 0 => []
  | at_, count + 1 =>
    let units := areaNat a (at_ + 2) 2
    { type := areaNat a at_ 1, land := ((n : Int) + areaInt a (at_ + 4) 4).toNat, target := areaNat a (at_ + 8) 8,
      payload := Mem.read a (at_ + 16) (64 * units) } :: areaFlight a n (at_ + 16 + 64 * units) count

/-- An entry that is a result (R299). -/
def AreaEntry.result (e : AreaEntry) : Option Pending :=
  (areaEntry e.type e.target e.payload).map fun d =>
    { land := e.land, issue := if e.type == 9 then e.land - 2 else e.land, word := 0, flags := 0, dest := d }

/-- R179, R300: a tile load given by its entry, of the format, pattern and word of the load that was saved for its place; for none of these
the length tells the format. -/
def areaLoad (saved : List TileLoad) (e : AreaEntry) : Option TileLoad :=
  if e.type != 7 then none
  else
    let n := e.payload.length
    let fresh : TileLoad :=
      { start := 0, land := 0, off := 0, size := 0, kind := if n == 49152 then 2 else 0, fmt := if n == 512 then 15 else if n == 17408 then 5 else 0,
        pattern := 0, got := [], word := 0, paired := false }
    let t := (saved.find? fun l => l.off == e.target && l.size == n && l.land == e.land).getD fresh
    some { t with start := e.land - 8 - (n + 1023) / 1024, land := e.land, off := e.target, size := n, got := sparse e.payload }

/-- R194, R300: the converted rows of an MDRAIN, by number. -/
def areaReady (es : List AreaEntry) (d : Drain) : SMap Bytes :=
  (es.filter (·.type == 8)).map fun e => (e.land - (d.start + 4), e.payload.take (drainSlot d.fmt d.srcKind d.zrc))

/-- The matrix state of a record (Table 11.9), over the unit that was saved. -/
def areaMatrix (a : Mem) (o n : Nat) (x : MxUnit) : MxUnit :=
  let f := fun (off k : Nat) => areaNat a (o + off) k
  let regs := fun (off : Nat) => (List.range 8).map fun i => (i, BitVec.ofNat 64 (f (off + 8 * i) 8))
  let st := match f 0xA480 8 % 8 with
    | 1 => SeqState.armed | 2 => .running | 3 => .paired | 4 => .suspended | 5 => .abandoned | _ => .idle
  let astr : AStream :=
    { base := BitVec.ofNat 64 (f 0xA4A8 8), stride := f 0xA4B0 8, fmt := f 0xA4B8 2, rows := f 0xA4BA 2, next := f 0xA4BC 4,
      gen := f 0xA4C0 4, genImm := BitVec.ofNat 32 (f 0xA4C4 4) }
  let seq : Seq :=
    { x.seq with
        st := st, index := f 0xA480 8 / 8 % 4096, routine := f 0xA480 8 / 2 ^ 20 % 256, cycles := f 0xA480 8 / 2 ^ 32,
        params := regs 0xA440, loops := (List.range 8).map fun i => (i, f (0xA488 + 4 * i) 4),
        astr := if x.seq.astr.isNone && (Mem.slice a (o + 0xA4A8) 32).isEmpty then none else some astr,
        sae := (f 0xA4C8 8).testBit 0, sbe := (f 0xA4C8 8).testBit 1, isat := (f 0xA4C8 8).testBit 2,
        sb0 := BitVec.ofNat 32 (f 0xA4D0 4), sb1 := BitVec.ofNat 32 (f 0xA4D4 4) }
  let pair : Pair :=
    { cluster := f 0xA558 8, row0 := f 0xA560 4, nrows := f 0xA564 4, word := 0, params := [], m := 0 }
  let ctl := f 0xA574 4
  let was := x.drain.getD
    { start := 0, word := 0, src := 0, dst := 0, nrows := 0, zrc := false, srcKind := 0, fmt := 0, mode := 0, sat := false, draws := [], done := 0,
      rows := [], ready := [] }
  let drain : Drain :=
    { was with
        start := ((n : Int) + areaInt a (o + 0xA580) 8).toNat, src := f 0xA568 4, dst := f 0xA56C 4, nrows := f 0xA570 4,
        zrc := ctl.testBit 9, srcKind := ctl / 1024 % 4, fmt := ctl % 16, mode := ctl / 16 % 16, sat := ctl.testBit 8, done := f 0xA578 8 }
  { x with
      arm := if pair.nrows == 0 then none else some pair, drain := if drain.nrows == 0 then none else some drain,
      params := regs 0xA400, seq := seq, pattern := BitVec.ofNat 256 (f 0xA4D8 32),
      btile := { x.btile with kind := f 0xA4F8 8 % 256, fmt := f 0xA4F8 8 / 256 % 256 },
      mqueue := (List.range (Nat.min 16 (f 0xA540 4))).map fun i => BitVec.ofNat 32 (f (0xA500 + 4 * i) 4), mmode := f 0xA544 4,
      m := BitVec.ofNat 64 (f 0xA548 8), seeded := f 0xA550 8 != 0 }

/-- A core record read back: the record at `o`, as saved `k`, at boundary `n`. -/
def areaCore (a : Mem) (o n partner : Nat) (full conf : Bool) (k : Core) : Core :=
  let f := fun (off len : Nat) => areaNat a (o + off) len
  let word := fun (off : Nat) => BitVec.ofNat 64 (f off 8)
  let vals := fun (off size first count : Nat) => areaVals a (o + off) size first count 0
  let csr : Csrs :=
    { vsh := word 0x40, lc := word 0x48, rotv := word 0x50, rotp := word 0x58, mpc := word 0x60, seed := word 0x68, qmod := word 0x70,
      qinv := word 0x78, rmode := word 0x80, fflags := word 0x88, outst := word 0x90, tcoord := word 0x98, fcause := word 0xA0,
      fbix := word 0xA8, stepno := word 0xB0 }
  let w := f 0x18 8
  let head := { k with
    task := match f 0 8 % 8 with | 0 => .bound | 2 => .halted | _ => .saved
    ip := if f 0x10 8 % 64 == 0 then f 8 8 else f 8 8 + 1, idle := f 0x10 8 % 64, start := ((n : Int) + areaInt a (o + 0x20) 8).toNat,
    window := if w == 0 then none else
      some { issued := n + w / 2 ^ 18 % 4 - 4, target := w % 2 ^ 18, transfer := w.testBit 20,
             link := if w / 2 ^ 21 % 64 == 0 then none else some (w / 2 ^ 21 % 64, word 0x28) },
    csr := csr }
  let k := if (headPiece n partner k).stands a o then { k with task := head.task } else head
  let stores := { k with
    s := (vals 0x100 8 1 63).map fun r => (r.1, BitVec.ofNat 64 r.2),
    p := (List.range 63).filterMap fun i => if (f 0x300 8).testBit (i + 1) then some (i + 1, true) else none,
    k := (vals 0x340 64 1 15).map fun r => (r.1, BitVec.ofNat 512 r.2),
    v := (vals 0x28000 512 0 64).map fun r => (r.1, BitVec.ofNat 4096 r.2),
    z := (List.range 8).filterMap fun i =>
      let b := 0x900 + 16 * i
      if f (b + 13) 1 == 0 then none else some (i, { desc := f (b + 12) 1, base := word b, pos := f (b + 8) 4 }),
    slots := (vals 0x1000 128 0 16).map fun r => (r.1, natLe 128 r.2), wins := areaWins a o k, spad := areaStore a (o + 0x200000) 0x200000,
    mx := { k.mx with acc := areaStore a (o + 0x100000) 0x100000, wbuf := areaStore a (o + 0x80000) 0x80000,
                      exch := areaStore a (o + 0x30000) 0x10000 } }
  if !full then stores
  else
    let fulls := fullPieces n k
    let stands := fun (off : Nat) => (fulls.filter fun p => p.off == off).all fun p => p.stands a o
    let x := stores.mx
    let x := if stands 0xA400 && stands 0xA500 then x else areaMatrix a o n x
    let flight := stands 0x40000
    let es := if flight then [] else areaFlight a n (o + 0x40008) (f 0x40000 4)
    { stores with
        bfmt := (vals 0x800 8 0 32).map fun r => (r.1, BitVec.ofNat 64 r.2), slotDone := if stands 0x1800 then k.slotDone else (vals 0x1800 8 0 16).map fun r => (r.1, ((n : Int) + sval 64 r.2).toNat),
        copies := if stands 0x2000 then k.copies else areaCopies a o n conf, tags := vals 0x18000 2 0 32768,
        pending := if flight then k.pending else es.filterMap AreaEntry.result,
        mx := { x with
          loads := if flight then x.loads else es.filterMap (areaLoad x.loads),
          drain := if flight then x.drain else x.drain.map fun d => { d with rows := [], ready := areaReady es d },
          table := (vals 0xA000 4 0 256).map fun r => (r.1, r.2 % 4096, r.2 / 2 ^ 16 % 2 ^ 13),
          btile := { x.btile with bytes := areaStore a (o + 0xC000) 0xC000 },
          store := (areaVals a (o + 0x60000) 8 0 4096 mxEndWord.toNat).map fun r => (r.1, BitVec.ofNat 64 r.2) } }

/-! ### Cluster and stack records -/

/-- A cluster record read back. -/
def areaCluster (a : Mem) (o : Nat) (c : Cluster) : Cluster :=
  { c with dict := (areaVals a o 48 1 8191 emptyBundleBits.toNat).map fun r => (r.1, BitVec.ofNat 384 r.2),
           l2 := areaStore a (o + 0x80000) 0x800000 }

/-- The pending operations of a cluster record, the first core of the cluster being `base` (R352). -/
def areaOps (a : Mem) (o n base : Nat) : List SyncOp :=
  (List.range (Nat.min 8191 (areaNat a (o + 0x60000) 8))).map fun i =>
    let b := o + 0x60008 + 16 * i
    let count := ((n : Int) + areaInt a (b + 8) 4).toNat
    { count := count, issue := count - 24, core := base + areaNat a (b + 12) 1 % 8, op := areaNat a (b + 13) 1,
      value := BitVec.ofNat 64 (areaNat a b 8) }

/-- A pseudo-channel of a stack record read back: its split, loop counter, debts and channel store, and its near-bank state (Table 11.10). -/
def areaPch (a : Mem) (o i rises : Nat) (full : Bool) (c : Pch) : Pch :=
  let b := o + 0x1000 + 512 * i
  let banks := (List.range 64).filterMap fun j =>
    let debt := areaInt a (b + 200 + j) 1 - rises
    let k := SMap.getD c.banks j Bank.reset
    if { k with debt := debt } == Bank.reset then none else some (j, { k with debt := debt })
  let unit := fun (j : Nat) =>
    let u := o + 0x100000 + 0x24000 * i + 0x900 * j
    let lat := (areaVals a u 64 0 16 0).map fun r => (r.1, BitVec.ofNat 512 r.2)
    let slots := (List.range 16).filterMap fun s =>
      let place := areaNat a (u + 2080 + 8 * s) 8
      if place.testBit 32 then some (s, place % 2 ^ 16, place / 2 ^ 16 % 2 ^ 16, Mem.read a (u + 1056 + 64 * s) 64) else none
    ({ bc := BitVec.ofNat 256 (areaNat a (u + 1024) 32), lat := lat, slots := slots } : NbUnit)
  let queue := (List.range 4).filterMap fun j =>
    let q := fun (k : Nat) => areaNat a (b + 8 + 16 * j + 4 * k) 4
    if (Mem.slice a (b + 8 + 16 * j) 16).isEmpty then none
    else
      let was := c.queue.find? fun i => i.lg == q 0 && i.g0 == q 1 && i.start == q 2 && i.tick == q 3
      some ({ lg := q 0, g0 := q 1, start := q 2, tick := q 3, word := (was.map (·.word)).getD 0 } : NbIssue)
  { c with
      split := areaNat a b 1, nbFlag := full && areaNat a (b + 1) 1 == 1, loopc := if full then areaNat a (b + 4) 4 else 0, banks := banks,
      queue := if full then queue else [],
      store := (areaVals a (o + 0x10000 + 1024 * i) 4 0 256 nbEndWord.toNat).map fun r => (r.1, BitVec.ofNat 32 r.2),
      units := if full then (List.range 64).filterMap fun j => if unit j == NbUnit.reset then none else some (j, unit j) else [] }

/-- R252: the landing buffer of a stack record, `rel` being the relative cycle of the boundary. -/
def areaLands (a : Mem) (o rel : Nat) : List LineLand :=
  (List.range (Nat.min 3640 (areaNat a (o + 0x20000) 8))).map fun i =>
    let b := o + 0x20008 + 72 * i
    let cycle := ((rel : Int) + areaInt a (b + 4) 4).toNat
    { cluster := areaNat a b 1, line := areaNat a (b + 1) 3, cycle := cycle, tick := 2 * cycle, pa := 0, bytes := some (Mem.read a (b + 8) 64) }

/-- R252: the rows that a stack record holds open. -/
def areaRows (a : Mem) (o : Nat) : List (Nat × Nat × Nat) :=
  (List.range 64).flatMap fun i => (List.range 64).filterMap fun j =>
    let v := areaNat a (o + 0x1000 + 512 * i + 72 + 2 * j) 2
    if v == 0xFFFF then none else some (i, j, v)

/-- A stack record read back; data in flight that stand as they were saved keep their ticks, their addresses and their engine. -/
def areaStack (a : Mem) (o rel : Nat) (full : Bool) (x : Stack) : Stack :=
  let flight := ((stackPieces rel full x).filter fun p => p.off == 0x20000).all fun p => p.stands a o
  { x with pos := areaNat a o 8, seams := (areaNat a (o + 16) 8 + 1) % 2 ^ 64,
           lands := if !full then [] else if flight then x.lands else areaLands a o rel,
           engines := if full && flight then x.engines else [], reopen := if full then areaRows a o else [],
           pchs := (List.range 64).map fun i => (i, areaPch a o i x.rises full (SMap.getD x.pchs i Pch.reset)) }

/-! ### The whole area -/

/-- R387: a core read back with the stores that still stand on its die. -/
def Core.keeping (k old : Core) : Core :=
  { k with spad := old.spad, mx := { k.mx with store := old.mx.store, acc := old.mx.acc, wbuf := old.mx.wbuf } }

/-- R298: a saved kernel and its records as its save area gives them. The stores of a die on which they still stand (R387) are not read. -/
def Sys.readArea (y : Sys) (x : Kernel) (r : Saved) : Kernel × Saved :=
  let l := y.sections x
  let a := y.areaOf x (saveNeed l)
  let n := r.boundary
  let full := areaNat a 6 2 == 2
  let stepno := areaNat a 0x10 8
  let number := fun {α : Type} (m : SMap α) => List.zip (List.range m.length) m
  let cores := (number r.cores).map fun e =>
    let k := areaCore a (4096 + e.1 * 2 ^ 22) n (partnerOf r e.2) full y.trust.conf e.2.2
    (e.2.1, if r.retained.contains (x.dies.getD (e.2.1 / 160) 4) then k.keeping e.2.2 else k)
  let o1 := 4096 + r.cores.length * 2 ^ 22
  let clusters := (number r.clusters).map fun e =>
    (e.2.1, if r.retained.contains (x.dies.getD (e.2.1 / 20) 4) then e.2.2 else areaCluster a (o1 + e.1 * 8912896) e.2.2)
  let ops := (number r.clusters).flatMap fun e =>
    areaOps a (o1 + e.1 * 8912896) n (160 * x.dies.getD (e.2.1 / 20) 4 + 8 * (e.2.1 % 20))
  let o2 := o1 + r.clusters.length * 8912896
  let stackRecs := (number r.stackRecs).map fun e => (e.2.1, areaStack a (o2 + e.1 * 2 ^ 24) (n - x.start) full e.2.2)
  let kept := x.ops.filter fun o => o.op != 4
  let same := ops.map (fun o => (o.count, o.core, o.op, o.value)) == kept.map fun o => (o.count, o.core, o.op, o.value)
  ({ x with start := ((n : Int) - areaInt a 0x18 8).toNat, barriers := areaBarriers a x, rings := areaRings a,
            ops := (if same then kept else ops) ++ x.ops.filter fun o => o.op == 4 },
   { r with step := if full then none else some stepno, stepno := stepno, cores := cores, clusters := clusters, stackRecs := stackRecs })

end Sys2Proof.Machine
end

