-- ==== Sys2Proof/Machine/Context.lean ====
section
/-! DEFINITION. The context across stops: pre-emption (R295, R296), what firmware does after a stop (R294), the save (R297, R301), the
restore and the resume (R298). -/

namespace Sys2Proof.Machine

/-! ### Pre-emption (R295, R296) -/

/-- R296: FORCED_PREEMPTION: the kernel stops at a boundary that lies at most 8 cycles ahead, with no timeline condition. -/
def execForcedPreemption (kernel : Nat) (boundary : Nat) (s : State) : Out :=
  match s.cur.kern kernel with
  | none => .next s
  | some x =>
    let g := s.cur.kernelNow x
    if x.state != .running && x.state != .held then .next s
    else if x.state == .held || g == boundary then
      .next (s.onCur fun y => y.stopAt .preempt none false [kernel] x.dies)
    else if g < boundary && boundary ≤ g + 8 then
      .next { s with inputs := s.inputs ++ [{ time := s.cur.hub + 1, unit_ := 0, event := .forcedPreemption kernel boundary }] }
    else .next s

/-- R295: STEP_POINT_PREEMPTION: the kernel is to be held at its next step point and saved there. -/
def execStepPointPreemption (kernel : Nat) (s : State) : Out :=
  .next (s.onCur fun y => y.onKern kernel fun x =>
    if x.state == .running || x.state == .held then { x with holds := { x.holds with preempt := true } } else x)

/-! ### After a stop (R294, R297) -/

/-- Whether a power-fail sequence or a shedding is under way, in which every kernel is saved (R384, R386). -/
def Sys.failing (y : Sys) : Bool := y.power.hib.isSome || y.power.shed

/-- The report of a stopped kernel that firmware will resolve (R294, R360). -/
def Sys.resolvable (y : Sys) (n : Nat) (x : Kernel) : Bool :=
  !y.failing && ((x.stop.bind (·.report)).bind fun r => y.resolveFault x.ctx n r).isSome

/-- R360, R385, R412: whether a stopped kernel's fault is not yet to be judged: requests or faults that came before it are still to be served,
or its resolution has begun. -/
def State.undecided (s : State) (x : Kernel) : Bool :=
  x.stop.any fun t => t.inval.isSome ||
    (!s.cur.failing && (t.report.any fun r => r.cause == 0x30 || r.cause == 0x31) && s.faultQueued t.hub)

/-- R294: FIRMWARE_STOP_HANDLING: a resolvable fault is left to `execFaultResolution` and a collateral stop to `execResume`; the save
of every other stopped kernel begins, and so does that of a kernel held for pre-emption or for the power-fail sequence. -/
def execFirmwareStopHandling (kernel : Nat) (s : State) : Out :=
  match s.cur.kern kernel with
  | none => .next s
  | some x =>
    let stopped := x.state == .stopped && (x.stop.any fun t => !t.collateral || s.cur.failing) && !s.cur.resolvable s.fresh x
    let held := x.state == .held && (x.holds.preempt || x.holds.shed)
    if x.saving.isNone && (stopped || held) && !s.undecided x then
      .next (s.onCur fun y => y.setKern kernel { x with saving := some y.wallc.toNat })
    else .next s

/-- R297: what an outstanding access, transfer or request of a core lands as when a power-fail save has waited 100 µs. -/
def Sys.loseAccess (y : Sys) (a : Access) : Sys :=
  match a.core, a.lp with
  | some c, some lp => y.landAnswer c lp a.tag 0 3
  | _, _ => y

/-- R297: SAVE_OUTSTANDING_TIMEOUT: in a power-fail save each access still outstanding after 100 µs lands status 3 in the saved
scratchpad, and LOST is set. -/
def execSaveOutstandingTimeout (kernel : Nat) (s : State) : Out :=
  match s.cur.kern kernel with
  | none => .next s
  | some x =>
    match x.saving with
    | none => .next s
    | some w =>
      let mine := fun (c : Nat) => (s.cur.core c).kernel == some kernel
      let own := fun (a : Access) => match a.core with | some c => mine c | none => false
      if s.cur.failing && w + 10000 ≤ s.cur.wallc.toNat && (s.cur.coresOf kernel).any fun c => (s.cur.core c).csr.outst != 0 then
        .next (s.onCur fun y =>
          let y := (y.accesses.filter own).foldl Sys.loseAccess y
          let asked := fun (r : PageReq) => r.req.isNone && mine r.core
          let y := (y.pageReqs.filter asked).foldl (fun y r => y.landAnswer r.core r.lp r.tag 0 3) y
          let y := (y.link.transfers.filter fun t => mine t.core).foldl (fun y t => y.landAnswer t.core t.block (t.start % 4096) 0 3) y
          let y := (y.link.rejoins.filter fun t => mine t.core).foldl (fun y t => y.landAnswer t.core t.block (t.start % 4096) 0 3) y
          let link := { y.link with transfers := y.link.transfers.filter fun t => !mine t.core,
                                    rejoins := y.link.rejoins.filter fun t => !mine t.core }
          { { y with accesses := y.accesses.filter fun a => !own a, pageReqs := y.pageReqs.filter fun r => !asked r,
                     link := link }.onCoresOf kernel fun k => { k with csr := { k.csr with outst := 0 } } with
            kernels := SMap.put y.kernels kernel { x with lost := true } })
      else .next s

/-- The boundary n at which a kernel stands (R289, R326). -/
def Sys.boundaryOf (y : Sys) (x : Kernel) : Nat :=
  match x.holds.step with
  | some k => if x.lead then y.kernelNow x else x.start + stepCycle (y.sections x) k
  | none => (x.stop.map (·.boundary)).getD (y.kernelNow x)

/-- R252: whether the work that a compiled timeline had started on a stack has run to its end: bursts, changes of split, engine windows,
near-bank issues and commits. -/
def Stack.rested (x : Stack) : Bool :=
  x.writes.isEmpty && x.pchs.all fun c => !c.2.stepping && c.2.lturn.isNone &&
    c.2.busy.all fun b => match b.2 with | .commit => false | .engine => false | _ => true

/-- R252, R297: whether everything of a kernel has come to rest: no access outstanding, and its stacks in the hands of firmware. -/
def Sys.savable (y : Sys) (q : Nat) : Bool :=
  ((y.coresOf q).all fun c => (y.core c).csr.outst == 0) &&
    (y.stacksOf q).all fun k => (y.stk k).driver != .compiled && (y.stk k).rested

/-- Table 5.1: a core as a save records it: a task that was running, held or stopped is saved. -/
def Core.saved (k : Core) : Core :=
  { k with task := if k.task == .running || k.task == .held || k.task == .stopped then .saved else k.task, wrote := [] }

/-- R297: the records of a save. -/
def Sys.snapshot (y : Sys) (q : Nat) (x : Kernel) : Saved :=
  let cs := (y.coresOf q).map fun c => (c, (y.core c).saved)
  let mc := (x.stop.bind (·.report)).any fun r => r.rank == 0
  let halted := x.stop.any fun t => t.kind == .powerFail || t.collateral
  let step := if x.state == .held || halted then x.holds.step else none
  { step := step, stepno := step.getD ((cs.head?.map fun c => c.2.csr.stepno.toNat).getD 0),
    boundary := y.boundaryOf x, valid := true, lost := x.lost, mc := mc, pairOpen := cs.any fun c => c.2.abandoned,
    stop := x.stop, retained := [],
    cores := cs.foldl (fun m c => SMap.put m (x.logicalCore c.1) c.2) [],
    clusters := ((y.clusters.filter fun c => c.2.owner == some q).map (·.1)).foldl
      (fun m r => SMap.put m (x.logicalCluster r) (y.cluster r)) [],
    stackRecs := (y.stacksOf q).foldl (fun m k => SMap.put m (x.logicalStack k) (y.stk k)) [] }

/-- Dies that a kernel has left run again, unless another stopped kernel stands there or the module is failing (R289, R384). -/
def freeDies (ds : List Nat) (s : State) : State :=
  if s.cur.failing then s
  else
    let free := fun (d : Nat) =>
      ((s.cur.die d).run == .stopped || (s.cur.die d).run == .held) && (s.cur.die d).equalise == 0 &&
        !(s.cur.kernels.any fun x => (x.2.state == .stopped || (x.2.lead && x.2.state == .held)) && (s.cur.reach [d]).any x.2.dies.contains)
    restartDies (ds.filter free) s

/-- R297, R356: a saved kernel leaves its cores, clusters, stacks and locked entries; its pages stay pinned. -/
def Sys.park (y : Sys) (q : Nat) (x : Kernel) : Sys :=
  let y := (y.vacate q x).unlock x.ctx x.dies (x.pinned.map (·.va))
  (y.setKern q { x with state := .saved, saving := none, lost := false, holds := Holds.none }).settleContext x.ctx

/-- R294, R297: SAVE_COMPLETION: the records are written and VALID after them. A kernel stopped by a fault or a trap then ends; any
other, and every one that the power-fail sequence saves, is saved (R385). -/
def execSaveCompletion (kernel : Nat) (s : State) : Out :=
  match s.cur.kern kernel with
  | none => .next s
  | some x =>
    if x.saving.isNone || !s.cur.savable kernel then .next s
    else
      let r := s.cur.snapshot kernel x
      let ends := !s.cur.failing && x.stop.any fun t => t.kind == .fault || t.kind == .trap
      let t := s.onCur fun y =>
        let y := y.writeSave s.fresh x r
        if ends then y.endKernel kernel { x with saving := none }
        else { y.park kernel x with saved := SMap.put y.saved kernel r }
      .next (freeDies x.dies { t with fresh := t.fresh + 1 })

/-! ### Restore and resume (R298) -/

/-- Whether a saved kernel is the offer that admission would take next, and its variant. -/
def Sys.restoreVariant (y : Sys) (q : Nat) : Option Nat :=
  if !y.admissionOpen then none
  else
    match y.firstAction false y.offers with
    | some (o, .grant v) => if o.back == some q then some v else none
    | _ => none

/-- Whether a unit of a class is live for a core (Table 13.4). -/
def isLive (l : List Live) (cl core cls n : Nat) : Bool :=
  l.any fun r => r.cl == cl && r.core == core && r.cls == cls && r.first ≤ n && n < r.first + r.count

/-- What a matrix unit holds after the restore of a step-point save, beside its stores: zero. -/
def MxUnit.cleared (x : MxUnit) : MxUnit :=
  { x with
      store := (List.range 4096).map fun i => (i, 0), table := [], params := [], pattern := 0, mqueue := [], mmode := 0, m := 0,
      btile := { present := true, kind := 0, fmt := 0, bytes := [], pattern := 0 }, seeded := false, arm := none, prior := [],
      seq := { Seq.reset with sb0 := 0, sb1 := 0, qmod := 0, qinv := 0 }, loads := [], drain := none }

/-- R295, R371: a core of a step-point save: its CSRs, its windows and its place stand, and everything that the live map omits is zero. The stores that stand
on a die that has kept them stay (R387). -/
def liveCore (l : List Live) (cl core : Nat) (kept : Bool) (k : Core) : Core :=
  let f := isLive l cl core
  let mem := fun (cls u : Nat) (m : Mem) => m.filter fun c => f cls (c.1 / u)
  let x := k.mx.cleared
  { k with
      s := k.s.filter fun r => f 1 r.1, p := k.p.filter fun r => f 2 r.1, v := k.v.filter fun r => f 3 r.1,
      k := k.k.filter fun r => f 4 r.1, z := k.z.filter fun r => f 10 r.1, slots := k.slots.filter fun r => f 11 r.1,
      bfmt := [], slotDone := [], copies := [], pending := [], flagsDue := 0, arrived := [], tags := [], hold := none,
      fenced := [], spad := if kept then k.spad else mem 5 64 k.spad,
      mx := { x with store := if kept then k.mx.store else x.store, acc := if kept then k.mx.acc else mem 6 512 k.mx.acc,
                     wbuf := if kept then k.mx.wbuf else mem 7 64 k.mx.wbuf, exch := mem 8 512 k.mx.exch } }

/-- R298: a core's record, its times moved by `d`, on a die of the variant; its task takes the state recorded (Table 5.1). -/
def backCore (q die v : Nat) (d : Int) (k : Core) : Core :=
  let k := k.shift d
  let where_ := (k.csr.tcoord &&& 0xFFFFFFF0FFFFFFFF) ||| BitVec.ofNat 64 (die * 2 ^ 34 + v * 2 ^ 32)
  { k with kernel := some q, csr := { k.csr with tcoord := where_ }, task := if k.task == .saved then .running else k.task }

/-- R252, R253: a stack's record loaded at a tick under the hold timeline. -/
def Stack.load (x r : Stack) (q w : Nat) : Stack :=
  let x := if x.driver == .hold then x else x.takenBy .hold w
  let pch := fun (p : Nat) =>
    let a := x.pch p
    let b := r.pch p
    (p, { a with split := b.split, lturn := none, nbFlag := b.nbFlag, loopc := b.loopc, queue := b.queue, store := b.store,
                 units := b.units, banks := b.banks.map fun k => (k.1, { a.bank k.1 with debt := k.2.debt }) })
  { x with
      kernel := some q, prog := r.prog, descs := r.descs, pos := r.pos, word := r.word, tick := r.tick, seam := r.seam,
      seams := r.seams, lands := r.lands, engines := r.engines, rises := r.rises, reopen := r.reopen, engCmd := none, seamCmd := none,
      starts := [], pchs := (List.range 64).map pch }

/-- R298: one cluster of a saved kernel loaded, with its cores. -/
def Sys.backCluster (y : Sys) (q : Nat) (x : Kernel) (r : Saved) (d : Int) (i die cl : Nat) : Sys :=
  let kept := r.retained.contains die
  let live := r.step.map fun n => liveOf (y.sections x) i n
  let rank := 20 * die + cl
  let old := y.cluster rank
  let c := SMap.getD r.clusters (20 * i + cl) Cluster.reset
  let l2 := match live with
    | some l => if kept then c.l2 else c.l2.filter fun b => isLive l cl 0xFF 9 (b.1 / 64)
    | none => c.l2
  let y := y.setCluster rank { dict := c.dict, l2 := l2, owner := some q, last := some x.ctx, keys := some x.ctx }
  (List.range 8).foldl (fun y n =>
    match SMap.get? r.cores (160 * i + 8 * cl + n) with
    | some k =>
      let k := match live with | some l => liveCore l cl n kept k | none => k
      y.setCore (8 * rank + n) (backCore q die x.variant d k)
    | none => if old.last == some x.ctx then y else y.setCore (8 * rank + n) Core.reset) y

/-- R298: the records of a saved kernel, as its save area gives them, are loaded; it starts again at g, the first value that every die reaches from now on whose
distance from n is a multiple of 4096. -/
def Sys.loadSaved (y : Sys) (q n : Nat) (x : Kernel) (r : Saved) : Sys :=
  let z := y.readArea x r
  let x := z.1
  let r := z.2
  let g := congruent r.boundary (y.kernelNow x + 1)
  let d : Int := (g : Int) - r.boundary
  let dies := List.zip (List.range x.dies.length) x.dies
  let y := dies.foldl (fun y e => (clustersIn (y.sections x) e.1).foldl (fun y c => y.backCluster q x r d e.1 e.2 c) y) y
  let y := r.stackRecs.foldl (fun y k => y.setStk (physStack x.dies k.1) ((y.stk (physStack x.dies k.1)).load k.2 q (2 * y.hub))) y
  let y := y.lockPages x.ctx n x.dies (x.pinned.map (·.va))
  let x := Kernel.shift d x
  let y := y.setKern q { x with state := .bound, readyAt := Nat.max g x.start, stop := none, holds := Holds.none }
  (({ y with saved := SMap.del y.saved q }).settleContext x.ctx).rearm

/-- R291, R293: the report of a kernel that was saved after a fault. -/
def Saved.report (r : Saved) (x : Kernel) : Word × Word × List Nat :=
  let own := r.stop.bind (·.report)
  let no := (own.map fun p => x.logicalCore p.coreNo).getD 0
  let first := (r.cores.head?.map (·.2)).getD Core.reset
  (first.csr.fcause, ((SMap.get? r.cores no).getD first).csr.fbix, (own.map (·.detail)).getD [])

/-- R294, R301: a kernel whose save area is refused ends; FCAUSE carries 0x40 (log 147). -/
def Sys.endObsolete (y : Sys) (q : Nat) (x : Kernel) : Sys := y.endWith q x (0x40, 0, [])

/-- R298, R393: RESTORE: a saved kernel whose offer is admitted takes clusters under a variant, and is loaded once its dies' copies are
equal. A kernel that was saved after a fault, or that takes one in binding (R387), ends instead (R385), and so does one whose save area has a
header that is refused (R301). -/
def execRestore (kernel : Nat) (s : State) : Out :=
  match s.cur.kern kernel, SMap.get? s.cur.saved kernel with
  | some x, some r =>
    let header := s.cur.areaOf x 4096
    if !areaValid header then .next s
    else if x.state == .saved then
      if !s.cur.admissionOpen then .next s
      else if !areaOk header then .next (s.onCur fun y => y.endObsolete kernel x)
      else if (r.stop.bind (·.report)).isSome then .next (s.onCur fun y => y.endWith kernel x (r.report x))
      else
        match s.cur.restoreVariant kernel with
        | none => .next s
        | some v =>
          let l := s.cur.sections x
          let dies := diesOfMask ((masksOf l).getD v 0)
          let same := dies == x.dies
          .next (s.onCur fun y =>
            let moved := fun (c : Nat) => 160 * (dies.getD (x.logicalDie (dieOf c)) 0) + c % 160
            let ops := x.ops.map fun o => { o with core := moved o.core }
            let note := fun (l : Option (Nat × Word)) => l.map fun a => (moved a.1, a.2)
            let bars := x.barriers.map fun b => (b.1, { b.2 with last := note b.2.last, lastn := note b.2.lastn })
            let y := y.setKern kernel { x with state := .binding, variant := v, dies := dies, ops := ops, barriers := bars }
            let y := { y with saved := SMap.put y.saved kernel { r with retained := if same then r.retained else [] } }
            let y := (ranksOf l dies).foldl (fun y c => y.setCluster c { y.cluster c with owner := some kernel }) y
            (y.settleContext x.ctx).equaliseDies dies)
    else if x.state == .binding && (r.stop.bind (·.report)).isSome then
      .next (s.onCur fun y => y.endWith kernel { x with state := .saved } (r.report x))
    else if x.state == .binding && s.cur.equal x.dies && !s.cur.tlbBusy then
      .next { s with cur := s.cur.loadSaved kernel s.fresh x r, fresh := s.fresh + 1 }
    else .next s
  | _, _ => .next s

/-- The kernels of a group of dies that stop and go on together (R289). -/
def Sys.group (y : Sys) (x : Kernel) : List (Nat × Kernel) :=
  let ds := y.reach x.dies
  y.kernels.filter fun k => k.2.placed && k.2.dies.any ds.contains

/-- R289, R298: whether the stopped kernels of a group may all go on. -/
def Sys.mayResume (y : Sys) (x : Kernel) : Bool :=
  x.state == .stopped && !y.failing &&
    (y.group x).all fun k => k.2.state != .stopped || (k.2.saving.isNone && k.2.stop.any (·.collateral))

/-- R253: whether the stacks of the stopped kernels of a group have been handed back. -/
def Sys.groupBack (y : Sys) (x : Kernel) : Bool := (y.group x).all fun k => k.2.state != .stopped || y.handedBack k.1

/-- R253, R289, R298: RESUME: the kernels that stopped on a group of dies go on from their boundary, once no kernel among them has still to
be saved or ended and their stacks have been handed back. -/
def execResume (kernel : Nat) (s : State) : Out :=
  match s.cur.kern kernel with
  | none => .next s
  | some x =>
    if !s.cur.mayResume x then .next s
    else
      let ids := (s.cur.group x).map (·.1)
      let mark := fun (k : Nat × Kernel) =>
        if ids.contains k.1 && k.2.state == .stopped then (k.1, { k.2 with holds := { k.2.holds with due := true } }) else k
      if !x.holds.due then .next (s.onCur fun y => { y with kernels := y.kernels.map mark })
      else if s.cur.groupBack x then .next (resumeAt x.dies s)
      else .next s

end Sys2Proof.Machine
end

