-- ==== Sys2Proof/Machine/Power.lean ====
section
/-! DEFINITION. Supply, thermal limit and the power-fail sequence up to the saves (R379 to R388, R418), with field failures (R27). -/

namespace Sys2Proof.Machine

/-- R27: a cluster fails in the field: it joins the failed-cluster mask, and the digest takes the new mask (R402). -/
def execClusterFailure (rank : Nat) (s : State) : Out :=
  .next (s.onCur fun y =>
    let y := { y with failed := y.failed ||| BitVec.ofNat 80 (2 ^ rank) }
    y.extend 0xFF 0 y.failedBytes)

/-! ### Steps 1 and 2 of Table 18.2 -/

/-- A launch in binding returns to waiting at its queue head (R384, step 1). -/
def Sys.unbind (y : Sys) (q : Nat) (x : Kernel) : Sys :=
  let free := fun (c : Cluster) => { c with owner := if c.owner == some q then none else c.owner }
  let y := { y with clusters := y.clusters.map fun (c : Nat × Cluster) => (c.1, free c.2) }
  if SMap.has y.saved q then (y.setKern q { x with state := .saved }).settleContext x.ctx
  else
    let y := y.unlock x.ctx x.dies (x.pinned.map (·.va))
    let y := x.pinned.foldl (fun y r => y.unpin x.ctx r) y
    let y := { y with kernels := SMap.del y.kernels q }
    let y := match x.launch, (y.queue x.queue).map fun c => entryObj c.entry with
      | some i, some h =>
        (match SMap.get? y.graphs h with
        | some g => { y with graphs := SMap.put y.graphs h { g with begun := g.begun.erase i } }
        | none => y)
      | _, _ => y.onQueue x.queue fun c => { c with state := .waiting }
    y.settleContext x.ctx

/-- R375: every keyed port enters answering-hold, and each peer is sent each collective's last completed step, 32 to a flit (log 156). -/
def Sys.holdPorts (y : Sys) : Sys :=
  let data := y.link.colls.flatMap fun c => natLe 2 c.1 ++ natLe 4 c.2
  let flits := (if data.isEmpty then [[]] else chunks 192 data).map fun bs => { flitOf kindHold 0 with data := bs }
  let hold := fun (y : Sys) (p : Nat × Port) =>
    if p.2.usable then y.setPort p.1 (flits.foldl Port.send { p.2 with state := .answeringHold, ownHold := true })
    else y
  y.link.ports.foldl hold y

/-- R385, R412: page requests and host commands not yet begun are turned away. -/
def Sys.dropRequests (y : Sys) : Sys := (y.pageReqs.filter fun r => !r.started).foldl Sys.turnAway y

/-- The cycle of a kernel's next step point. -/
def Sys.nextStep (y : Sys) (x : Kernel) : Option Nat :=
  let l := y.sections x
  ((List.range (nstepOf l)).map fun n => x.start + stepCycle l n).find? fun c => decide (y.kernelNow x ≤ c)

/-- R384, step 2: a kernel's own selection: its next step point when that is at most 32,768 c away, else the first boundary after
W + 2 µs. -/
def Sys.ownChoice (y : Sys) (x : Kernel) : Bool × Nat :=
  let g := y.kernelNow x
  let later := (false, g + 1880 * y.opNum / y.opDen + 1)
  if x.state == .held then (true, g)
  else
    match y.nextStep x with
    | some c => if c ≤ g + 32768 then (true, c) else later
    | none => later

/-- R384, R385, step 2: the selections. A kernel that is held keeps the step point it is held at. Another follower on a lead kernel's die keeps
its own step point only when it falls before the lead kernel's boundary; otherwise it has none of its own. -/
def Sys.choices (y : Sys) : List (Nat × Bool × Nat) :=
  let live := y.kernels.filter fun x => x.2.state == .running || x.2.state == .held || x.2.state == .bound
  live.filterMap fun x =>
    let own := y.ownChoice x.2
    if x.2.lead || x.2.state == .held then some (x.1, own)
    else
      match live.find? fun k => k.2.lead && k.2.dies.any x.2.dies.contains with
      | none => some (x.1, own)
      | some k =>
        let l := y.ownChoice k.2
        if own.1 && own.2 < l.2 then some (x.1, own) else if l.1 then none else some (x.1, l)

/-- R384, R386: steps 1 and 2. `reason` is REASON, or 0 for a SAG. -/
def Sys.beginPower (y : Sys) (reason : Nat) (r : Option Req) : Sys :=
  let y := (y.kernels.filter fun x => x.2.state == .binding).foldl (fun y x => y.unbind x.1 x.2) y
  let y := y.dropRequests.holdPorts
  let y := { y with link := { y.link with incoming := [] } }
  let chosen := y.choices
  let mark := fun (x : Nat × Kernel) =>
    if chosen.any fun c => c.1 == x.1 && c.2.1 then (x.1, { x.2 with holds := { x.2.holds with shed := true } }) else x
  let h : Hibernation :=
    { w := y.wallc.toNat, step := 1, reason := reason, chosen := chosen, request := r, drained := 0, slot := 0, serial := 0,
      since := y.wallc.toNat }
  let y := { y with kernels := y.kernels.map mark, power := { y.power with hib := some h } }
  (y.kernels.filter fun x => x.2.state == .held && x.2.holds.shed).foldl (fun y x => (y.markPower x.1).powerFollow x.2) y

/-- R384, R385, R388: a failure of the supply, or HIBERNATE-NOW. While the module is shed the sequence starts at step 5; during a SAG's
own steps it takes them over; a failure that follows a SAG has REASON 3 (Table 18.5). During a sequence it has no effect, and a replay ends
only with its completion, its failure or the loss of power (Table 18.3, log 176). -/
def Sys.powerFail (y : Sys) (reason : Nat) (r : Option Req) : Sys :=
  let later := if reason == 1 then 3 else reason
  let start : Hibernation :=
    { w := y.wallc.toNat, step := 1, reason := later, chosen := [], request := r, drained := 0, slot := 0, serial := 0, since := y.wallc.toNat }
  match y.power.hib with
  | some h =>
    let taken := { h with reason := later, request := r }
    if h.reason == 0 then { y with power := { y.power with hib := some taken } } else y
  | none =>
    if y.power.shed then { y with power := { y.power with hib := some start } }
    else if y.power.waiting || y.power.manifest == .replaying then y
    else y.beginPower reason r

/-- R384: POWER_FAIL_WARNING. A form without a reserve and a tier has no sequence (R1, R418). -/
def execPowerFailWarning (s : State) : Out := if s.cur.trust.form == 3 then .next (s.onCur fun y => y.powerFail 1 none) else .next s

/-! ### Brown-out (R386, R387) -/

/-- Whether every kernel has been saved, completed or ended. -/
def Sys.allSaved (y : Sys) : Bool := y.kernels.all fun x => !x.2.admitted

/-- R386: every compute die is shed, and each stack passes to self-refresh. -/
def Sys.shedDies (y : Sys) : Sys :=
  let dies := (List.range 4).foldl (fun y d => y.setDie d { y.die d with run := .shed, equalise := 0 }) y
  let y := (List.range 8).foldl (fun y k => y.setStk k { y.stk k with driver := .selfRefresh }) dies
  { y with power := { y.power with shed := true, hib := none } }

/-- R386: SUPPLY_SAG: steps 1 to 4 of Table 18.2, and once every kernel is saved the dies are shed. -/
def execSupplySag (s : State) : Out :=
  if s.cur.trust.form != 3 then .next s
  else
    match s.cur.power.hib with
    | some h => if h.reason == 0 && s.cur.allSaved then .next (s.onCur Sys.shedDies) else .next s
    | none =>
      if s.cur.power.shed || s.cur.power.waiting || s.cur.power.manifest == .replaying then .next s
      else .next (s.onCur fun y => y.beginPower 0 none)

/-- R377, R387, R393: firmware rejoins ports, with the steps that it recorded. -/
def Sys.rejoinPorts (y : Sys) (ports : List Nat) : Sys :=
  let steps := if y.link.colls.isEmpty then [(0, 0)] else y.link.colls
  let join := fun (y : Sys) (p : Nat) =>
    steps.foldl (fun y c => y.setPort p ((y.port p).rejoin c.1 c.2)) y
  ports.foldl join y

/-- The ports that this module holds (R375). -/
def Sys.heldPorts (y : Sys) : List Nat := (y.link.ports.filter fun p => p.2.state == .answeringHold && p.2.ownHold).map (·.1)

/-- R387: UNSHED: after 10 ms of good supply the dies are unshed and the ports rejoined; kernels are then restored (`execRestore`). The
stores of a die without a retention excursion still stand. -/
def execUnshed (s : State) : Out :=
  let since := s.cur.power.good.any fun g => decide (g + 1000000 ≤ s.cur.wallc.toNat)
  if !s.cur.power.shed || s.cur.power.hib.isSome || !since then .next s
  else
    let n := s.fresh
    .next { s with
      fresh := n + 1
      cur :=
        let y := s.cur
        let y := (List.range 4).foldl (fun y d => y.setDie d { y.die d with run := .running }) y
        let y := (List.range 8).foldl (fun y k => y.setStk k ((y.stk k).takenBy .hold (2 * y.hub))) y
        let keep := fun (k : Nat × Saved) =>
          let dies := ((y.kern k.1).map (·.dies)).getD []
          (k.1, { k.2 with retained := dies.filter fun d => !Config.excursion n d })
        { y with saved := y.saved.map keep, power := { y.power with shed := false, forced := false } }.rejoinPorts y.heldPorts }

/-! ### Reports (R379, R381, R418) -/

/-- R381: whether even 1/8 for every kernel exceeds P. -/
def Sys.beyondDuty (y : Sys) : Bool :=
  let sum := y.duties.foldl (fun (f : Frac) d =>
    match y.kern d.1 with
    | some x => let e := y.excess x
                f.add { num := e.num, den := e.den * d.2 }
    | none => f) { num := 0, den := 1 }
  !y.duties.isEmpty && !(sum.le (y.powerLimit - staticPower))

/-- R381: firmware raises the envelope to SAG handling. -/
def Sys.checkEnvelope (y : Sys) : Sys :=
  if y.trust.form == 3 && y.power.hib.isNone && !y.power.shed && y.beyondDuty then
    { y.beginPower 0 none with power := { (y.beginPower 0 none).power with forced := true } }
  else y

/-- R379, R386 to R388, R418: SUPPLY_REPORT. Only an N9-M has a supply supervisor; the other forms keep the G that their board gave at start. -/
def execSupplyReport (supply : SupplyState) (granted : Nat) (reserve : Nat) (s : State) : Out :=
  if s.cur.trust.form != 3 then .next s
  else
    let good := supply == .normal || supply == .limited
    let t := s.onCur fun y => { y with power := { y.power with
      supply := supply, granted := granted, reserve := reserve,
      good := if good then (match y.power.good with | some g => some g | none => some y.wallc.toNat) else none } }
    match supply with
    | .sag => execSupplySag t
    | .fail => execPowerFailWarning t
    | _ => .next (t.onCur Sys.checkEnvelope)

/-- R418: T of a junction temperature. -/
def thermalLimit (theta : Int) : Nat := if theta ≤ 90 then 1900 else (1900 - 100 * (theta - 90)).toNat

/-- R418: every kernel of the module ends with a report, one in binding or saved too. -/
def Sys.endAll (y : Sys) (r : Report) : Sys :=
  let of := fun (y : Sys) (f : Kernel → Bool) => y.kernels.filter fun x => f x.2
  let stopped := (of y fun x => x.state == .stopped).map (·.1)
  let others := (of y fun x => x.placed && x.state != .stopped).map (·.1)
  let y := (y.stopAgain r stopped).stopAt .fault (some r) false others y.present
  let y := (of y Kernel.placed).foldl (fun y x => y.endKernel x.1 x.2) y
  (of y fun x => x.state == .binding || x.state == .saved).foldl
    (fun y x => y.endWith x.1 x.2 (fcauseWord .fault (some r) false, 0, r.detail)) y

/-- R418: THERMAL_SAMPLE. 110 °C starts Table 18.2 as HIBERNATE-NOW does; on a form without a reserve it ends every kernel with machine
check 0x72 and resets the package. -/
def execThermalSample (die : Nat) (theta : Int) (s : State) : Out :=
  let t := s.onCur fun y =>
    let y := y.setDie die { y.die die with theta := theta }
    let hot := (List.range 4).foldl (fun m d => max m (y.die d).theta) (y.die 0).theta
    { y with power := { y.power with limit := thermalLimit hot } }
  if theta < 110 then .next (t.onCur Sys.checkEnvelope)
  else if s.cur.trust.form == 3 then .next (t.onCur fun y => y.powerFail 2 none)
  else
    let r : Report :=
      { rank := 0, late := false, die := die, cluster := 0, core := 0, word := 0, cause := 0x72, detail := [0, 0, 0], pos := none,
        kernel := none }
    let t := t.onCur fun y => y.endAll r
    .next { t with todo := .ev 0 .packageReset :: t.todo }

/-- R383: DRAIN_BUDGET_AGEING, every second: pages are dropped from the tail of the drain order until the reserve carries the rest; they
return when it recovers. -/
def execDrainBudgetAgeing (s : State) : Out :=
  .next (s.onCur fun y =>
    let pages := y.drainPages
    let fits := fun (k : Nat) => reserveCarries (y.controlBytes + ((pages.take k).map fun p => pageSize p.2.code).sum) y.power.reserve
    let keep := (((List.range (pages.length + 1)).reverse.find? fits)).getD 0
    { y with power := { y.power with dropped := (pages.drop keep).map fun p => (p.1, p.2.va), aged := y.wallc.toNat } })

end Sys2Proof.Machine
end

