-- ==== Sys2Proof/Machine/Manifest.lean ====
section
/-! DEFINITION. The drain, the manifest and its seal, the warm start's replay (R382, R384, R385, R389 to R394, R402). -/

namespace Sys2Proof.Machine

/-! ### Slots (R390, Tables 18.4 and 18.5) -/

/-- The address of a slot: 0 is A, 1 is B. -/
def slotBase (n : Nat) : Nat := 0x2BC00000000 + n * 0x1000000
/-- The drain area. -/
def drainBase : Nat := 0x2BC02000000
/-- Bytes of a slot. -/
def Sys.slotRead (y : Sys) (n off len : Nat) : Bytes := Mem.read y.tier (slotBase n + off) len
/-- STATE of a slot. -/
def Sys.slotState (y : Sys) (n : Nat) : Nat := leNat (y.slotRead n 0 1)
/-- FAILCNT of a slot. -/
def Sys.slotFails (y : Sys) (n : Nat) : Nat := leNat (y.slotRead n 1 1)
/-- SERIAL of a slot. -/
def Sys.slotSerial (y : Sys) (n : Nat) : Nat := leNat (y.slotRead n 8 8)
/-- The status block of a slot written. -/
def Sys.setSlot (y : Sys) (n state fails serial : Nat) : Sys :=
  { y with tier := Mem.write y.tier (slotBase n) (natLe 1 state ++ natLe 1 fails ++ natLe 6 0 ++ natLe 8 serial ++ List.replicate 48 0) }

/-- R390: the slot for the next seal: the one that does not hold the newest sealed or consumed manifest. -/
def Sys.sealSlot (y : Sys) : Nat :=
  let held := ([0, 1] : List Nat).filter fun n => y.slotState n == 2 || y.slotState n == 4
  match held with
  | [0, 1] => if y.slotSerial 0 < y.slotSerial 1 then 0 else 1
  | [n] => 1 - n
  | _ => 0

/-- Bytes cut or filled to a length that the spec fixes. -/
def fixedLen (n : Nat) (bs : Bytes) : Bytes := (bs ++ List.replicate n 0).take n

/-- R400: DS, 256 bits. -/
def deviceSecret : Bytes := fixedLen 32 Config.deviceSecret

/-- The sealing key and the wrapping key (R400). -/
def Sys.sealKey (y : Sys) (name : String) : Bytes :=
  hkdf deviceSecret y.trust.fwmeas (ascii name ++ natLe 1 (if y.trust.conf then 1 else 0)) 32

/-! ### The drain (R382, R384) -/

/-- R402: the digest log written into its page of context 0. -/
def Sys.writeLog (y : Sys) (n : Nat) : Sys := y.vaWrite 0 (((y.ctx 0).own.head?).getD 0) n (y.trust.log.take (2 ^ 21))

/-- The regions of a drain in order, with their classes and TIEROFF. -/
def Sys.regions (y : Sys) : List (Nat × Nat × Page × Nat) :=
  let ctl := y.controlPages
  let all := (ctl.map fun p => (p.1, 0, p.2)) ++ ((y.drainList.filter fun p => !ctl.contains p).map fun p => (p.1, codeDclass p.2.code, p.2))
  (all.foldl (fun (a : List (Nat × Nat × Page × Nat) × Nat) r =>
    (a.1 ++ [(r.1, r.2.1, r.2.2, a.2)], a.2 + pageSize r.2.2.code)) ([], 0)).1

/-- Table 18.2: the WALLC ticks in which the drain writes B bytes, at 96 GB/s. -/
def drainTicks (b : Nat) : Nat := (b + 959) / 960

/-- R414: whether firmware's memory work may fall on every pseudo-channel at this boundary. -/
def Sys.allWork (y : Sys) : Bool := (List.range Config.stackCount).all fun k => (List.range 64).all fun p => (y.stk k).works p (2 * y.hub)

/-- R384, R388: DRAIN_COMPLETION: once every kernel is saved the slot's STATE becomes draining, and the stacks pass to the drain timeline;
B ÷ 96 GB/s later the drain has written every region's stored bytes to the drain area. -/
def execDrainCompletion (s : State) : Out :=
  match s.cur.power.hib with
  | none => .next s
  | some h =>
    if h.reason == 0 || !s.cur.allSaved || !s.cur.pageReqs.isEmpty then .next s
    else if h.step < 5 then
      .next (({ s with fresh := s.fresh + 1 } : State).onCur fun y =>
        let n := y.sealSlot
        let serial := Nat.max (y.slotSerial 0) (y.slotSerial 1) + 1
        let y := (List.range 8).foldl (fun y k => y.setStk k ((y.stk k).takenBy .drain (2 * y.hub))) y
        let next := { h with step := 5, slot := n, serial := serial, since := y.wallc.toNat }
        { (y.setSlot n 1 0 serial).writeLog s.fresh with power := { y.power with hib := some next, manifest := .draining } })
    else if h.step == 5 && h.since + drainTicks ((s.cur.regions.map fun r => pageSize r.2.2.1.code).sum) ≤ s.cur.wallc.toNat && s.cur.allWork then
      .next (s.onCur fun y =>
        let l := y.regions
        let put := fun (t : Mem) (r : Nat × Nat × Page × Nat) =>
          Mem.write t (drainBase + r.2.2.2) (y.memRead r.2.2.1.pa (pageSize r.2.2.1.code))
        let next := { h with step := 6, since := y.wallc.toNat, drained := (l.map fun r => pageSize r.2.2.1.code).sum }
        { y with tier := l.foldl put y.tier, power := { y.power with hib := some next } })
    else .next s

/-! ### The manifest (Tables 18.5 and 18.6) -/

/-- A kernel record. -/
def kernelRecord (y : Sys) (c : Nat × Kernel) : Bytes :=
  let x := c.2
  let r := SMap.get? y.saved c.1
  let step := (r.bind (·.step)).isSome
  natLe 2 x.ctx ++ natLe 1 (x.queue % 16) ++ natLe 1 (if step then 1 else 2) ++ natLe 4 ((r.map (·.stepno)).getD 0) ++ natLe 8 x.obj ++
    natLe 8 (((y.queue x.queue).map (·.head)).getD 0) ++ natLe 8 x.save ++ natLe 1 x.variant ++
    natLe 1 ((x.dies.map fun d => 2 ^ d).sum) ++ List.replicate 30 0

/-- A region record; its digest is that of the bytes in the drain area. -/
def regionRecord (y : Sys) (r : Nat × Nat × Page × Nat) : Bytes :=
  let size := pageSize r.2.2.1.code
  natLe 2 r.1 ++ natLe 1 r.2.1 ++ [0] ++ natLe 2 r.2.2.1.code.toNat ++ natLe 2 0 ++ natLe 8 r.2.2.1.va ++ natLe 8 size ++
    natLe 8 r.2.2.2 ++ sha256 (Mem.read y.tier (drainBase + r.2.2.2) size)

/-- The ports that lead to peers in use, as PORTMASK. -/
def Sys.portMask (y : Sys) : Nat := ((y.link.ports.filter fun p => p.2.usable).map fun p => 2 ^ p.1).sum

/-- A collective record; CTXID is that of a context with a window of the collective. -/
def collRecord (y : Sys) (c : Nat × Nat) : Bytes :=
  let of := fun (k : Nat × Saved) => k.2.cores.any fun x => x.2.wins.any fun w => w.2.coll == c.1
  let ctx := ((y.saved.find? of).bind fun k => (y.kern k.1).map (·.ctx)).getD 0
  natLe 2 c.1 ++ natLe 2 ctx ++ natLe 4 c.2 ++ natLe 4 y.portMask ++ natLe 4 0

/-- A key record. -/
def keyRecord (y : Sys) (ctx kind die : Nat) (key : Bytes) : Bytes :=
  natLe 2 ctx ++ natLe 1 kind ++ natLe 1 die ++ natLe 4 0 ++ keyWrap (y.sealKey "N9 wrap") key ++ List.replicate 16 0

/-- The keys of a manifest (R400). -/
def Sys.keyRecords (y : Sys) : List Bytes :=
  ((y.ctxs.filter fun x => !x.2.mkey.isEmpty).flatMap fun x =>
    [keyRecord y x.1 1 0 x.2.mkey, keyRecord y x.1 2 0 x.2.fkey]) ++ y.trust.dieKeys.map fun k => keyRecord y 0 3 k.1 k.2

/-- A training record. -/
def trainingRecord (k : Nat) : Bytes :=
  natLe 1 k ++ natLe 7 0 ++ (List.range 64).flatMap fun p => natLe 8 (Config.training k p).toNat

/-- Bytes padded to a multiple of 64. -/
def pad64 (bs : Bytes) : Bytes := bs ++ List.replicate ((64 - bs.length % 64) % 64) 0

/-- The body of a manifest, with the header's counts and offsets (bytes 0x58 to 0x97). -/
def Sys.manifestBody (y : Sys) : Bytes × Bytes :=
  let ks := (y.kernels.filter fun x => x.2.state == .saved).map (kernelRecord y)
  let rs := y.regions.map (regionRecord y)
  let cs := y.link.colls.map (collRecord y)
  let ys := y.keyRecords
  let ts := (List.range 8).map trainingRecord
  let parts := [ks, rs, cs, ys, ts].map fun l => pad64 l.flatten
  let offs := (List.range 5).map fun i => ((parts.take i).map List.length).sum
  let counts := ([ks.length, rs.length, cs.length, ys.length, 8].flatMap (natLe 4)) ++ natLe 4 0
  (parts.flatten, counts ++ offs.flatMap (natLe 8))

/-- The header of a manifest without its tag. -/
def Sys.manifestHeader (y : Sys) (h : Hibernation) (nonce : Bytes) (body counts : Bytes) : Bytes :=
  natLe 4 0x4E394D46 ++ natLe 2 1 ++ natLe 2 h.reason ++ natLe 8 h.serial ++ nonce ++ natLe 4 0x104 ++ y.trust.fwmeas ++
    natLe 8 y.trust.module ++ natLe 8 y.wallc.toNat ++ natLe 8 body.length ++ counts ++ natLe 8 h.drained ++
    natLe 1 (if y.power.dropped.isEmpty then 0 else 1) ++ List.replicate 79 0

/-- Firmware's structures as the drain leaves them on the tier, without keys (R401, log 20). -/
def Sys.vault (y : Sys) (serial : Nat) : Vault :=
  { serial := serial, ctxs := y.ctxs.map fun x => (x.1, { x.2 with mkey := [], fkey := [] }), queues := y.queues, kernels := y.kernels,
    objs := y.objs, graphs := y.graphs, frames := y.frames, saved := y.saved, nextId := y.nextId, log := y.trust.log, wallc := y.wallc.toNat }

/-- The kernels and contexts that a manifest lists become hibernated (R287, Table 13.5). -/
def Sys.hibernate (y : Sys) : Sys :=
  let ids := (y.kernels.filter fun x => x.2.state == .saved).map fun x => x.2.ctx
  { y with
      kernels := y.kernels.map fun x => (x.1, if x.2.state == .saved then { x.2 with state := .hibernated } else x.2)
      ctxs := y.ctxs.map fun c => (c.1, if ids.contains c.1 && c.2.state != .destroyed then { c.2 with state := .hibernated } else c.2) }

/-- R384, R391: the manifest sealed into its slot: the body enciphered, the header with its tag, and STATE last. -/
def Sys.writeSeal (y : Sys) (h : Hibernation) (n : Nat) : Sys :=
  let b := y.manifestBody
  let nonce := natLe 8 h.serial ++ (List.range 4).map (Config.randomByte n)
  let head := y.manifestHeader h nonce b.1 b.2
  let key := y.sealKey "N9 seal"
  let ct := gcmCrypt key nonce b.1
  let tier := Mem.write (Mem.write y.tier (slotBase h.slot + 0x1000) ct) (slotBase h.slot + 64) (head ++ gcmTag key nonce head ct)
  { y with tier := tier, vaults := y.hibernate.vault h.serial :: y.vaults.take 1 }.setSlot h.slot 2 0 h.serial

/-- R384, R385, R391, R405: MANIFEST_SEAL. After HIBERNATE-NOW the module waits; when the supply is back it warm-starts at once; otherwise
it is unpowered, and everything but the tier, the fuses and the security processor's store is lost. -/
def execManifestSeal (s : State) : Out :=
  match s.cur.power.hib with
  | none => .next s
  | some h =>
    if h.step != 6 then .next s
    else
      let y := (s.cur.writeSeal h s.fresh).hibernate
      let y := { y with power := { y.power with hib := none, manifest := .sealed } }
      let s := { s with cur := y, fresh := s.fresh + 1 }
      match h.request with
      | some r => .next (s.onCur fun y => { y with power := { y.power with waiting := true } }.respond 0x0A r 0 (natLe 8 h.serial))
      | none =>
        if h.reason == 2 then .next (s.onCur fun y => { y with power := { y.power with waiting := true } })
        else if y.power.supply == .normal || y.power.supply == .limited then .next { s with todo := [.ev 1 .start] }
        else .next (s.onCur fun y => { y with power := { y.power with powered := false } })

/-- R385: RESERVE_EXHAUSTED: the reserve runs out before the seal, and the slot stays as it is. -/
def execReserveExhausted (s : State) : Out :=
  if s.cur.power.hib.isSome || s.cur.power.shed || s.cur.power.manifest == .replaying then
    .next (s.onCur fun y => { y with power := { y.power with powered := false, hib := none } })
  else .next s

/-! ### Verification (R392, R394) -/

/-- Whether the reserved bytes of a header are zero. -/
def headerZeros (h : Bytes) : Bool :=
  fieldLe h 0x42 6 == 0 && fieldLe h 0x6C 4 == 0 && ((h.drop 0xA1).take 79).all (· == 0)

/-- Whether the reserved bytes of a body's records are zero. -/
def bodyZeros (h body : Bytes) : Bool :=
  let rows := fun (i size : Nat) (ok : Bytes → Bool) =>
    (List.range (fieldLe h (0x58 + 4 * i) 4)).all fun j => ok ((body.drop (fieldLe h (0x70 + 8 * i) 8 + size * j)).take size)
  rows 0 64 (fun r => (r.drop 34).all (· == 0)) && rows 1 64 (fun r => fieldLe r 3 1 == 0 && fieldLe r 6 2 == 0) &&
    rows 2 16 (fun r => fieldLe r 12 4 == 0) && rows 3 64 (fun r => fieldLe r 4 4 == 0 && (r.drop 48).all (· == 0)) &&
    rows 4 520 fun r => fieldLe r 1 7 == 0

/-- Table 18.4: whether the reserved bytes of a slot's status block are zero (R390). -/
def Sys.statusZeros (y : Sys) (n : Nat) : Bool := (y.slotRead n 2 6).all (· == 0) && (y.slotRead n 16 48).all (· == 0)

/-- The header and the plain body of a slot that verifies: its tag, its reserved bytes and those of its status block. -/
def Sys.openSlot (y : Sys) (n : Nat) : Option (Bytes × Bytes) :=
  let h := y.slotRead n 64 256
  let ct := y.slotRead n 0x1000 (Nat.min (fieldLe h 0x50 8) 0xFFF000)
  let key := y.sealKey "N9 seal"
  let nonce := (h.drop 0x10).take 12
  if gcmTag key nonce (h.take 0xF0) ct == h.drop 0xF0 && fieldLe h 0 4 == 0x4E394D46 && fieldLe h 4 2 == 1 && headerZeros h && y.statusZeros n then
    let body := gcmCrypt key nonce ct
    if bodyZeros h body then some (h, body) else none
  else none

/-- The newest slot by SERIAL, if one is not empty. -/
def Sys.newestSlot (y : Sys) : Option Nat :=
  let l := ([0, 1] : List Nat).filter fun n => y.slotState n != 0
  match l with
  | [0, 1] => some (if y.slotSerial 0 < y.slotSerial 1 then 1 else 0)
  | [n] => some n
  | _ => none

/-- R392: the slot that a warm start replays. -/
def Sys.warmSlot (y : Sys) : Option Nat :=
  y.newestSlot.bind fun n =>
    match y.openSlot n with
    | some (h, _) =>
      if (y.slotState n == 2 || y.slotState n == 3) && y.slotFails n < 3 && (h.drop 0x20).take 32 == y.trust.fwmeas &&
          fieldLe h 0x40 8 == y.trust.module then some n else none
    | none => none

/-- R394: slots that are draining, whose tag fails, or whose FAILCNT is 3 are marked rejected. -/
def Sys.rejectSlots (y : Sys) : Sys :=
  ([0, 1] : List Nat).foldl (fun y n =>
    let st := y.slotState n
    let bad := st == 1 || ((st == 2 || st == 3) && 3 ≤ y.slotFails n) ||
      ((st == 2 || st == 3 || st == 4) && (y.openSlot n).isNone)
    if bad then y.setSlot n 5 (y.slotFails n) (y.slotSerial n) else y) y

/-! ### Replay (R393, R402) -/

/-- R402: the digest chain run again over a log of records. -/
def TrustState.rerun (t : TrustState) (bs : Bytes) : Nat → TrustState
  | 0 => t
  | f + 1 =>
    if bs.length < 8 then t
    else
      let n := fieldLe bs 4 4
      TrustState.rerun (t.extend (fieldLe bs 0 2) (fieldLe bs 2 2) ((bs.drop 8).take n)) (bs.drop (8 + n)) f

/-- A region of the body read back to the frame that the page tables name, or none when its digest differs. A region of a context that
the replay does not bring back goes nowhere. -/
def Sys.readBack (y : Sys) (r : Bytes) : Option Sys :=
  let size := fieldLe r 16 8
  let bs := Mem.read y.tier (drainBase + fieldLe r 24 8) size
  if sha256 bs != r.drop 32 then none
  else if !SMap.has y.ctxs (fieldLe r 0 2) then some y
  else
    match (y.ctx (fieldLe r 0 2)).pages.find? fun p => p.va == fieldLe r 8 8 with
    | some p => some (y.hbmWrite p.pa bs)
    | none => none

/-- A key record unwrapped into its place. -/
def Sys.putKey (y : Sys) (r : Bytes) : Option Sys :=
  (keyUnwrap (y.sealKey "N9 wrap") ((r.drop 8).take 40)).map fun k =>
    let c := fieldLe r 0 2
    if fieldLe r 2 1 != 3 && !SMap.has y.ctxs c then y
    else
    match fieldLe r 2 1 with
    | 1 => y.setCtx c { y.ctx c with mkey := k }
    | 2 => y.setCtx c { y.ctx c with fkey := k }
    | _ => { y with trust := { y.trust with dieKeys := SMap.put y.trust.dieKeys (fieldLe r 3 1) k } }

/-- The records of a kind of a body. -/
def recordsOf (h body : Bytes) (i size : Nat) : List Bytes :=
  (List.range (fieldLe h (0x58 + 4 * i) 4)).map fun j => (body.drop (fieldLe h (0x70 + 8 * i) 8 + size * j)).take size

/-- R287, R304: the contexts that a replay brings back: the hibernated ones, suspended, and firmware's own. -/
def Vault.contexts (v : Vault) : SMap Context :=
  (v.ctxs.filter fun c => c.1 == 0 || c.2.state == .hibernated).map fun c =>
    (c.1, if c.2.state == .hibernated then { c.2 with state := .suspended } else c.2)

/-- The frames that those contexts' pages name, of HBM or of the tier, with REFC counted afresh; what other contexts had is free after the scrub (Table 18.7). -/
def Vault.mapped (v : Vault) : SMap Frame :=
  let pas := v.contexts.flatMap fun c => c.2.pages.map fun p => p.tier.getD p.pa
  v.frames.filterMap fun f =>
    let n := (pas.filter (· == f.1)).length
    if n == 0 then none else some (f.1, { f.2 with refc := n })

/-- R393, step 4: firmware's structures of those contexts are back, and the kernels are saved. -/
def Sys.bringContexts (y : Sys) (v : Vault) : Sys :=
  let cs := v.contexts
  let mine := fun (c : Nat) => c != 0 && SMap.has cs c
  let ks := v.kernels.filter fun k => k.2.state == .hibernated && mine k.2.ctx
  { y with ctxs := cs, queues := v.queues.filter fun q => mine q.2.ctx, kernels := ks.map fun k => (k.1, { k.2 with state := .saved }),
           objs := v.objs.filter fun o => mine o.2.ctx, graphs := v.graphs.filter fun g => mine g.2.ctx, frames := v.mapped,
           saved := v.saved.filter fun r => SMap.has ks r.1, nextId := v.nextId }

/-- R393, steps 2 to 5, and R402: regions, contexts, kernels and keys are back, the digest is recomputed from the log in its page, and the
ports rejoin; none when the attempt fails. -/
def Sys.replay (y : Sys) (n : Nat) : Option Sys := do
  let (h, body) ← y.openSlot n
  let serial := fieldLe h 8 8
  let v ← y.vaults.find? fun v => v.serial == serial
  let y := y.bringContexts v
  let y ← (recordsOf h body 1 64).foldlM Sys.readBack y
  let y ← (recordsOf h body 3 64).foldlM Sys.putKey y
  let colls := (recordsOf h body 2 16).foldl (fun m r => SMap.put m (fieldLe r 0 2) (fieldLe r 4 4)) []
  let log := ((y.vaRead 0 (((y.ctx 0).own.head?).getD 0) (Nat.min v.log.length (2 ^ 21)))).getD []
  let y := { y with link := { y.link with colls := colls }, trust := y.trust.rerun log log.length }
  let mask := (recordsOf h body 2 16).foldl (fun m r => Nat.lor m (fieldLe r 8 4)) 0
  let ports := (maskPorts mask).filter fun p => (y.port p).usable
  let y := (y.extend 0x0B 0 (natLe 8 serial)).rejoinPorts ports
  some { y with power := { y.power with joining := true } }

/-- R393, step 6: the slot is consumed, and admission opens. -/
def Sys.consumeSlot (y : Sys) (n : Nat) : Sys :=
  let y := y.setSlot n 4 0 (y.slotSerial n)
  let y := { y with power := { y.power with manifest := .armed, joining := false } }.rearm
  match y.trust.resume with
  | some r => { y with trust := { y.trust with resume := none } }.respond 0x0B r 0 []
  | none => y

/-- R393: the WALLC ticks in which the regions of a slot are read back, at 192 GB/s; DRAINED gives their bytes. -/
def Sys.readTicks (y : Sys) (n : Nat) : Nat := (fieldLe (y.slotRead n 64 256) 0x98 8 + 1919) / 1920

/-- R393, R413: REPLAY_COMPLETION, once no port is still being trained or keyed and the regions have been read: everything of the manifest
is back and the ports rejoin. Once every rejoin has been answered the slot is consumed. A failed attempt leaves the module to
restart. -/
def execReplayCompletion (s : State) : Out :=
  let busy := fun (st : PortState) => s.cur.link.ports.any fun p => p.2.state == st
  match s.cur.newestSlot with
  | none => .next s
  | some n =>
    if s.cur.power.manifest != .replaying || busy .training || busy .up then .next s
    else if s.cur.power.joining then .next (if busy .rejoining then s else s.onCur fun y => y.consumeSlot n)
    else if s.cur.wallc.toNat < s.cur.power.began + s.cur.readTicks n then .next s
    else
      match s.cur.replay n with
      | some y => .next { s with cur := y }
      | none => .next { s with todo := [.ev 1 .start] }

end Sys2Proof.Machine
end

