-- ==== Sys2Proof/Machine/Resets.lean ====
section
/-! DEFINITION. Resets (R24, R25, R254, R304, Table 1.6), starts (R409, R410, R413, Tables 18.7 and 20.2) and the reset with scrub
(R395). -/

namespace Sys2Proof.Machine

/-! ### Die resets -/

/-- Table 1.6: what a die core reset clears: the cores with their private stores, the core TLBs and the dictionaries. -/
def Sys.clearCores (y : Sys) (die : Nat) : Sys :=
  let blank := fun (c : Nat × Cluster) => (c.1, if c.1 / 20 == die then { c.2 with dict := [] } else c.2)
  let lose := fun (k : Nat × Saved) => (k.1, { k.2 with retained := k.2.retained.erase die })
  { y with cores := y.cores.filter fun c => dieOf c.1 != die, clusters := y.clusters.map blank, saved := y.saved.map lose }.setDie die
    { y.die die with coreTlbs := [] }

/-- Table 1.6, R254: what a die uncore reset clears besides: L2, the die TLB and the stacks' sequencers with near-bank units and channel
stores. HBM stays in self-refresh. -/
def Sys.clearUncore (y : Sys) (die : Nat) : Sys :=
  let y := y.clearCores die
  let y := { y with clusters := y.clusters.filter fun c => c.1 / 20 != die }
  let y := y.setDie die { y.die die with tlb := [] }
  ([2 * die, 2 * die + 1] : List Nat).foldl (fun y k => y.setStk k { Stack.reset with driver := .selfRefresh }) y

/-- Whether a stack's compiled timeline stands between seams (R25). -/
def Stack.between (x : Stack) : Bool := x.driver == .compiled && x.seam.isNone && x.pos != 0

/-- R25, R304: a reset of a die waits for a seam, stops the die's kernels as a forced pre-emption does, and takes effect once they are
saved. A launch still binding returns to its queue head. -/
def resetDie (die : Nat) (e : Event) (clear : Sys → Sys) (s : State) : Out :=
  let again := fun (t : State) => { t with inputs := t.inputs ++ [{ time := t.cur.hub + 1, unit_ := 0, event := e }] }
  let on := s.cur.kernelsOn die
  if on.isEmpty then
    .next (s.onCur fun y =>
      clear ((y.kernels.filter fun x => x.2.state == .binding && x.2.dies.contains die).foldl (fun y x => y.unbind x.1 x.2) y))
  else if on.any (fun x => x.2.state == .bound) || ([2 * die, 2 * die + 1] : List Nat).any fun k => (s.cur.stk k).between then
    .next (again s)
  else if on.any fun x => x.2.state == .running || x.2.state == .held then
    .next (again (s.onCur fun y => y.stopAt .preempt none false (on.map (·.1)) (on.flatMap (·.2.dies))))
  else .next (again s)

/-- R24, R25, R304: DIE_CORE_RESET. -/
def execDieCoreReset (die : Nat) (s : State) : Out := resetDie die (.dieCoreReset die) (fun y => y.clearCores die) s

/-- R24, R254, R304: DIE_UNCORE_RESET. -/
def execDieUncoreReset (die : Nat) (s : State) : Out := resetDie die (.dieUncoreReset die) (fun y => y.clearUncore die) s

/-! ### Package reset and start -/

/-- R24: the module with nothing but what survives a package reset: the tier with firmware's vault, the fuses and the security
processor's store, and the failed-cluster mask (R27). Responses that were sent stay as sent. `clock` keeps the time, the supply's last
report and the sessions of a start without loss of power. -/
def Sys.survive (y : Sys) (clock : Bool) : Sys :=
  let t := y.trust
  let trust : TrustState :=
    { TrustState.reset with conf := t.conf, form := t.form, fuses := t.fuses, svn := t.svn, image := t.image, module := t.module,
                            scrubbing := t.scrubbing, out := t.out }
  let p := y.power
  let base := { Sys.reset with tier := y.tier, vaults := y.vaults.map Vault.restarted, failed := y.failed, trust := trust, hostOut := y.hostOut }
  if clock then
    { base with vaults := y.vaults, hub := y.hub, wallc := y.wallc, wallAcc := y.wallAcc, opNum := y.opNum, opDen := y.opDen,
                trust := { trust with negotiated := t.negotiated, sessions := t.sessions, nextSession := t.nextSession, resume := t.resume },
                power := { base.power with supply := p.supply, granted := p.granted, reserve := p.reserve, limit := p.limit, good := p.good } }
  else base

/-- The machine begins again with what survives; inputs that have not arrived still arrive, and those that waited are lost with the power. -/
def State.again (s : State) (clock : Bool) : State :=
  let y := s.cur.survive clock
  let later := s.inputs.filter fun i => decide (s.cur.hub < i.time || (s.cur.hub == i.time && s.phase < 2))
  let inputs := if clock then s.inputs else later.map fun i => { i with time := i.time - s.cur.hub }
  { old := y, cur := y, unit := 0, issue := Issue.none, todo := [], faults := [], uses := [], inputs := inputs, fresh := s.fresh,
    phase := 0 }

/-- R24, R304: PACKAGE_RESET, which a start follows. -/
def execPackageReset (s : State) : Out := .next { s.again false with todo := [.ev 0 .start] }

/-- R395: steps 1 to 4 of the reset with scrub. -/
def Sys.scrubAll (y : Sys) (conf : Bool) : Sys :=
  { y with tier := [], vaults := [], trust := { y.trust with conf := conf, scrubbing := none } }

/-- R410: an interrupted pair is completed. -/
def wholePairs (f : List (Bool × Bool)) : List (Bool × Bool) := f.map fun p => if p.1 || p.2 then (true, true) else p
/-- R410: the anti-rollback counter: the pairs, from pair 0 upward, in which either bit is blown. -/
def fuseCount (f : List (Bool × Bool)) : Nat := (f.takeWhile fun p => p.1 || p.2).length

/-- R409: whether a start refuses the firmware image in place. -/
def TrustState.refuses (t : TrustState) : Bool :=
  Config.imageRefused Config.fusedKeyHash t.image || t.svn < fuseCount t.fuses || 64 < t.svn

/-- R413: whether step 1, 2 or 3 of a start fails; `n` numbers the start. -/
def TrustState.startFails (t : TrustState) (n : Nat) : Bool := Config.startFails n 1 || t.refuses || Config.startFails n 3

/-- R402, R405: context 0 has a page for the digest log. -/
def Sys.logPage (y : Sys) (n : Nat) : Sys :=
  (y.ownPage 0 0 n).elim y fun z => z.setCtx 0 { z.ctx 0 with own := [0] }

/-- R405: a RESUME whose start turned out cold is answered without effect (log 149). -/
def Sys.resumeCold (y : Sys) : Sys :=
  match y.trust.resume with
  | some r => { y with trust := { y.trust with resume := none } }.respond 0x0B r 2 []
  | none => y

/-- R413: every port and the host link begin to train (Table 20.2, step 9); an N9-D has neither (R11). -/
def Sys.trainPorts (y : Sys) : Sys :=
  if y.trust.form == 1 then y else
  { y with link := { y.link with
      host := .up, ports := (List.range 24).map fun p => (p, { Port.reset with state := .training }) } }

/-- Whether a context that a manifest brings stands to be destroyed: not firmware's own, and not destroyed before. -/
def Context.stands (c : Nat × Context) : Bool := c.1 != 0 && c.2.state != .destroyed && c.2.state != .empty

/-- R402: the contexts of a manifest whose replay is given up are destroyed, which no verb caused. -/
def Sys.endReplays (y : Sys) : Sys :=
  ([0, 1] : List Nat).foldl (fun y n =>
    if y.slotState n == 3 && 3 ≤ y.slotFails n && (y.openSlot n).isSome then
      match y.vaults.find? fun v => v.serial == y.slotSerial n with
      | some v => (v.ctxs.filter Context.stands).foldl (fun y c => y.extend 7 c.1 (natLe 1 2)) y
      | none => y
    else y) y

/-- R392 to R394, R400, R402: a start from its third step on, of a verified image; `n` is the number of its random bytes. A warm start is
left replaying; a cold one draws the die integrity keys. The fuses are raised after it, bit by bit (`closeCycle`). -/
def Sys.startUp (y : Sys) (n : Nat) : Sys :=
  let t := y.trust
  let y := { y with trust := { t with fwmeas := sha256 t.image, recovery := false } }.newChain.logPage n
  let warm := y.warmSlot
  let y := y.endReplays.rejectSlots.trainPorts
  match warm with
  | some k =>
    { y.setSlot k 3 (y.slotFails k + 1) (y.slotSerial k) with
      power := { y.power with manifest := .replaying, began := y.wallc.toNat, joining := false } }
  | none =>
    let keys := (List.range 4).map fun d => (d, (List.range 32).map fun i => Config.randomByte n (32 * d + i))
    { y with trust := { y.trust with dieKeys := keys } }.resumeCold

/-- R395, R409, R410, R413: START. The unit is 0 after a loss of power or a package reset, and 1 when the module kept its power. A refused
image leaves the ROM recovery image. -/
def execStart (s : State) : Out :=
  let s := s.again (s.unit == 1)
  let n := s.fresh
  let y := match s.cur.trust.scrubbing with
    | some m => s.cur.scrubAll m
    | none => s.cur
  let y := { y with trust := { y.trust with fuses := wholePairs y.trust.fuses } }
  let y := if y.trust.form == 3 then y else { y with power := { y.power with granted := Config.boardLimit } }
  let y := if y.trust.startFails n then { y with trust := { y.trust with recovery := true } } else y.startUp n
  .next { s with old := y, cur := y, fresh := n + 2 }

end Sys2Proof.Machine
end

