-- ==== Sys2Proof/Machine/Scalar.lean ====
section
/-! DEFINITION. The scalar class, majors 0x00 to 0x0F (R108 to R112), and the prefix word (R63). -/

namespace Sys2Proof.Machine

/-- R63: the prefix waits for the instruction it modifies. -/
def execPfx (i : BitVec 12) (e v : BitVec 1) (p : BitVec 6) (t : BitVec 1) (sr : BitVec 2) (a r : BitVec 1) (m : BitVec 3)
    (x : BitVec 1) (s : State) : Out :=
  let f : Pfx :=
    { x := x == 1, m := m, r := r == 1, a := a == 1, s := sr, t := t == 1, p := p, v := v == 1, e := e == 1, i := i }
  .next { s with issue := { s.issue with pfx := some f } }

/-- A scalar result of two register operands, L cycles later (R104, R109). -/
def alu2 (lat : Nat) (f : Word → Word → Word) (b a d : BitVec 6) (s : State) : Out :=
  plain s fun s => s.laterS lat d (f (s.sv a) (s.sv b)) 0

/-- A scalar result of one register operand. -/
def alu1 (f : Word → Word) (a d : BitVec 6) (s : State) : Out :=
  plain s fun s => s.laterS 1 d (f (s.sv a)) 0

/-- An integer result with its saturated form (R28, R109): format 11 is .i64, 10 is .i32 and is sign-extended. -/
def satResult (fmt : Nat) (sat : Bool) (x : Int) : Word × Flags :=
  let (v, fl) := intResult fmt sat x
  (BitVec.ofInt 64 (intVal fmt v), fl)

/-- A saturating scalar operation over the readings `rd` of its operands. -/
def aluSat (lat fmt : Nat) (rd : Word → Int) (f : Int → Int → Int) (b a d : BitVec 6) (s : State) : Out :=
  plain s fun s =>
    let (v, fl) := satResult fmt s.sat (f (rd (s.sv a)) (rd (s.sv b)))
    s.laterS lat d v fl

/-- The signed reading of the low 32 bits. -/
def low32 (x : Word) : Int := (x.extractLsb' 0 32).toInt

/-- R109: ADD. -/
def execAdd (b a d : BitVec 6) (s : State) : Out := aluSat 1 11 BitVec.toInt (· + ·) b a d s
/-- R109: SUB. -/
def execSub (b a d : BitVec 6) (s : State) : Out := aluSat 1 11 BitVec.toInt (· - ·) b a d s
/-- R109: ADDX. -/
def execAddx (b a d : BitVec 6) (s : State) : Out := aluSat 1 10 low32 (· + ·) b a d s
/-- R109: SUBX. -/
def execSubx (b a d : BitVec 6) (s : State) : Out := aluSat 1 10 low32 (· - ·) b a d s
/-- R109: AND. -/
def execAnd (b a d : BitVec 6) (s : State) : Out := alu2 1 (· &&& ·) b a d s
/-- R109: OR. -/
def execOr (b a d : BitVec 6) (s : State) : Out := alu2 1 (· ||| ·) b a d s
/-- R109: XOR. -/
def execXor (b a d : BitVec 6) (s : State) : Out := alu2 1 (· ^^^ ·) b a d s
/-- R109: ANDN. -/
def execAndn (b a d : BitVec 6) (s : State) : Out := alu2 1 (fun x y => x &&& ~~~y) b a d s
/-- The shift amount of a register operand: bits(b, 5, 0) (R109). -/
def amount (b : Word) : Nat := b.toNat % 64
/-- R109: SHL. -/
def execShl (b a d : BitVec 6) (s : State) : Out := alu2 1 (fun x y => x <<< amount y) b a d s
/-- R109: SHR. -/
def execShr (b a d : BitVec 6) (s : State) : Out := alu2 1 (fun x y => x >>> amount y) b a d s
/-- R109: SAR. -/
def execSar (b a d : BitVec 6) (s : State) : Out := alu2 1 (fun x y => x.sshiftRight (amount y)) b a d s
/-- R109: ROL. -/
def execRol (b a d : BitVec 6) (s : State) : Out := alu2 1 (fun x y => x.rotateLeft (amount y)) b a d s
/-- R109: ROR. -/
def execRor (b a d : BitVec 6) (s : State) : Out := alu2 1 (fun x y => x.rotateRight (amount y)) b a d s
/-- R109: MIN, signed. -/
def execMin (b a d : BitVec 6) (s : State) : Out := alu2 1 (fun x y => if x.slt y then x else y) b a d s
/-- R109: MAX, signed. -/
def execMax (b a d : BitVec 6) (s : State) : Out := alu2 1 (fun x y => if x.slt y then y else x) b a d s
/-- R109: MINN, unsigned. -/
def execMinn (b a d : BitVec 6) (s : State) : Out := alu2 1 (fun x y => if x.ult y then x else y) b a d s
/-- R109: MAXN, unsigned. -/
def execMaxn (b a d : BitVec 6) (s : State) : Out := alu2 1 (fun x y => if x.ult y then y else x) b a d s

/-- R109: ADDI. -/
def execAddi (i : BitVec 12) (a d : BitVec 6) (s : State) : Out :=
  plain s fun s =>
    let (v, fl) := satResult 11 s.sat ((s.sv a).toInt + s.immS i)
    s.laterS 1 d v fl

/-- A logical operation with an immediate, taken as a 64-bit two's complement value (R109). -/
def aluImm (f : Word → Word → Word) (i : BitVec 12) (a d : BitVec 6) (s : State) : Out :=
  plain s fun s => s.laterS 1 d (f (s.sv a) (BitVec.ofInt 64 (s.immS i))) 0

/-- R109: ANDI. -/
def execAndi (i : BitVec 12) (a d : BitVec 6) (s : State) : Out := aluImm (· &&& ·) i a d s
/-- R109: ORI. -/
def execOri (i : BitVec 12) (a d : BitVec 6) (s : State) : Out := aluImm (· ||| ·) i a d s
/-- R109: XORI. -/
def execXori (i : BitVec 12) (a d : BitVec 6) (s : State) : Out := aluImm (· ^^^ ·) i a d s
/-- R109: SHLI. -/
def execShli (n a d : BitVec 6) (s : State) : Out := alu1 (fun x => x <<< n.toNat) a d s
/-- R109: SHRI. -/
def execShri (n a d : BitVec 6) (s : State) : Out := alu1 (fun x => x >>> n.toNat) a d s
/-- R109: SARI. -/
def execSari (n a d : BitVec 6) (s : State) : Out := alu1 (fun x => x.sshiftRight n.toNat) a d s

/-- R109: MUL. -/
def execMul (b a d : BitVec 6) (s : State) : Out := aluSat 3 11 BitVec.toInt (· * ·) b a d s
/-- R109: MULH, the high half of the signed product. -/
def execMulh (b a d : BitVec 6) (s : State) : Out :=
  alu2 3 (fun x y => BitVec.ofInt 64 (x.toInt * y.toInt / 2 ^ 64)) b a d s
/-- R109: MULHN, the high half of the unsigned product. -/
def execMulhn (b a d : BitVec 6) (s : State) : Out :=
  alu2 3 (fun x y => BitVec.ofNat 64 (x.toNat * y.toNat / 2 ^ 64)) b a d s

/-- R29: the signed quotient, saturated when SAT is set. -/
def divSigned (sat : Bool) (x y : Int) : Word × Flags :=
  if y == 0 then (BitVec.allOnes 64, 0) else satResult 11 sat (Int.tdiv x y)

/-- R29: DIVS. -/
def execDivs (b a d : BitVec 6) (s : State) : Out :=
  plain s fun s =>
    let (v, fl) := divSigned s.sat (s.sv a).toInt (s.sv b).toInt
    s.laterS 20 d v fl
/-- R29: DIVN. -/
def execDivn (b a d : BitVec 6) (s : State) : Out :=
  alu2 20 (fun x y => if y == 0 then BitVec.allOnes 64 else x / y) b a d s
/-- R29: REMS; the remainder has the sign of the dividend. -/
def execRems (b a d : BitVec 6) (s : State) : Out :=
  alu2 20 (fun x y => if y == 0 then x else BitVec.ofInt 64 (Int.tmod x.toInt y.toInt)) b a d s
/-- R29: REMN. -/
def execRemn (b a d : BitVec 6) (s : State) : Out := alu2 20 (fun x y => if y == 0 then x else x % y) b a d s

/-- R30: CLZ at width 64. -/
def execClz (a d : BitVec 6) (s : State) : Out := alu1 (fun x => BitVec.ofNat 64 (clzNat 64 x.toNat)) a d s
/-- R30: CTZ at width 64. -/
def execCtz (a d : BitVec 6) (s : State) : Out := alu1 (fun x => BitVec.ofNat 64 (ctzNat 64 x.toNat)) a d s
/-- R30: FFS at width 64. -/
def execFfs (a d : BitVec 6) (s : State) : Out := alu1 (fun x => BitVec.ofNat 64 (ffsNat 64 x.toNat)) a d s
/-- R30: POPC at width 64. -/
def execPopc (a d : BitVec 6) (s : State) : Out := alu1 (fun x => BitVec.ofNat 64 (popcNat 64 x.toNat)) a d s

/-- R109: EXTB, `l` + 1 bits from position `p`. -/
def execExtb (l p a d : BitVec 6) (s : State) : Out :=
  alu1 (fun x => (x >>> p.toNat) &&& BitVec.ofNat 64 (2 ^ (l.toNat + 1) - 1)) a d s

/-- The destination with a field of `l` + 1 bits at `p` replaced by the low bits of `x` (R109). -/
def insertBits (old x : Word) (p l : Nat) : Word :=
  let m := BitVec.ofNat 64 (2 ^ (l + 1) - 1)
  (old &&& ~~~(m <<< p)) ||| ((x &&& m) <<< p)

/-- R109: INSB; the destination is read at issue. -/
def execInsb (l p a d : BitVec 6) (s : State) : Out :=
  plain s fun s => s.laterS 1 d (insertBits (s.sv d) (s.sv a) p.toNat l.toNat) 0

/-- R110: MOVI. -/
def execMovi (i : BitVec 18) (d : BitVec 6) (s : State) : Out :=
  plain s fun s => s.laterS 1 d (BitVec.ofInt 64 (s.immU i)) 0
/-- R110: MOVHI. -/
def execMovhi (i : BitVec 18) (d : BitVec 6) (s : State) : Out :=
  plain s fun s => s.laterS 1 d ((s.sv d <<< 30) + (BitVec.ofInt 64 (s.immU i) &&& 0x3FFFFFFF)) 0

/-- R111: SEL. -/
def execSel (p b a d : BitVec 6) (s : State) : Out :=
  plain s fun s => s.laterS 1 d (if s.me.pname p.toNat then s.sv a else s.sv b) 0

/-- The conditions of CMP and CMPI (Table 4.4). -/
def condHolds (c : Nat) (a b : Word) : Bool :=
  match c with
  | 0 => a == b
  | 1 => a != b
  | 2 => a.slt b
  | 3 => !a.slt b
  | 4 => a.ult b
  | _ => !a.ult b

/-- R111: CMP. -/
def execCmp (c : BitVec 4) (b a p : BitVec 6) (s : State) : Out :=
  plain s fun s => s.laterP 1 p (condHolds c.toNat (s.sv a) (s.sv b))
/-- R111: CMPI. -/
def execCmpi (c : BitVec 4) (i : BitVec 8) (a p : BitVec 6) (s : State) : Out :=
  plain s fun s => s.laterP 1 p (condHolds c.toNat (s.sv a) (BitVec.ofInt 64 (s.immS i)))

/-- R112: MULMOD under QMOD and QINV. -/
def execMulmod (b a d : BitVec 6) (s : State) : Out :=
  plain s fun s => s.laterS 6 d (BitVec.ofNat 64
    (mulmod s.me.csr.qmod.toNat s.me.csr.qinv.toNat (s.sv a).toNat (s.sv b).toNat)) 0
/-- R112: ADDMOD under QMOD. -/
def execAddmod (b a d : BitVec 6) (s : State) : Out :=
  plain s fun s => s.laterS 6 d (BitVec.ofNat 64 (addmod s.me.csr.qmod.toNat (s.sv a).toNat (s.sv b).toNat)) 0
/-- R112: TAGP. -/
def execTagp (b a d : BitVec 6) (s : State) : Out :=
  alu2 1 (fun x y => y.extractLsb' 0 10 ++ x.extractLsb' 0 54) b a d s

/-- A predicate of two predicates (R111). -/
def pred2 (f : Bool → Bool → Bool) (b a d : BitVec 6) (s : State) : Out :=
  plain s fun s => s.laterP 1 d (f (s.me.pname a.toNat) (s.me.pname b.toNat))

/-- R111: PAND. -/
def execPand (b a d : BitVec 6) (s : State) : Out := pred2 (· && ·) b a d s
/-- R111: POR. -/
def execPor (b a d : BitVec 6) (s : State) : Out := pred2 (· || ·) b a d s
/-- R111: PXOR. -/
def execPxor (b a d : BitVec 6) (s : State) : Out := pred2 xor b a d s
/-- R111: PNOT. -/
def execPnot (a d : BitVec 6) (s : State) : Out := plain s fun s => s.laterP 1 d (!s.me.pname a.toNat)

end Sys2Proof.Machine
end

