-- ==== Sys2Proof/Machine/Verbs.lean ====
section
/-! DEFINITION. The trust mailbox, host commands, SPDM and MCTP (R287, R363, R395, R403 to R407, R411, R412, R417 to R419). -/

namespace Sys2Proof.Machine

/-! ### How a verb is received (R403 to R405, R411, R412) -/

/-- The classes of R403, and the host commands of Table 20.1. -/
inductive VerbClass where
  | any | owner | operator | host
  deriving DecidableEq, Repr

/-- What every verb has: its code, class, whether it names a context, whether N9-P and N9-D refuse it, and whether it is served between
step 1 of Table 18.2 and the end of a replay. -/
structure VerbKind where
  code  : Nat
  cls   : VerbClass
  named : Bool
  tier  : Bool
  early : Bool
  deriving DecidableEq, Repr

/-- Whether a context exists for a verb. -/
def Sys.hasCtx (y : Sys) (c : Nat) : Bool := c != 0 && c < 256 && (y.ctx c).state != .empty && (y.ctx c).state != .destroyed

/-- R403: whether a session is the owner's of a context. -/
def Sys.ownedBy (y : Sys) (session ctx : Nat) : Bool :=
  y.trust.sessions.any fun x => x.id == session && x.owner == some (y.ctx ctx).owner

/-- R403 to R405, R411: the STATUS with which a request is turned away, or none. -/
def Sys.turnedAway (y : Sys) (v : VerbKind) (h : Req) (bodyOk : Bool) (bytes : Nat) : Option Nat :=
  if h.reserved != 0 || h.len != bytes || !bodyOk then some 1
  else if (y.trust.conf && (v.cls == .host || h.session == 0)) || (v.tier && y.trust.form != 3) then some 2
  else if y.restricted && !v.early then some 5
  else if v.named && !y.hasCtx h.ctx.toNat then some 4
  else if v.cls == .owner && h.session != 0 && !y.ownedBy h.session h.ctx.toNat then some 3
  else none

/-- Whether firmware serves requests: the recovery image runs only the firmware update path (R409), and a reset with scrub discards what
arrives (R412). -/
def Sys.serves (y : Sys) : Bool := !y.trust.recovery && y.trust.scrubbing.isNone

/-- Whether firmware takes a request at all: it serves requests, and the session is open (R405). -/
def Sys.hears (y : Sys) (session : Nat) : Bool := y.serves && (session == 0 || y.trust.sessions.any fun x => x.id == session)

/-- A verb: turned away with its STATUS, or carried out by `f`. -/
def verb (v : VerbKind) (h : Req) (body : Bytes) (bodyOk : Bool) (s : State) (f : State → State) : Out :=
  if !s.cur.hears h.session then .next s
  else
    match s.cur.turnedAway v h bodyOk body.length with
    | some st => .next (s.onCur fun y => y.respond v.code h st [])
    | none => .next (f s)

/-- A verb whose effect is on the module alone. -/
def verbOn (v : VerbKind) (h : Req) (body : Bytes) (bodyOk : Bool) (s : State) (f : Sys → Sys) : Out :=
  verb v h body bodyOk s fun s => s.onCur f

/-! ### Verbs of any session -/

/-- R405: IDENTIFY. -/
def execIdentify (h : Req) (body : Bytes) (s : State) : Out :=
  verbOn ⟨0x01, .any, false, false, true⟩ h body body.isEmpty s fun y =>
    y.respond 0x01 h 0 (natLe 1 y.trust.form ++ natLe 1 2 ++ natLe 2 Config.fwLevel.toNat ++ natLe 1 (if y.trust.conf then 1 else 0) ++
      natLe 2 y.trust.module ++ y.failedBytes ++ natLe 1 (fuseCount y.trust.fuses))

/-- R405: CONFIG-DIGEST. -/
def execConfigDigest (h : Req) (body : Bytes) (s : State) : Out :=
  verbOn ⟨0x02, .any, false, false, true⟩ h body body.isEmpty s fun y => y.respond 0x02 h 0 (natLe 8 y.trust.log.length)

/-- R407: an SLH-DSA-SHA2-128f signature, 17,088 bytes. -/
def signed (seed m : Bytes) : Bytes := fixedLen 17088 (Config.slhDsaSign seed m)

/-- R400: the seed of the alias key, from the device secret and the measurement. -/
def Sys.aliasSeed (y : Sys) : Bytes := hkdf deviceSecret y.trust.fwmeas (ascii "N9 alias") 32

/-- R400: a signature by the alias key. -/
def Sys.aliasSign (y : Sys) (m : Bytes) : Bytes := signed y.aliasSeed m

/-- R400, R406: the alias key's certificate: its public key, signed by the device identity key. -/
def Sys.aliasCertificate (y : Sys) : Bytes :=
  let key := Config.slhDsaPublic y.aliasSeed
  key ++ signed (hkdf deviceSecret [] (ascii "N9 id") 32) key

/-- R400, R406: the certificate chain of slot 0: from the Wailvaud root through the identity key to the alias key. -/
def Sys.certificateChain (y : Sys) : Bytes := Config.rootCertificate ++ Config.identityCertificate ++ y.aliasCertificate

/-- R407: the transcript hash of a session, 32 bytes. -/
def Sys.transcript (y : Sys) (session : Nat) : Bytes :=
  fixedLen 32 (Config.transcriptHash (((y.trust.sessions.find? fun x => x.id == session).map (·.transcript)).getD 0))

/-- R407: the report of ATTEST-SESSION, 128 bytes. -/
def Sys.report (y : Sys) (session : Nat) (nonce : Bytes) : Bytes :=
  nonce ++ y.transcript session ++ y.trust.cd ++ natLe 8 y.trust.cdseq ++ natLe 8 (fuseCount y.trust.fuses) ++
    natLe 1 (if y.trust.conf then 1 else 0) ++ natLe 2 y.trust.module ++ List.replicate 13 0

/-- R405, R407: ATTEST-SESSION. -/
def execAttestSession (h : Req) (body : Bytes) (s : State) : Out :=
  verbOn ⟨0x0C, .any, false, false, true⟩ h body (body.length == 32) s fun y =>
    y.respond 0x0C h 0 (y.report h.session body ++ y.aliasSign (y.report h.session body))

/-! ### Contexts -/

/-- The address of each ring when rings of these capacities lie one after another. -/
def ringBases : Nat → List Nat → List Nat
  | _, [] => []
  | va, c :: cs => va :: ringBases (va + 64 * 2 ^ c) cs

/-- The queues that CREATE-CONTEXT declares. -/
def Sys.addQueues (y : Sys) (ctx : Nat) (qs : List (Nat × Nat × Nat)) : Sys :=
  qs.foldl (fun y q =>
    y.setQueue (16 * ctx + q.1)
      { ctx := ctx, num := q.1, cap := 2 ^ q.2.1, ring := BitVec.ofNat 64 q.2.2, tail := 0, head := 0, err := 0, state := .idle,
        ready := none, valid := false, entry := [], sigs := [], pubs := [], raises := [] }) y

/-- NQ of a CREATE-CONTEXT body. -/
def createNq (body : Bytes) : Nat := fieldLe body 32 1
/-- log2 CAP per queue. -/
def createCaps (body : Bytes) : List Nat := (body.drop 37).map BitVec.toNat

/-- Whether a CREATE-CONTEXT body is well formed. -/
def createOk (body : Bytes) : Bool :=
  1 ≤ createNq body && createNq body ≤ 16 && body.length == 37 + createNq body && (createCaps body).all fun c => 4 ≤ c && c ≤ 16

/-- R287, R305, R400, R405: a context with its pages, queues and keys, under a number and at an address that firmware chooses; none when
something is used up. -/
def Sys.createContext (y : Sys) (body : Bytes) (n : Nat) : Option (Sys × Nat × List Nat) :=
  let caps := createCaps body
  let npage := fieldLe body 33 4
  let free := (List.range 256).filter fun c => c != 0 && !SMap.has y.ctxs c
  match free[Config.pick n % free.length]? with
  | none => none
  | some c =>
    if 1024 < y.queues.length + caps.length || 2 ^ 21 * npage < (caps.map fun k => 64 * 2 ^ k).sum || 196608 < npage then none
    else
      let va := Config.pick (n + 1) % (2 ^ 33 - npage) * 2 ^ 21
      let mkey := (List.range 32).map (Config.randomByte n)
      let x : Context :=
        { state := .created, owner := body.take 32, mkey := mkey, fkey := hkdf mkey [] (ascii "N9 fp") 32,
          queues := List.range caps.length, pages := [],
          own := (List.range npage).map fun i => va + 2 ^ 21 * i }
      let bases := ringBases va caps
      ((y.setCtx c x).ownPages c va (n + 2) npage).map fun z =>
        (z.addQueues c (List.zip (List.range caps.length) (List.zip caps bases)), c, bases)

/-- R405: CREATE-CONTEXT. -/
def execCreateContext (h : Req) (body : Bytes) (s : State) : Out :=
  verb ⟨0x03, .operator, false, false, false⟩ h body (createOk body) s fun s =>
    match s.cur.createContext body s.fresh with
    | none => s.onCur fun y => y.respond 0x03 h 6 []
    | some (y, c, bases) =>
      let y := y.extend 0x03 c (body.take 33 ++ body.drop 37)
      let out := natLe 2 c ++ (List.range 16).flatMap fun i => natLe 8 (bases.getD i 0)
      { s with cur := y.respond 0x03 h 0 out, fresh := s.fresh + 2 + fieldLe body 33 4 }

/-- R301, R405: an object that passed its checks is kept with a save area; its handle. -/
def Sys.keepObject (y : Sys) (ctx n : Nat) (file : Bytes) (l : List Section) : Option (Sys × Nat) := do
  let (z, va) ← y.newArea ctx n l
  let x := z.ctx ctx
  let z := z.setCtx ctx { x with state := if x.state == .created then .loaded else x.state }
  some ({ z with objs := SMap.put z.objs z.nextId { ctx := ctx, saves := [va], file := file, sections := l }, nextId := z.nextId + 1 }, z.nextId)

/-- R405: the last chunk of LOAD-KERNEL: the object is checked and kept, or discarded. -/
def finishLoad (h : Req) (file : Bytes) (s : State) : State :=
  let ctx := h.ctx.toNat
  let s := s.onCur fun y => { y with trust := { y.trust with loads := SMap.del y.trust.loads ctx } }
  match fileTrouble file with
  | .error e => s.onCur fun y => y.respond 0x04 h 1 (natLe 1 e.cause ++ (List.range 3).flatMap fun i => natLe 4 (e.detail.getD i 0))
  | .ok l =>
    match s.cur.keepObject ctx s.fresh file l with
    | none => s.onCur fun y => y.respond 0x04 h 6 []
    | some (y, handle) =>
      { s with cur := (y.extend 0x04 ctx (sha256 file ++ natLe 8 handle)).respond 0x04 h 0 (natLe 8 handle),
               fresh := s.fresh + 2 + savePages l }

/-- R405: LOAD-KERNEL: chunks assemble the object in order. -/
def execLoadKernel (h : Req) (body : Bytes) (s : State) : Out :=
  verb ⟨0x04, .owner, true, false, false⟩ h body (decide (16 ≤ body.length && body.length ≤ 4048)) s fun s =>
    let ctx := h.ctx.toNat
    let off := fieldLe body 0 8
    let total := fieldLe body 8 8
    let before : Assembly := if off == 0 then { total := total, got := [] }
      else (SMap.get? s.cur.trust.loads ctx).getD { total := total, got := [] }
    let got := before.got ++ body.drop 16
    if before.total != total || before.got.length != off || total < got.length then s.onCur fun y => y.respond 0x04 h 1 []
    else if got.length == total then finishLoad h got s
    else s.onCur fun y =>
      { y with trust := { y.trust with loads := SMap.put y.trust.loads ctx { total := total, got := got } } }.respond 0x04 h 0 []

/-! ### Destruction (R287, R288, R310, R363, R399) -/

/-- R310: the entries of a queue finish with STATUS 4 in order, and the queue becomes absent. -/
def Sys.cancelQueue (y : Sys) (qi : Nat) : Sys :=
  match y.queue qi with
  | none => y
  | some q =>
    let y := (List.range (q.tail - q.head)).foldl (fun y _ => y.finishHead qi 4 0 0 []) y
    { y with queues := SMap.del y.queues qi }

/-- R288: a kernel of a destroyed context is stopped as by a forced pre-emption and leaves the machine unsaved. Its accesses under way
still perform, and land nowhere. -/
def Sys.dropKernel (y : Sys) (q : Nat) (x : Kernel) : Sys :=
  let y := if x.state == .running || x.state == .held then y.stopAt .preempt none false [q] x.dies else y
  let cores := y.coresOf q
  let loose := fun (a : Access) => match a.core with
    | some c => if cores.contains c then { a with core := none, lp := none } else a
    | none => a
  let y := { y with accesses := y.accesses.map loose }
  let y := (y.stacksOf q).foldl (fun y k =>
    if (y.stk k).driver == .compiled then y.setStk k ((y.stk k).takenBy .hold (2 * y.hub)) else y) y
  let y := if x.state == .binding && !SMap.has y.saved q then y.unbind q x else y.dismiss q ((y.kern q).getD x) .ended 4 0
  { y with kernels := SMap.del y.kernels q, saved := SMap.del y.saved q }

/-- R287, R310, R359, R363, R399, R402: a context is destroyed, with the record of the verb that does so. -/
def Sys.destroy (y : Sys) (ctx code data : Nat) : Sys :=
  let mine := y.kernels.filter fun x => x.2.ctx == ctx
  let y := mine.foldl (fun y x => y.dropKernel x.1 ((y.kern x.1).getD x.2)) y
  let y := (List.range 16).foldl (fun y n => y.cancelQueue (16 * ctx + n)) y
  let waiting := y.trust.releases.filter fun r => r.1 == ctx
  let y := (y.ctx ctx).pages.foldl Sys.losePage y
  let offers := y.frames.map fun (f : Nat × Frame) =>
    (f.1, if f.2.owner == ctx && f.2.state == .offered then { f.2 with state := .scrubbing } else f.2)
  let used := (y.clusters.filter fun c => c.2.last == some ctx).map (·.1)
  let trust := { y.trust with loads := SMap.del y.trust.loads ctx, releases := y.trust.releases.filter fun r => r.1 != ctx }
  let link := { y.link with exportWin := if y.link.exportWin.any fun e => e.ctx == ctx then none else y.link.exportWin }
  let y := { y with
    frames := offers, clusters := y.clusters.filter fun c => !used.contains c.1,
    cores := y.cores.filter fun c => !used.contains (clusterOf c.1), objs := y.objs.filter fun o => o.2.ctx != ctx,
    graphs := y.graphs.filter fun g => g.2.ctx != ctx, trust := trust, link := link }
  let gone : Context := { state := .destroyed, owner := [], mkey := [], fkey := [], queues := [], pages := [], own := [] }
  let y := (y.beginInval [(ctx, 0, 2 ^ 54)]).2
  let y := (((y.setCtx ctx gone).buryContext ctx).rearm).extend code ctx (natLe 1 data)
  waiting.foldl (fun y r => y.respond 0x06 r.2.2 7 []) y

/-- The dies of a destroyed context's kernels run on. -/
def State.destroy (s : State) (ctx code data : Nat) : State :=
  let ds := (s.cur.kernels.filter fun x => x.2.ctx == ctx && x.2.admitted).flatMap (·.2.dies)
  freeDies ((List.range 4).filter ds.contains) (s.onCur fun y => y.destroy ctx code data)

/-- R287, R288, R405: DESTROY-CONTEXT. -/
def execDestroyContext (h : Req) (body : Bytes) (s : State) : Out :=
  verb ⟨0x0E, .owner, true, false, false⟩ h body body.isEmpty s fun s =>
    (s.destroy h.ctx.toNat 0x0E 0).onCur fun y => y.respond 0x0E h 0 []

/-! ### Pages (R363) -/

/-- R363, R405: OFFER-PAGE: a free frame is zeroed and offered under a handle. -/
def execOfferPage (h : Req) (body : Bytes) (s : State) : Out :=
  verbOn ⟨0x05, .operator, true, true, false⟩ h body (body.length == 9 && decide (fieldLe body 8 1 ≤ 3)) s fun y =>
    let pa := fieldLe body 0 8
    let code : BitVec 16 := BitVec.ofNat 16 (fieldLe body 8 1)
    let size := pageSize code
    if !frameOk pa size || !y.hasMemory pa then y.respond 0x05 h 2 []
    else if !y.isFree pa size then y.respond 0x05 h 4 []
    else
      let handle := y.nextId
      let f : Frame := { size := size, owner := h.ctx.toNat, refc := 0, state := .offered, handle := BitVec.ofNat 64 handle, code := code }
      let y := y.memClear pa size
      { y with frames := SMap.put y.frames pa f, nextId := handle + 1 }.respond 0x05 h 0 (natLe 8 handle)

/-- R363, R405: RELEASE-REQUEST: the page is releasing, and the response waits for PGREL. -/
def execReleaseRequest (h : Req) (body : Bytes) (s : State) : Out :=
  verbOn ⟨0x06, .operator, true, true, false⟩ h body (body.length == 8) s fun y =>
    let ctx := h.ctx.toNat
    match y.pageAt ctx (fieldLe body 0 8) with
    | none => y.respond 0x06 h 4 []
    | some p =>
      if p.va != fieldLe body 0 8 then y.respond 0x06 h 4 []
      else if p.state == .releasing then y.respond 0x06 h 5 []
      else if p.state != .mapped then y.respond 0x06 h 2 []
      else { y with trust := { y.trust with releases := y.trust.releases ++ [(ctx, p.va, h)] } }.setPage ctx { p with state := .releasing }

/-- R363, R405: RECLAIM-FORCE destroys the owning context. -/
def execReclaimForce (h : Req) (body : Bytes) (s : State) : Out :=
  verb ⟨0x07, .operator, true, true, false⟩ h body (body.length == 8) s fun s =>
    let ctx := h.ctx.toNat
    if (s.cur.pageAt ctx (fieldLe body 0 8)).isNone then s.onCur fun y => y.respond 0x07 h 4 []
    else (s.destroy ctx 0x07 1).onCur fun y => y.respond 0x07 h 0 []

/-! ### Queues -/

/-- R308, R405: SUBMIT appends one entry at QTAIL. -/
def execSubmit (h : Req) (body : Bytes) (s : State) : Out :=
  verbOn ⟨0x08, .owner, true, false, false⟩ h body (body.length == 64) s fun y =>
    let qi := 16 * h.ctx.toNat + h.queue.toNat
    match if h.queue.toNat < 16 then y.queue qi else none with
    | none => y.respond 0x08 h 4 []
    | some q =>
      if q.head + q.cap ≤ q.tail then y.respond 0x08 h 5 []
      else
        ((y.vaWrite h.ctx.toNat (q.ring.toNat + 64 * (q.tail % q.cap)) q.tail body).setQueue qi
          { q with tail := q.tail + 1, state := if q.state == .idle then .waiting else q.state }).respond 0x08 h 0 (natLe 8 q.tail)

/-- R340, R405: QUERY-QUEUE. -/
def execQueryQueue (h : Req) (body : Bytes) (s : State) : Out :=
  verbOn ⟨0x09, .owner, true, false, false⟩ h body body.isEmpty s fun y =>
    match if h.queue.toNat < 16 then y.queue (16 * h.ctx.toNat + h.queue.toNat) else none with
    | none => y.respond 0x09 h 4 []
    | some q =>
      y.respond 0x09 h 0 (natLe 8 q.tail ++ natLe 8 q.head ++ natLe 8 q.head ++ natLe 8 q.err ++
        (List.range 16).flatMap fun n => natLe 8 (SMap.getD q.pubs n 0).toNat)

/-! ### Power and mode -/

/-- R384, R405: HIBERNATE-NOW; its response is sent after sealing. -/
def execHibernateNow (h : Req) (body : Bytes) (s : State) : Out :=
  verbOn ⟨0x0A, .operator, false, true, false⟩ h body body.isEmpty s fun y => y.powerFail 2 (some h)

/-- R392, R405: RESUME: a warm start of a module that waits after HIBERNATE-NOW; its response is sent after the replay. -/
def execResumeVerb (h : Req) (body : Bytes) (s : State) : Out :=
  verb ⟨0x0B, .operator, false, true, s.cur.power.waiting⟩ h body body.isEmpty s fun s =>
    if s.cur.power.waiting then
      { s.onCur (fun y => { y with trust := { y.trust with resume := some h } }) with todo := [.ev 1 .start] }
    else s.onCur fun y => y.respond 0x0B h 2 []

/-- R395, R405: SCRUB-RESET: the response, and then the reset. -/
def execScrubReset (h : Req) (body : Bytes) (s : State) : Out :=
  verb ⟨0x0D, .operator, false, false, false⟩ h body (body == [0] || body == [1]) s fun s =>
    { s.onCur (fun y =>
        let y := y.respond 0x0D h 0 []
        { y with trust := { y.trust with scrubbing := some (body == [1]) } }) with todo := [.ev 0 .packageReset] }

/-! ### Host commands (R411) -/

/-- Table 20.1: whether the page table of a context is full; its size is the implementation's (log 141). -/
def Sys.tableFull (y : Sys) (ctx : Nat) : Bool :=
  Config.tableFull (y.ctx ctx).pages.length (y.ctxs.map fun c => c.2.pages.length).sum

/-- Table 20.1: MAP-PAGE. -/
def execMapPage (h : Req) (body : Bytes) (s : State) : Out :=
  let c := fieldLe body 16 8
  verbOn ⟨0x20, .host, true, false, false⟩ h body (body.length == 24 && decide (c < 2 ^ 16) && !c.testBit 7) s fun y =>
    let ctx := h.ctx.toNat
    let va := fieldLe body 0 8
    let pa := fieldLe body 8 8
    let code : BitVec 16 := (BitVec.ofNat 16 c) &&& 0x7FBF
    let size := pageSize code
    if !codeOk c || !frameOk pa size || va % size != 0 || 2 ^ 54 < va + size || codeRefused code pa || y.overlaps ctx va size ||
        !y.hasMemory pa then
      y.respond 0x20 h 2 []
    else if !y.isFree pa size then y.respond 0x20 h 4 []
    else if y.tableFull ctx || !y.mayRegister (if codeDclass code != 0 then size else 0) then y.respond 0x20 h 6 []
    else
      (((y.takeFrame pa size ctx .mapped code).addPage ctx
        { va := va, pa := pa, code := code, state := .mapped, rtag := none, tier := none }).rearm).respond 0x20 h 0 []

/-- R362, R411, R412: a host command that may drop translations joins firmware's queue of page requests by its arrival, and waits there as
they do. -/
def Sys.queueCommand (y : Sys) (op : Nat) (h : Req) (body : Bytes) : Sys :=
  let r : PageReq :=
    { hub := y.trust.stamp, req := some h, core := 640, ctx := h.ctx.toNat, op := op, block := body, lp := 0, tag := 0, ranges := [], acks := [],
      waits := [], dropped := 0, started := false }
  let before := fun (q : PageReq) => q.started || decide (q.hub ≤ r.hub)
  { y with pageReqs := y.pageReqs.takeWhile before ++ r :: y.pageReqs.dropWhile before }

/-- Table 20.1: UNMAP-PAGE (`unmapPage`). -/
def execUnmapPage (h : Req) (body : Bytes) (s : State) : Out :=
  verbOn ⟨0x21, .host, true, false, false⟩ h body (body.length == 8) s fun y => y.queueCommand 0x21 h body

/-- Table 20.1: SET-ATTR (`attrSet`). -/
def execSetAttr (h : Req) (body : Bytes) (s : State) : Out :=
  verbOn ⟨0x22, .host, true, false, false⟩ h body (body.length == 16) s fun y => y.queueCommand 0x22 h body

/-- R27, Table 20.1: CLEAR-FAILED. -/
def execClearFailed (h : Req) (body : Bytes) (s : State) : Out :=
  verbOn ⟨0x23, .host, false, false, false⟩ h body (body.length == 10) s fun y =>
    let y := { y with failed := y.failed &&& ~~~(BitVec.ofNat 80 (leNat body)) }
    (y.extend 0xFF 0 y.failedBytes).respond 0x23 h 0 []

/-- R419: whether a range of a slot lies in its status block and header. -/
def inHeader (off len : Nat) : Bool := off + len ≤ 320

/-- R394, R419, Table 20.1: READ-SLOT. The unit is 1 when the request comes over MCTP, where confidential mode permits the status block and
the header. -/
def execReadSlot (h : Req) (body : Bytes) (s : State) : Out :=
  let n := fieldLe body 0 1
  let off := fieldLe body 1 8
  let len := fieldLe body 9 4
  let mctp := s.unit == 1
  let v : VerbKind := ⟨0x24, if mctp then .any else .host, false, true, false⟩
  let read := fun (y : Sys) =>
    if 1 < n then y.respond 0x24 h 4 []
    else if y.trust.conf && !inHeader off len then y.respond 0x24 h 2 []
    else if y.slotState n == 1 || y.slotState n == 2 || y.slotState n == 5 then y.respond 0x24 h 0 (y.slotRead n off len)
    else y.respond 0x24 h 4 []
  let ok := body.length == 13 && decide (len ≤ 4032 && off + len ≤ 0x1000000)
  if !s.cur.serves then .next s
  else if mctp && s.cur.trust.conf then
    .next (s.onCur fun y =>
      if h.reserved != 0 || h.len != body.length || !ok then y.respond 0x24 h 1 []
      else if y.restricted then y.respond 0x24 h 5 []
      else read y)
  else verbOn v h body ok s read

/-- R404: a request whose VERB is unknown. -/
def execUnknownVerbRequest (verb_ : BitVec 16) (h : Req) (s : State) : Out :=
  if s.cur.hears h.session then .next (s.onCur fun y => y.respond verb_.toNat h 1 []) else .next s

/-! ### Housekeeping registers (R417 to R419) -/

/-- A temperature in two's complement, 8 bits. -/
def tempByte (t : Int) : Nat := (t % 256).toNat

/-- Tables 20.3 to 20.5: a housekeeping register by its offset; `n` numbers the physical readings. -/
def Sys.hkReg (y : Sys) (off n : Nat) : Word :=
  let hot := (List.range 4).foldl (fun m d => max m (y.die d).theta) (y.die 0).theta
  let state := if y.power.forced then 4 else
    match y.power.supply with | .normal => 0 | .limited => 1 | .sag => 2 | .fail => 3
  match off with
  | 0x00 => BitVec.ofNat 64 (Config.fwLevel.toNat * 2 ^ 16 + 2 * 2 ^ 12 + (if y.trust.conf then 256 else 0) + y.trust.form % 4)
  | 0x08 => (y.failed.extractLsb' 0 64)
  | 0x10 => (y.failed.extractLsb' 64 16).setWidth 64
  | 0x18 => BitVec.ofNat 64 (y.power.granted % 2 ^ 12 * 2 ^ 32 + y.power.reserve % 2 ^ 16 * 2 ^ 16 + state)
  | 0x20 => BitVec.ofNat 64 (y.power.limit % 2 ^ 12 * 2 ^ 16 + tempByte hot)
  | 0x28 => Config.physicalReading n &&& 0xFFF
  | 0x30 => BitVec.ofNat 64 (packN 16 y.ecc)
  | 0x38 => BitVec.ofNat 64 (y.slotState 0 + 2 ^ 8 * y.slotFails 0 + 2 ^ 16 * y.slotState 1 + 2 ^ 24 * y.slotFails 1)
  | _ => if 0x40 ≤ off && off < 0x80 && off % 8 == 0 then y.trust.hklog.getD ((off - 0x40) / 8) 0 else 0

/-- R340, R396, R417: what a host read of BAR 2 returns at an offset: the doorbell block, the signal block, which is zero in confidential
mode, the housekeeping registers, and zero where no block is. -/
def Sys.bar2 (y : Sys) (off n : Nat) : Word :=
  if off < 0x40000 then
    match y.queue (off / 64) with
    | none => 0
    | some q =>
      match off % 64 with
      | 0x00 => BitVec.ofNat 64 q.tail
      | 0x08 => BitVec.ofNat 64 q.head
      | 0x10 => BitVec.ofNat 64 q.head
      | 0x18 => BitVec.ofNat 64 q.err
      | _ => 0
  else if off < 0xC0000 then
    match y.queue ((off - 0x40000) / 128) with
    | none => 0
    | some q => if y.trust.conf || off % 8 != 0 then 0 else SMap.getD q.pubs (off % 128 / 8) 0
  else y.hkReg (off - 0xC0000) n

/-- R412, R419: READ-HK: at most 16 registers from an offset on; status 5 from step 1 of Table 18.2 to the end of a replay (log 148). -/
def execReadHk (offset : Nat) (count : Nat) (s : State) : Out :=
  let regs := (List.range (Nat.min count 16)).flatMap fun i => natLe 8 (s.cur.hkReg (offset + 8 * i) (s.fresh + i)).toNat
  if !s.cur.serves then .next s
  else if s.cur.restricted then .next (s.onCur fun y => y.answer 0 (natLe 2 5))
  else .next { s.onCur (fun y => y.answer 0 regs) with fresh := s.fresh + 16 }

/-! ### SPDM and MCTP (R406, R407, R419) -/

/-- An SPDM 1.3 ERROR with its code. -/
def spdmError (code : Nat) : Bytes := natLe 1 0x13 ++ natLe 1 0x7F ++ natLe 1 code ++ natLe 1 0

/-- R406: KEY_EXCHANGE: after a negotiation that succeeded with this requester a session is opened with its keys and its number is
answered, or beyond 32 the answer is ERROR Busy. `key` is the public key of the requester's leaf when it authenticates itself too. -/
def execKeyExchange (requester : Nat) (key : Option Bytes) (s : State) : Out :=
  if !s.cur.serves then .next s
  else if !s.cur.trust.negotiated.contains requester then .next (s.onCur fun y => y.answer 0 (spdmError 4))
  else if 32 ≤ s.cur.trust.sessions.length then .next (s.onCur fun y => y.answer 0 (spdmError 3))
  else
    let x : Session :=
      { id := s.cur.trust.nextSession, owner := key.map sha256, transcript := s.fresh,
        key := fixedLen 32 (Config.sessionKey s.fresh), iv := fixedLen 12 (Config.sessionIv s.fresh) }
    .next { s.onCur (fun y =>
      { y with trust := { y.trust with sessions := y.trust.sessions ++ [x], nextSession := x.id + 1 } }.answer 0
        (natLe 1 0x13 ++ natLe 1 0x64 ++ natLe 2 0 ++ natLe 2 x.id)) with fresh := s.fresh + 1 }

/-- R407: the contents of a measurement index, or none. -/
def Sys.measurement (y : Sys) (index : Nat) : Option Bytes :=
  match index with
  | 1 => some y.trust.fwmeas
  | 2 => some (y.trust.cd ++ natLe 8 y.trust.cdseq)
  | 3 => some (natLe 1 (if y.trust.conf then 1 else 0) ++ natLe 1 y.trust.form ++ y.failedBytes)
  | 4 => some (natLe 8 (fuseCount y.trust.fuses))
  | _ => none

/-- R407: GET_MEASUREMENTS: the contents and the requester's nonce, signed by the alias key. -/
def execGetMeasurements (session : Nat) (index : Nat) (nonce : Bytes) (s : State) : Out :=
  if !s.cur.hears session then .next s
  else
    .next (s.onCur fun y =>
      match y.measurement index with
      | some m => y.answer session (m ++ nonce ++ y.aliasSign (m ++ nonce))
      | none => y.answer session (spdmError 1))

/-- R406: the capabilities that the N9 advertises, as SPDM numbers them (log 121): CERT, CHAL, MEAS with signature, ENCRYPT, MAC,
MUT_AUTH, KEY_EX, HBEAT and CHUNK. -/
def spdmCapabilities : Nat := 2 ^ 1 + 2 ^ 2 + 2 * 2 ^ 3 + 2 ^ 6 + 2 ^ 7 + 2 ^ 8 + 2 ^ 9 + 2 ^ 13 + 2 ^ 17

/-- R406: a requester begins: it must speak SPDM 1.3, which SPDM codes 0x13, and offer an algorithm of each kind that the N9 supports, or
it gets ERROR and no session can be opened. It is answered with the capabilities, the algorithms agreed, and the certificate chain of slot 0
(log 162). `base` says whether it offers SLH-DSA-SHA2-128f and SHA-256, `keying` whether secp384r1 and AES-256-GCM. -/
def execAlgorithmNegotiation (requester : Nat) (version : BitVec 8) (base : Bool × Bool) (keying : Bool × Bool) (s : State) : Out :=
  let ok := version == 0x13 && base.1 && base.2 && keying.1 && keying.2
  let others := s.cur.trust.negotiated.filter (· != requester)
  if !s.cur.serves then .next s
  else if !ok then
    .next (s.onCur fun y =>
      { y with trust := { y.trust with negotiated := others } }.answer 0 (spdmError (if version == 0x13 then 1 else 0x41)))
  else
    .next (s.onCur fun y =>
      (({ y with trust := { y.trust with negotiated := others ++ [requester] } }.answer 0
        (natLe 1 0x13 ++ natLe 1 0x61 ++ natLe 2 0 ++ natLe 4 spdmCapabilities)).answer 0
        (natLe 1 0x13 ++ natLe 1 0x63 ++ natLe 2 0)).answer 0 (natLe 1 0x13 ++ natLe 1 0x02 ++ natLe 2 0 ++ y.certificateChain))

/-- R419: an MCTP control message is answered; it never changes state. -/
def execMctpControlMessage (body : Bytes) (s : State) : Out :=
  .next (if s.cur.serves then s.onCur fun y => y.answer 0 (Config.mctpAnswer body) else s)

end Sys2Proof.Machine
end

