-- ==== Sys2Proof/Machine/Dispatch.lean ====
section
/-! DEFINITION. One arm per instruction, each a direct call of its meaning. -/

namespace Sys2Proof.Machine

/-- The effect of an instruction on the unit in turn. -/
def exec (i : Instr) (s : State) : Host.Outcome State Fault Refusal :=
  match i with
  | .emptyBundle => Sys2Proof.Machine.execEmptyBundle s
  | .dictionaryBundle entry => Sys2Proof.Machine.execDictionaryBundle entry s
  | .idleRun n => Sys2Proof.Machine.execIdleRun n s
  | .literalBundle => Sys2Proof.Machine.execLiteralBundle s
  | .pfx imm e v p t sc a r m x => Sys2Proof.Machine.execPfx imm e v p t sc a r m x s
  | .add b a d => Sys2Proof.Machine.execAdd b a d s
  | .sub b a d => Sys2Proof.Machine.execSub b a d s
  | .addx b a d => Sys2Proof.Machine.execAddx b a d s
  | .subx b a d => Sys2Proof.Machine.execSubx b a d s
  | .and b a d => Sys2Proof.Machine.execAnd b a d s
  | .or b a d => Sys2Proof.Machine.execOr b a d s
  | .xor b a d => Sys2Proof.Machine.execXor b a d s
  | .andn b a d => Sys2Proof.Machine.execAndn b a d s
  | .shl b a d => Sys2Proof.Machine.execShl b a d s
  | .shr b a d => Sys2Proof.Machine.execShr b a d s
  | .sar b a d => Sys2Proof.Machine.execSar b a d s
  | .rol b a d => Sys2Proof.Machine.execRol b a d s
  | .ror b a d => Sys2Proof.Machine.execRor b a d s
  | .min b a d => Sys2Proof.Machine.execMin b a d s
  | .max b a d => Sys2Proof.Machine.execMax b a d s
  | .minn b a d => Sys2Proof.Machine.execMinn b a d s
  | .maxn b a d => Sys2Proof.Machine.execMaxn b a d s
  | .addi imm a d => Sys2Proof.Machine.execAddi imm a d s
  | .andi imm a d => Sys2Proof.Machine.execAndi imm a d s
  | .ori imm a d => Sys2Proof.Machine.execOri imm a d s
  | .xori imm a d => Sys2Proof.Machine.execXori imm a d s
  | .shli n a d => Sys2Proof.Machine.execShli n a d s
  | .shri n a d => Sys2Proof.Machine.execShri n a d s
  | .sari n a d => Sys2Proof.Machine.execSari n a d s
  | .mul b a d => Sys2Proof.Machine.execMul b a d s
  | .mulh b a d => Sys2Proof.Machine.execMulh b a d s
  | .mulhn b a d => Sys2Proof.Machine.execMulhn b a d s
  | .divs b a d => Sys2Proof.Machine.execDivs b a d s
  | .divn b a d => Sys2Proof.Machine.execDivn b a d s
  | .rems b a d => Sys2Proof.Machine.execRems b a d s
  | .remn b a d => Sys2Proof.Machine.execRemn b a d s
  | .clz a d => Sys2Proof.Machine.execClz a d s
  | .ctz a d => Sys2Proof.Machine.execCtz a d s
  | .ffs a d => Sys2Proof.Machine.execFfs a d s
  | .popc a d => Sys2Proof.Machine.execPopc a d s
  | .extb l p a d => Sys2Proof.Machine.execExtb l p a d s
  | .insb l p a d => Sys2Proof.Machine.execInsb l p a d s
  | .movi imm d => Sys2Proof.Machine.execMovi imm d s
  | .movhi imm d => Sys2Proof.Machine.execMovhi imm d s
  | .sel p b a d => Sys2Proof.Machine.execSel p b a d s
  | .cmp c b a p => Sys2Proof.Machine.execCmp c b a p s
  | .cmpi c imm a p => Sys2Proof.Machine.execCmpi c imm a p s
  | .mulmod b a d => Sys2Proof.Machine.execMulmod b a d s
  | .addmod b a d => Sys2Proof.Machine.execAddmod b a d s
  | .tagp b a d => Sys2Proof.Machine.execTagp b a d s
  | .pand b a d => Sys2Proof.Machine.execPand b a d s
  | .por b a d => Sys2Proof.Machine.execPor b a d s
  | .pxor b a d => Sys2Proof.Machine.execPxor b a d s
  | .pnot a d => Sys2Proof.Machine.execPnot a d s
  | .lds imm w a d => Sys2Proof.Machine.execLds imm w a d s
  | .sts imm w a d => Sys2Proof.Machine.execSts imm w a d s
  | .ldg imm o w a d => Sys2Proof.Machine.execLdg imm o w a d s
  | .stg imm o w a d => Sys2Proof.Machine.execStg imm o w a d s
  | .br t => Sys2Proof.Machine.execBr t s
  | .loopb t => Sys2Proof.Machine.execLoopb t s
  | .brc t c p => Sys2Proof.Machine.execBrc t c p s
  | .call t p => Sys2Proof.Machine.execCall t p s
  | .ret imm a => Sys2Proof.Machine.execRet imm a s
  | .loopset d a => Sys2Proof.Machine.execLoopset d a s
  | .tchk imm a => Sys2Proof.Machine.execTchk imm a s
  | .halt => Sys2Proof.Machine.execHalt s
  | .trap imm a => Sys2Proof.Machine.execTrap imm a s
  | .vadd b a d f => Sys2Proof.Machine.execVadd b a d f s
  | .vmul b a d f => Sys2Proof.Machine.execVmul b a d f s
  | .vsub b a d f => Sys2Proof.Machine.execVsub b a d f s
  | .vmin b a d f => Sys2Proof.Machine.execVmin b a d f s
  | .vmax b a d f => Sys2Proof.Machine.execVmax b a d f s
  | .vfma b a d f => Sys2Proof.Machine.execVfma b a d f s
  | .vfms b a d f => Sys2Proof.Machine.execVfms b a d f s
  | .vaddMasked b a d f k zm => Sys2Proof.Machine.execVaddMasked b a d f k zm s
  | .vmulMasked b a d f k zm => Sys2Proof.Machine.execVmulMasked b a d f k zm s
  | .vsubMasked b a d f k zm => Sys2Proof.Machine.execVsubMasked b a d f k zm s
  | .vminMasked b a d f k zm => Sys2Proof.Machine.execVminMasked b a d f k zm s
  | .vmaxMasked b a d f k zm => Sys2Proof.Machine.execVmaxMasked b a d f k zm s
  | .vfmaMasked b a d f k zm => Sys2Proof.Machine.execVfmaMasked b a d f k zm s
  | .vfmsMasked b a d f k zm => Sys2Proof.Machine.execVfmsMasked b a d f k zm s
  | .vabs a d f => Sys2Proof.Machine.execVabs a d f s
  | .vneg a d f => Sys2Proof.Machine.execVneg a d f s
  | .vexp2 a d f => Sys2Proof.Machine.execVexp2 a d f s
  | .vlog2 a d f => Sys2Proof.Machine.execVlog2 a d f s
  | .vrcp a d f => Sys2Proof.Machine.execVrcp a d f s
  | .vrsq a d f => Sys2Proof.Machine.execVrsq a d f s
  | .vsqrt a d f => Sys2Proof.Machine.execVsqrt a d f s
  | .vtanh a d f => Sys2Proof.Machine.execVtanh a d f s
  | .vsigm a d f => Sys2Proof.Machine.execVsigm a d f s
  | .vnot a d f => Sys2Proof.Machine.execVnot a d f s
  | .vclz a d f => Sys2Proof.Machine.execVclz a d f s
  | .vffs a d f => Sys2Proof.Machine.execVffs a d f s
  | .vpopc a d f => Sys2Proof.Machine.execVpopc a d f s
  | .vabsMasked a d f k zm => Sys2Proof.Machine.execVabsMasked a d f k zm s
  | .vnegMasked a d f k zm => Sys2Proof.Machine.execVnegMasked a d f k zm s
  | .vexp2Masked a d f k zm => Sys2Proof.Machine.execVexp2Masked a d f k zm s
  | .vlog2Masked a d f k zm => Sys2Proof.Machine.execVlog2Masked a d f k zm s
  | .vrcpMasked a d f k zm => Sys2Proof.Machine.execVrcpMasked a d f k zm s
  | .vrsqMasked a d f k zm => Sys2Proof.Machine.execVrsqMasked a d f k zm s
  | .vsqrtMasked a d f k zm => Sys2Proof.Machine.execVsqrtMasked a d f k zm s
  | .vtanhMasked a d f k zm => Sys2Proof.Machine.execVtanhMasked a d f k zm s
  | .vsigmMasked a d f k zm => Sys2Proof.Machine.execVsigmMasked a d f k zm s
  | .vnotMasked a d f k zm => Sys2Proof.Machine.execVnotMasked a d f k zm s
  | .vclzMasked a d f k zm => Sys2Proof.Machine.execVclzMasked a d f k zm s
  | .vffsMasked a d f k zm => Sys2Proof.Machine.execVffsMasked a d f k zm s
  | .vpopcMasked a d f k zm => Sys2Proof.Machine.execVpopcMasked a d f k zm s
  | .vand b a d w => Sys2Proof.Machine.execVand b a d w s
  | .vor b a d w => Sys2Proof.Machine.execVor b a d w s
  | .vxor b a d w => Sys2Proof.Machine.execVxor b a d w s
  | .vshl b a d w => Sys2Proof.Machine.execVshl b a d w s
  | .vshr b a d w => Sys2Proof.Machine.execVshr b a d w s
  | .vsar b a d w => Sys2Proof.Machine.execVsar b a d w s
  | .vandMasked b a d w k zm => Sys2Proof.Machine.execVandMasked b a d w k zm s
  | .vorMasked b a d w k zm => Sys2Proof.Machine.execVorMasked b a d w k zm s
  | .vxorMasked b a d w k zm => Sys2Proof.Machine.execVxorMasked b a d w k zm s
  | .vshlMasked b a d w k zm => Sys2Proof.Machine.execVshlMasked b a d w k zm s
  | .vshrMasked b a d w k zm => Sys2Proof.Machine.execVshrMasked b a d w k zm s
  | .vsarMasked b a d w k zm => Sys2Proof.Machine.execVsarMasked b a d w k zm s
  | .vcmp b a c k f => Sys2Proof.Machine.execVcmp b a c k f s
  | .vcvt sc a d f => Sys2Proof.Machine.execVcvt sc a d f s
  | .vqnt sc a d f => Sys2Proof.Machine.execVqnt sc a d f s
  | .vdqnt sc a d f => Sys2Proof.Machine.execVdqnt sc a d f s
  | .vcvtMasked sc a d f k zm => Sys2Proof.Machine.execVcvtMasked sc a d f k zm s
  | .vqntMasked sc a d f k zm => Sys2Proof.Machine.execVqntMasked sc a d f k zm s
  | .vdqntMasked sc a d f k zm => Sys2Proof.Machine.execVdqntMasked sc a d f k zm s
  | .vtrn a d w => Sys2Proof.Machine.execVtrn a d w s
  | .vshuf b a d w => Sys2Proof.Machine.execVshuf b a d w s
  | .vbcst a d w => Sys2Proof.Machine.execVbcst a d w s
  | .vmovs n d => Sys2Proof.Machine.execVmovs n d s
  | .vins b a d w => Sys2Proof.Machine.execVins b a d w s
  | .vred o m a d f => Sys2Proof.Machine.execVred o m a d f s
  | .vsel b a d k w => Sys2Proof.Machine.execVsel b a d k w s
  | .vld o a d => Sys2Proof.Machine.execVld o a d s
  | .vst o a d => Sys2Proof.Machine.execVst o a d s
  | .vldx o a d => Sys2Proof.Machine.execVldx o a d s
  | .vaddmod b a d => Sys2Proof.Machine.execVaddmod b a d s
  | .vsubmod b a d => Sys2Proof.Machine.execVsubmod b a d s
  | .vmulmod b a d => Sys2Proof.Machine.execVmulmod b a d s
  | .vbfly b a d => Sys2Proof.Machine.execVbfly b a d s
  | .vibfly b a d => Sys2Proof.Machine.execVibfly b a d s
  | .kand b a d => Sys2Proof.Machine.execKand b a d s
  | .kor b a d => Sys2Proof.Machine.execKor b a d s
  | .knot a d => Sys2Proof.Machine.execKnot a d s
  | .kmov a d => Sys2Proof.Machine.execKmov a d s
  | .vshape imm a => Sys2Proof.Machine.execVshape imm a s
  | .mcall r => Sys2Proof.Machine.execMcall r s
  | .mova imm a d => Sys2Proof.Machine.execMova imm a d s
  | .mseed a => Sys2Proof.Machine.execMseed a s
  | .mmeta imm => Sys2Proof.Machine.execMmeta imm s
  | .mpair imm a => Sys2Proof.Machine.execMpair imm a s
  | .mclr imm a => Sys2Proof.Machine.execMclr imm a s
  | .mrtld imm a => Sys2Proof.Machine.execMrtld imm a s
  | .mrdac a d => Sys2Proof.Machine.execMrdac a d s
  | .mwrac a d => Sys2Proof.Machine.execMwrac a d s
  | .mdrain b a c f => Sys2Proof.Machine.execMdrain b a c f s
  | .sbind imm a z => Sys2Proof.Machine.execSbind imm a z s
  | .sunbind z => Sys2Proof.Machine.execSunbind z s
  | .sseek imm a z => Sys2Proof.Machine.execSseek imm a z s
  | .ssave imm a z => Sys2Proof.Machine.execSsave imm a z s
  | .sload imm a z => Sys2Proof.Machine.execSload imm a z s
  | .cpl c a => Sys2Proof.Machine.execCpl c a s
  | .cpa c b a => Sys2Proof.Machine.execCpa c b a s
  | .cpgo c => Sys2Proof.Machine.execCpgo c s
  | .cpfp c a => Sys2Proof.Machine.execCpfp c a s
  | .cpcmp c a => Sys2Proof.Machine.execCpcmp c a s
  | .cpchk c => Sys2Proof.Machine.execCpchk c s
  | .fence b => Sys2Proof.Machine.execFence b s
  | .aadd b a d o => Sys2Proof.Machine.execAadd b a d o s
  | .amin b a d o => Sys2Proof.Machine.execAmin b a d o s
  | .amax b a d o => Sys2Proof.Machine.execAmax b a d o s
  | .aand b a d o => Sys2Proof.Machine.execAand b a d o s
  | .aor b a d o => Sys2Proof.Machine.execAor b a d o s
  | .axor b a d o => Sys2Proof.Machine.execAxor b a d o s
  | .axchg b a d o => Sys2Proof.Machine.execAxchg b a d o s
  | .acas b a d o => Sys2Proof.Machine.execAcas b a d o s
  | .ochk => Sys2Proof.Machine.execOchk s
  | .barr a => Sys2Proof.Machine.execBarr a s
  | .bchk a => Sys2Proof.Machine.execBchk a s
  | .sacq a => Sys2Proof.Machine.execSacq a s
  | .srel a => Sys2Proof.Machine.execSrel a s
  | .enq imm a => Sys2Proof.Machine.execEnq imm a s
  | .gsig imm a => Sys2Proof.Machine.execGsig imm a s
  | .lopen imm a => Sys2Proof.Machine.execLopen imm a s
  | .lsend imm a => Sys2Proof.Machine.execLsend imm a s
  | .lchk n => Sys2Proof.Machine.execLchk n s
  | .lrejoin imm a => Sys2Proof.Machine.execLrejoin imm a s
  | .xsend e v => Sys2Proof.Machine.execXsend e v s
  | .xrecv e v => Sys2Proof.Machine.execXrecv e v s
  | .csrr c d => Sys2Proof.Machine.execCsrr c d s
  | .csrw c a => Sys2Proof.Machine.execCsrw c a s
  | .csrs c a => Sys2Proof.Machine.execCsrs c a s
  | .csrc c a => Sys2Proof.Machine.execCsrc c a s
  | .dictld imm a => Sys2Proof.Machine.execDictld imm a s
  | .step imm => Sys2Proof.Machine.execStep imm s
  | .holdOut => Sys2Proof.Machine.execHoldOut s
  | .holdBar a => Sys2Proof.Machine.execHoldBar a s
  | .tlbinv imm a => Sys2Proof.Machine.execTlbinv imm a s
  | .pgrel imm a => Sys2Proof.Machine.execPgrel imm a s
  | .pgacc imm a => Sys2Proof.Machine.execPgacc imm a s
  | .pgattr imm a => Sys2Proof.Machine.execPgattr imm a s
  | .mxnop => Sys2Proof.Machine.execMxnop s
  | .mxlda pa fmt cnt imm => Sys2Proof.Machine.execMxlda pa fmt cnt imm s
  | .mxldb pa fmt cnt imm => Sys2Proof.Machine.execMxldb pa fmt cnt imm s
  | .mxmac pa pb fmt cnt => Sys2Proof.Machine.execMxmac pa pb fmt cnt s
  | .mxprom pa pb cnt => Sys2Proof.Machine.execMxprom pa pb cnt s
  | .mxmod pa pb cnt => Sys2Proof.Machine.execMxmod pa pb cnt s
  | .mxred pa cnt imm => Sys2Proof.Machine.execMxred pa cnt imm s
  | .mxxch pa imm => Sys2Proof.Machine.execMxxch pa imm s
  | .mxloop pa cnt imm => Sys2Proof.Machine.execMxloop pa cnt imm s
  | .mxstep pa pb imm => Sys2Proof.Machine.execMxstep pa pb imm s
  | .mxspar pa cnt => Sys2Proof.Machine.execMxspar pa cnt s
  | .mxgen cnt imm => Sys2Proof.Machine.execMxgen cnt imm s
  | .mxsplit pa pb cnt => Sys2Proof.Machine.execMxsplit pa pb cnt s
  | .mxend => Sys2Proof.Machine.execMxend s
  | .mnop => Sys2Proof.Machine.execMnop s
  | .act pch bank row => Sys2Proof.Machine.execAct pch bank row s
  | .rdl pch bank col cl line => Sys2Proof.Machine.execRdl pch bank col cl line s
  | .wrl pch bank col cl line => Sys2Proof.Machine.execWrl pch bank col cl line s
  | .pre pch bank => Sys2Proof.Machine.execPre pch bank s
  | .prea pch => Sys2Proof.Machine.execPrea pch s
  | .refab pch => Sys2Proof.Machine.execRefab pch s
  | .refpb pch bank => Sys2Proof.Machine.execRefpb pch bank s
  | .lturn pch split => Sys2Proof.Machine.execLturn pch split s
  | .svwin pch slots => Sys2Proof.Machine.execSvwin pch slots s
  | .seam seamno => Sys2Proof.Machine.execSeam seamno s
  | .nbld pch wg cl line => Sys2Proof.Machine.execNbld pch wg cl line s
  | .nbiss pch lg argrow start => Sys2Proof.Machine.execNbiss pch lg argrow start s
  | .nbfence pch => Sys2Proof.Machine.execNbfence pch s
  | .bgath desc => Sys2Proof.Machine.execBgath desc s
  | .bred desc => Sys2Proof.Machine.execBred desc s
  | .bconv desc => Sys2Proof.Machine.execBconv desc s
  | .nbcast x y => Sys2Proof.Machine.execNbcast x y s
  | .nmac x y l => Sys2Proof.Machine.execNmac x y l s
  | .nacc l => Sys2Proof.Machine.execNacc l s
  | .nwb x l => Sys2Proof.Machine.execNwb x l s
  | .nclr l => Sys2Proof.Machine.execNclr l s
  | .nloop x y => Sys2Proof.Machine.execNloop x y s
  | .nend => Sys2Proof.Machine.execNend s
  | .controlTransfer => Sys2Proof.Machine.execControlTransfer s
  | .loopbBoundaryWrites => Sys2Proof.Machine.execLoopbBoundaryWrites s
  | .resultLand => Sys2Proof.Machine.execResultLand s
  | .scalarStorePerform => Sys2Proof.Machine.execScalarStorePerform s
  | .vectorStorePerform => Sys2Proof.Machine.execVectorStorePerform s
  | .dieTransferArrival => Sys2Proof.Machine.execDieTransferArrival s
  | .bTileLand => Sys2Proof.Machine.execBTileLand s
  | .accumulatorRowLand => Sys2Proof.Machine.execAccumulatorRowLand s
  | .exchangeRowLand => Sys2Proof.Machine.execExchangeRowLand s
  | .mdrainRowWrite => Sys2Proof.Machine.execMdrainRowWrite s
  | .routineCompletion => Sys2Proof.Machine.execRoutineCompletion s
  | .copySectorRead => Sys2Proof.Machine.execCopySectorRead s
  | .copySectorWrite => Sys2Proof.Machine.execCopySectorWrite s
  | .copyDataComplete => Sys2Proof.Machine.execCopyDataComplete s
  | .copyDigestWrite => Sys2Proof.Machine.execCopyDigestWrite s
  | .copyResultWrite => Sys2Proof.Machine.execCopyResultWrite s
  | .copyCompletion => Sys2Proof.Machine.execCopyCompletion s
  | .rdlLineLand => Sys2Proof.Machine.execRdlLineLand s
  | .wrlDataWritten => Sys2Proof.Machine.execWrlDataWritten s
  | .refreshEnd pch => Sys2Proof.Machine.execRefreshEnd pch s
  | .lturnComplete pch => Sys2Proof.Machine.execLturnComplete pch s
  | .serviceSlot pch slot => Sys2Proof.Machine.execServiceSlot pch slot s
  | .serviceWindowEnd pch => Sys2Proof.Machine.execServiceWindowEnd pch s
  | .engineOutputWrite => Sys2Proof.Machine.execEngineOutputWrite s
  | .refreshDebtTick => Sys2Proof.Machine.execRefreshDebtTick s
  | .nearBankIssueStart pch => Sys2Proof.Machine.execNearBankIssueStart pch s
  | .nearBankIssueEnd pch => Sys2Proof.Machine.execNearBankIssueEnd pch s
  | .nbfenceCommitEnd pch => Sys2Proof.Machine.execNbfenceCommitEnd pch s
  | .serviceRequestArrival id => Sys2Proof.Machine.execServiceRequestArrival id s
  | .serviceAccessPerform id => Sys2Proof.Machine.execServiceAccessPerform id s
  | .hostMemoryRequest write addr len data => Sys2Proof.Machine.execHostMemoryRequest write addr len data s
  | .compressedBlockWriteback block => Sys2Proof.Machine.execCompressedBlockWriteback block s
  | .barrierArrivalCount kernel => Sys2Proof.Machine.execBarrierArrivalCount kernel s
  | .stageOperationCount kernel => Sys2Proof.Machine.execStageOperationCount kernel s
  | .signalPublish kernel word => Sys2Proof.Machine.execSignalPublish kernel word s
  | .qtailWrite qi value => Sys2Proof.Machine.execQtailWrite qi value s
  | .hostRegisterWrite offset value => Sys2Proof.Machine.execHostRegisterWrite offset value s
  | .queueHeadValidation qi => Sys2Proof.Machine.execQueueHeadValidation qi s
  | .stagePatchEntry qi => Sys2Proof.Machine.execStagePatchEntry qi s
  | .markerEntry qi => Sys2Proof.Machine.execMarkerEntry qi s
  | .graphReplayStart qi => Sys2Proof.Machine.execGraphReplayStart qi s
  | .launchAdmission => Sys2Proof.Machine.execLaunchAdmission s
  | .kernelStart kernel => Sys2Proof.Machine.execKernelStart kernel s
  | .stepPointHold kernel => Sys2Proof.Machine.execStepPointHold kernel s
  | .holdRelease kernel => Sys2Proof.Machine.execHoldRelease kernel s
  | .holdTimeout kernel => Sys2Proof.Machine.execHoldTimeout kernel s
  | .dutyHoldExpiry kernel => Sys2Proof.Machine.execDutyHoldExpiry kernel s
  | .operatingPointChange num den => Sys2Proof.Machine.execOperatingPointChange num den s
  | .kernelCompletion kernel => Sys2Proof.Machine.execKernelCompletion kernel s
  | .successorAppend kernel => Sys2Proof.Machine.execSuccessorAppend kernel s
  | .forcedPreemption kernel boundary => Sys2Proof.Machine.execForcedPreemption kernel boundary s
  | .stepPointPreemption kernel => Sys2Proof.Machine.execStepPointPreemption kernel s
  | .firmwareStopHandling kernel => Sys2Proof.Machine.execFirmwareStopHandling kernel s
  | .saveCompletion kernel => Sys2Proof.Machine.execSaveCompletion kernel s
  | .saveOutstandingTimeout kernel => Sys2Proof.Machine.execSaveOutstandingTimeout kernel s
  | .restore kernel => Sys2Proof.Machine.execRestore kernel s
  | .resume kernel => Sys2Proof.Machine.execResume kernel s
  | .stackHandoverToHold => Sys2Proof.Machine.execStackHandoverToHold s
  | .stackHandBack => Sys2Proof.Machine.execStackHandBack s
  | .faultResolution kernel => Sys2Proof.Machine.execFaultResolution kernel s
  | .pageRequestPerform => Sys2Proof.Machine.execPageRequestPerform s
  | .tlbinvDieAck die => Sys2Proof.Machine.execTlbinvDieAck die s
  | .scrubCompletion frame => Sys2Proof.Machine.execScrubCompletion frame s
  | .layerGroupRetire stack group => Sys2Proof.Machine.execLayerGroupRetire stack group s
  | .layerGroupReturn stack group => Sys2Proof.Machine.execLayerGroupReturn stack group s
  | .flitTransferData f => Sys2Proof.Machine.execFlitTransferData f s
  | .flitWindowOpen w => Sys2Proof.Machine.execFlitWindowOpen w s
  | .flitAcknowledgement xfer => Sys2Proof.Machine.execFlitAcknowledgement xfer s
  | .flitChecksumFailure xfer => Sys2Proof.Machine.execFlitChecksumFailure xfer s
  | .flitHold steps => Sys2Proof.Machine.execFlitHold steps s
  | .flitRejoin coll step => Sys2Proof.Machine.execFlitRejoin coll step s
  | .flitRejoinAnswer accepted => Sys2Proof.Machine.execFlitRejoinAnswer accepted s
  | .flitSpace5Request r => Sys2Proof.Machine.execFlitSpace5Request r s
  | .flitSpace5Answer id status data => Sys2Proof.Machine.execFlitSpace5Answer id status data s
  | .flitRefusal xfer => Sys2Proof.Machine.execFlitRefusal xfer s
  | .flitNak seq => Sys2Proof.Machine.execFlitNak seq s
  | .portTrainingStart => Sys2Proof.Machine.execPortTrainingStart s
  | .portTrained module modules => Sys2Proof.Machine.execPortTrained module modules s
  | .portKeyed secrets chainOk fwmeas => Sys2Proof.Machine.execPortKeyed secrets chainOk fwmeas s
  | .portFaultRekey secrets => Sys2Proof.Machine.execPortFaultRekey secrets s
  | .portLossOfSignal => Sys2Proof.Machine.execPortLossOfSignal s
  | .dieLinkUncorrectable dieA dieB => Sys2Proof.Machine.execDieLinkUncorrectable dieA dieB s
  | .sramUncorrectableError die store address => Sys2Proof.Machine.execSramUncorrectableError die store address s
  | .gnomonSyncLost die => Sys2Proof.Machine.execGnomonSyncLost die s
  | .clusterFailure rank => Sys2Proof.Machine.execClusterFailure rank s
  | .supplyReport supply granted reserve => Sys2Proof.Machine.execSupplyReport supply granted reserve s
  | .thermalSample die theta => Sys2Proof.Machine.execThermalSample die theta s
  | .powerFailWarning => Sys2Proof.Machine.execPowerFailWarning s
  | .supplySag => Sys2Proof.Machine.execSupplySag s
  | .unshed => Sys2Proof.Machine.execUnshed s
  | .drainCompletion => Sys2Proof.Machine.execDrainCompletion s
  | .manifestSeal => Sys2Proof.Machine.execManifestSeal s
  | .reserveExhausted => Sys2Proof.Machine.execReserveExhausted s
  | .drainBudgetAgeing => Sys2Proof.Machine.execDrainBudgetAgeing s
  | .packageReset => Sys2Proof.Machine.execPackageReset s
  | .dieCoreReset die => Sys2Proof.Machine.execDieCoreReset die s
  | .dieUncoreReset die => Sys2Proof.Machine.execDieUncoreReset die s
  | .start => Sys2Proof.Machine.execStart s
  | .replayCompletion => Sys2Proof.Machine.execReplayCompletion s
  | .identify h body => Sys2Proof.Machine.execIdentify h body s
  | .configDigest h body => Sys2Proof.Machine.execConfigDigest h body s
  | .createContext h body => Sys2Proof.Machine.execCreateContext h body s
  | .loadKernel h body => Sys2Proof.Machine.execLoadKernel h body s
  | .offerPage h body => Sys2Proof.Machine.execOfferPage h body s
  | .releaseRequest h body => Sys2Proof.Machine.execReleaseRequest h body s
  | .reclaimForce h body => Sys2Proof.Machine.execReclaimForce h body s
  | .submit h body => Sys2Proof.Machine.execSubmit h body s
  | .queryQueue h body => Sys2Proof.Machine.execQueryQueue h body s
  | .hibernateNow h body => Sys2Proof.Machine.execHibernateNow h body s
  | .resumeVerb h body => Sys2Proof.Machine.execResumeVerb h body s
  | .attestSession h body => Sys2Proof.Machine.execAttestSession h body s
  | .scrubReset h body => Sys2Proof.Machine.execScrubReset h body s
  | .destroyContext h body => Sys2Proof.Machine.execDestroyContext h body s
  | .mapPage h body => Sys2Proof.Machine.execMapPage h body s
  | .unmapPage h body => Sys2Proof.Machine.execUnmapPage h body s
  | .setAttr h body => Sys2Proof.Machine.execSetAttr h body s
  | .clearFailed h body => Sys2Proof.Machine.execClearFailed h body s
  | .readSlot h body => Sys2Proof.Machine.execReadSlot h body s
  | .readHk offset count => Sys2Proof.Machine.execReadHk offset count s
  | .keyExchange requester key => Sys2Proof.Machine.execKeyExchange requester key s
  | .getMeasurements session index nonce => Sys2Proof.Machine.execGetMeasurements session index nonce s
  | .streamRecordWrite => Sys2Proof.Machine.execStreamRecordWrite s
  | .hostAccessCompletion id error data => Sys2Proof.Machine.execHostAccessCompletion id error data s
  | .capacityTierAccessCompletion id => Sys2Proof.Machine.execCapacityTierAccessCompletion id s
  | .hostOfferWithdrawal frame => Sys2Proof.Machine.execHostOfferWithdrawal frame s
  | .uncorrectableFlit seq why => Sys2Proof.Machine.execUncorrectableFlit seq why s
  | .hostLinkStateChange status => Sys2Proof.Machine.execHostLinkStateChange status s
  | .unknownVerbRequest verb h => Sys2Proof.Machine.execUnknownVerbRequest verb h s
  | .algorithmNegotiation requester version base keying => Sys2Proof.Machine.execAlgorithmNegotiation requester version base keying s
  | .mctpControlMessage body => Sys2Proof.Machine.execMctpControlMessage body s

end Sys2Proof.Machine
end

