-- ==== Sys2Proof/Machine/Due.lean ====
section
/-! DEFINITION. The steps that the schedule holds: an event, an idle cycle, an index, or a word that a sequencer issues. Each runs
as its instruction. -/

namespace Sys2Proof.Machine

/-- An event runs as its instruction. -/
noncomputable def execEvent (e : Event) (s : State) : Out := exec e.toInstr s

/-- The same by direct calls, which the runtime can evaluate (log 15). -/
def execEventCode (e : Event) (s : State) : Out :=
  match e with
  | .controlTransfer => execControlTransfer s
  | .loopbBoundaryWrites => execLoopbBoundaryWrites s
  | .resultLand => execResultLand s
  | .scalarStorePerform => execScalarStorePerform s
  | .vectorStorePerform => execVectorStorePerform s
  | .dieTransferArrival => execDieTransferArrival s
  | .bTileLand => execBTileLand s
  | .accumulatorRowLand => execAccumulatorRowLand s
  | .exchangeRowLand => execExchangeRowLand s
  | .mdrainRowWrite => execMdrainRowWrite s
  | .routineCompletion => execRoutineCompletion s
  | .copySectorRead => execCopySectorRead s
  | .copySectorWrite => execCopySectorWrite s
  | .copyDataComplete => execCopyDataComplete s
  | .copyDigestWrite => execCopyDigestWrite s
  | .copyResultWrite => execCopyResultWrite s
  | .copyCompletion => execCopyCompletion s
  | .rdlLineLand => execRdlLineLand s
  | .wrlDataWritten => execWrlDataWritten s
  | .refreshEnd pch => execRefreshEnd pch s
  | .lturnComplete pch => execLturnComplete pch s
  | .serviceSlot pch slot => execServiceSlot pch slot s
  | .serviceWindowEnd pch => execServiceWindowEnd pch s
  | .engineOutputWrite => execEngineOutputWrite s
  | .refreshDebtTick => execRefreshDebtTick s
  | .nearBankIssueStart pch => execNearBankIssueStart pch s
  | .nearBankIssueEnd pch => execNearBankIssueEnd pch s
  | .nbfenceCommitEnd pch => execNbfenceCommitEnd pch s
  | .serviceRequestArrival id => execServiceRequestArrival id s
  | .serviceAccessPerform id => execServiceAccessPerform id s
  | .hostMemoryRequest write addr len data => execHostMemoryRequest write addr len data s
  | .compressedBlockWriteback block => execCompressedBlockWriteback block s
  | .barrierArrivalCount kernel => execBarrierArrivalCount kernel s
  | .stageOperationCount kernel => execStageOperationCount kernel s
  | .signalPublish kernel word => execSignalPublish kernel word s
  | .qtailWrite qi value => execQtailWrite qi value s
  | .hostRegisterWrite offset value => execHostRegisterWrite offset value s
  | .queueHeadValidation qi => execQueueHeadValidation qi s
  | .stagePatchEntry qi => execStagePatchEntry qi s
  | .markerEntry qi => execMarkerEntry qi s
  | .graphReplayStart qi => execGraphReplayStart qi s
  | .launchAdmission => execLaunchAdmission s
  | .kernelStart kernel => execKernelStart kernel s
  | .stepPointHold kernel => execStepPointHold kernel s
  | .holdRelease kernel => execHoldRelease kernel s
  | .holdTimeout kernel => execHoldTimeout kernel s
  | .dutyHoldExpiry kernel => execDutyHoldExpiry kernel s
  | .operatingPointChange num den => execOperatingPointChange num den s
  | .kernelCompletion kernel => execKernelCompletion kernel s
  | .successorAppend kernel => execSuccessorAppend kernel s
  | .forcedPreemption kernel boundary => execForcedPreemption kernel boundary s
  | .stepPointPreemption kernel => execStepPointPreemption kernel s
  | .firmwareStopHandling kernel => execFirmwareStopHandling kernel s
  | .saveCompletion kernel => execSaveCompletion kernel s
  | .saveOutstandingTimeout kernel => execSaveOutstandingTimeout kernel s
  | .restore kernel => execRestore kernel s
  | .resume kernel => execResume kernel s
  | .stackHandoverToHold => execStackHandoverToHold s
  | .stackHandBack => execStackHandBack s
  | .faultResolution kernel => execFaultResolution kernel s
  | .pageRequestPerform => execPageRequestPerform s
  | .tlbinvDieAck die => execTlbinvDieAck die s
  | .scrubCompletion frame => execScrubCompletion frame s
  | .layerGroupRetire stack group => execLayerGroupRetire stack group s
  | .layerGroupReturn stack group => execLayerGroupReturn stack group s
  | .flitTransferData f => execFlitTransferData f s
  | .flitWindowOpen w => execFlitWindowOpen w s
  | .flitAcknowledgement xfer => execFlitAcknowledgement xfer s
  | .flitChecksumFailure xfer => execFlitChecksumFailure xfer s
  | .flitHold steps => execFlitHold steps s
  | .flitRejoin coll step => execFlitRejoin coll step s
  | .flitRejoinAnswer accepted => execFlitRejoinAnswer accepted s
  | .flitSpace5Request r => execFlitSpace5Request r s
  | .flitSpace5Answer id status data => execFlitSpace5Answer id status data s
  | .flitRefusal xfer => execFlitRefusal xfer s
  | .flitNak seq => execFlitNak seq s
  | .portTrainingStart => execPortTrainingStart s
  | .portTrained module modules => execPortTrained module modules s
  | .portKeyed secrets chainOk fwmeas => execPortKeyed secrets chainOk fwmeas s
  | .portFaultRekey secrets => execPortFaultRekey secrets s
  | .portLossOfSignal => execPortLossOfSignal s
  | .dieLinkUncorrectable dieA dieB => execDieLinkUncorrectable dieA dieB s
  | .sramUncorrectableError die store address => execSramUncorrectableError die store address s
  | .gnomonSyncLost die => execGnomonSyncLost die s
  | .clusterFailure rank => execClusterFailure rank s
  | .supplyReport supply granted reserve => execSupplyReport supply granted reserve s
  | .thermalSample die theta => execThermalSample die theta s
  | .powerFailWarning => execPowerFailWarning s
  | .supplySag => execSupplySag s
  | .unshed => execUnshed s
  | .drainCompletion => execDrainCompletion s
  | .manifestSeal => execManifestSeal s
  | .reserveExhausted => execReserveExhausted s
  | .drainBudgetAgeing => execDrainBudgetAgeing s
  | .packageReset => execPackageReset s
  | .dieCoreReset die => execDieCoreReset die s
  | .dieUncoreReset die => execDieUncoreReset die s
  | .start => execStart s
  | .replayCompletion => execReplayCompletion s
  | .identify h body => execIdentify h body s
  | .configDigest h body => execConfigDigest h body s
  | .createContext h body => execCreateContext h body s
  | .loadKernel h body => execLoadKernel h body s
  | .offerPage h body => execOfferPage h body s
  | .releaseRequest h body => execReleaseRequest h body s
  | .reclaimForce h body => execReclaimForce h body s
  | .submit h body => execSubmit h body s
  | .queryQueue h body => execQueryQueue h body s
  | .hibernateNow h body => execHibernateNow h body s
  | .resumeVerb h body => execResumeVerb h body s
  | .attestSession h body => execAttestSession h body s
  | .scrubReset h body => execScrubReset h body s
  | .destroyContext h body => execDestroyContext h body s
  | .mapPage h body => execMapPage h body s
  | .unmapPage h body => execUnmapPage h body s
  | .setAttr h body => execSetAttr h body s
  | .clearFailed h body => execClearFailed h body s
  | .readSlot h body => execReadSlot h body s
  | .readHk offset count => execReadHk offset count s
  | .keyExchange requester key => execKeyExchange requester key s
  | .getMeasurements session index nonce => execGetMeasurements session index nonce s
  | .streamRecordWrite => execStreamRecordWrite s
  | .hostAccessCompletion id error data => execHostAccessCompletion id error data s
  | .capacityTierAccessCompletion id => execCapacityTierAccessCompletion id s
  | .hostOfferWithdrawal frame => execHostOfferWithdrawal frame s
  | .uncorrectableFlit seq why => execUncorrectableFlit seq why s
  | .hostLinkStateChange status => execHostLinkStateChange status s
  | .unknownVerbRequest verb h => execUnknownVerbRequest verb h s
  | .algorithmNegotiation requester version base keying => execAlgorithmNegotiation requester version base keying s
  | .mctpControlMessage body => execMctpControlMessage body s

/-- The two agree. -/
@[csimp] theorem execEvent_eq : @execEvent = @execEventCode := by
  funext e s; cases e <;> rfl

/-- R97, R177, R239: a step that is due runs for its unit. A word that no sequencer may issue takes its decode fault; validation
has refused it before (R69, R82, R85, R86). -/
def runDue (d : Due) (s : State) : Out :=
  match d with
  | .ev u e => execEvent e { s with unit := u }
  | .idle c => exec (.idleRun (s.old.core c).idle) { s with unit := c }
  | .index c i =>
    let s := { s with unit := c }
    match decodeIndex i with
    | some x => exec x s
    | none => .next (takeFault s (trouble 0x02))
  | .mx c w =>
    let s := { s with unit := c }
    match decodeMx w with
    | some x => exec x s
    | none => .next (engineFault s (trouble 0x41))
  | .cmd k w =>
    if cmdReady s k then
      match decodeCmd w with
      | some x => exec x (issueCmd s k w)
      | none => .next (stackFault (issueCmd s k w) 0x20 [stackDetail k 0 32, (s.cur.stk k).pos, 0] (s.cur.stk k).tick)
    else .next s
  | .nb p w =>
    match decodeNb w with
    | some x => exec x { s with unit := p }
    | none => .next (nbFault s (p / 64) (p % 64) 0 0x42)

end Sys2Proof.Machine
end

