-- ==== Sys2Proof/Machine/Cycle.lean ====
section
/-! DEFINITION. The order of one cycle of the hub (R14 to R16, R73, R102, R107, R237, R289): what is due in each of its parts, the
boundary at its end, and how a fault undoes it. The parts, by the number that `phase` holds:

0 results that become readable; 1 stops reported for this boundary, then inputs; 2 what firmware and other agents may do here; 3
starts, holds and ends of kernels; 4 stacks that change hands, and then, with `old` fixed, the events that read and write before any
word; 5 to 9 the even tick of every stack and 10 to 14 the odd one; 15 lines that land in L2; 16 the bundles; 17 tile chunks and ends
of routines; 18 the boundary. -/

namespace Sys2Proof.Machine

/-- The dies whose Gnomon advances in this cycle. -/
def Sys.runningDies (y : Sys) : List Nat := y.present.filter fun d => (y.die d).run == .running
/-- The cores that go through this cycle. -/
def Sys.live (y : Sys) : List Nat := y.liveOn y.runningDies
/-- An event of a unit. -/
def due (u : Nat) (e : Event) : Due := .ev u e
/-- An event that is due when a condition holds. -/
def dueIf (b : Bool) (u : Nat) (e : Event) : List Due := if b then [.ev u e] else []

/-! ### Part 0: results (R105, R106, R120, R123, R179) -/

/-- The results of a core that land at the start of its cycle. -/
def Sys.landings (y : Sys) (c : Nat) : List Due :=
  let k := y.core c
  let g := y.gn c
  let one := fun (p : Pending) => due c (if p.dest.isLoopb then .loopbBoundaryWrites else .resultLand)
  (k.due g fun d => d.isRegister || d.isLoopb).map one ++
    dueIf (k.window.any fun w => w.issued + 4 == g) c .controlTransfer ++
    ((k.mx.loads.filter fun l => l.land == g).map fun _ => due c .bTileLand)

/-! ### The stop of a cycle (R71, R97, R289, R290) -/

/-- The kind of a stop that a report causes (R126). -/
def Report.kind (r : Report) : StopKind := if r.cause == 0 && r.late && r.rank == 1 then .trap else .fault

/-- R289, R290: every group of dies with reports stops at this boundary; `n` bounds the groups. -/
def stopAll : Nat → List Report → Sys → Sys
  | 0, _, y => y
  | n + 1, l, y =>
    match l.head? with
    | none => y
    | some r0 =>
      let ds := y.reach [r0.die]
      let mine := l.filter fun r => ds.contains r.die
      let rest := l.filter fun r => !ds.contains r.die
      match firstReport mine with
      | none => stopAll n rest y
      | some r =>
        let more := mine.any fun x => x != r
        stopAll n rest (y.stopAt r.kind (some r) more r.kernel.toList [r.die])

/-! ### Part 1 -/

/-- The stops reported in the cycle before for this boundary: TRAPs and timeline faults of an odd tick. -/
def lateStops (s : State) : State :=
  let l := s.faults.filter (·.late)
  { s.onCur (stopAll l.length l) with faults := [] }

/-- R11: what comes over a Lattice port, which an N9-D lacks. -/
def overLattice : Event → Bool
  | .flitTransferData .. | .flitWindowOpen .. | .flitAcknowledgement .. | .flitChecksumFailure .. | .flitHold .. | .flitRejoin ..
  | .flitRejoinAnswer .. | .flitSpace5Request .. | .flitSpace5Answer .. | .flitRefusal .. | .flitNak .. | .portTrainingStart | .portTrained ..
  | .portKeyed .. | .portFaultRekey .. | .portLossOfSignal | .uncorrectableFlit .. => true
  | _ => false

/-- R11, R22: what comes over the host interface of the hub, which an N9-D lacks. -/
def overHost : Event → Bool
  | .hostMemoryRequest .. | .hostAccessCompletion .. | .qtailWrite .. | .hostRegisterWrite .. | .hostLinkStateChange .. => true
  | _ => false

/-- R410: the first fuse pair below SVN that is not whole, once the image has been verified. -/
def TrustState.toBlow (t : TrustState) : Option Nat :=
  if t.recovery || t.fwmeas.isEmpty then none
  else (List.range t.svn).find? fun i => t.fuses[i]?.any fun p => !(p.1 && p.2)

/-- R410: the counter rises bit by bit: the first bit of a pair, then the second. -/
def TrustState.blowBit (t : TrustState) : TrustState :=
  match t.toBlow with
  | none => t
  | some i => { t with fuses := t.fuses.set i (true, (t.fuses.getD i (false, false)).1) }

/-- R410, R412: whether firmware may take up a request that arrived at a hub cycle: page requests and faults that reached it before are
done, and the fuses are raised. -/
def Sys.free (y : Sys) (time : Nat) : Bool :=
  !(y.pageReqs.any fun r => r.hub ≤ time) && !y.faultWaits time && y.trust.toBlow.isNone

/-- The input of a list that arrived first, and among those of one cycle the one listed first. -/
def earliest (l : List Input) : Option Input :=
  l.foldl (fun o i => match o with | some j => if i.time < j.time then some i else o | none => some i) none

/-- R412: the request that firmware takes up in this cycle. -/
def State.taken (s : State) : Option Input :=
  (earliest (s.inputs.filter fun i => i.time ≤ s.cur.hub && servedByFirmware i.event)).filter fun i => s.cur.free i.time

/-- R405, R412: a request that arrives in this cycle while only some verbs are served is marked. -/
def State.noted (s : State) : State :=
  let note := fun (i : Input) => if i.time == s.cur.hub && servedByFirmware i.event then { i with barred := s.cur.sequencing } else i
  { s with inputs := s.inputs.map note }

/-- The inputs that arrive in this cycle. Those that firmware serves wait for it, in the order of their arrival; of the one that it takes up
the time of arrival is kept (R412). -/
def arrivals (s : State) : State :=
  let s := s.noted
  let now := fun (i : Input) => decide (i.time ≤ s.cur.hub) && !servedByFirmware i.event
  let here := (s.inputs.filter now).filter fun i => !((overLattice i.event || overHost i.event) && s.cur.trust.form == 1)
  let late := s.inputs.filter fun i => !now i
  let s := match s.taken with
    | some i => s.onCur fun y => { y with trust := { y.trust with stamp := i.time, barred := i.barred } }
    | none => s
  { s with inputs := s.taken.elim late late.erase, todo := s.todo ++ (here ++ s.taken.toList).map fun i => .ev i.unit_ i.event }

/-! ### Part 2: firmware -/

/-- What may happen to a service access. -/
def accessMoments (s : State) (a : Access) : List Due :=
  if a.result.isSome then [due 0 (.serviceAccessPerform a.id)]
  else if a.arrived.isSome then dueIf a.atTier 0 (.capacityTierAccessCompletion a.id)
  else dueIf (s.cur.mayArrive a s.tickNow) 0 (.serviceRequestArrival a.id)

/-- R280, R414: the blocks of compressed pages that firmware may write back: memory work may fall on their pages. -/
def Sys.writebacks (y : Sys) : List Due :=
  let ready := fun (a : Access) =>
    a.cmp && a.kind == .store && a.arrived.isSome && a.result.isNone &&
      y.worksOn a.base (((SMap.get? y.frames a.base).map (·.size)).getD 65536)
  (((y.accesses.filter ready).map Access.block).eraseDups).map fun b => due 0 (.compressedBlockWriteback b)

/-- What firmware may do with a kernel. -/
def Sys.kernelMoments (y : Sys) (c : Nat × Kernel) : List Due :=
  let q := c.1
  let x := c.2
  let raised := ((y.queue x.queue).map fun k => ((k.raises.filter (·.kernel == q)).map (·.word)).eraseDups).getD []
  (raised.map fun w => due 0 (.signalPublish q w)) ++
    dueIf ((x.state == .stopped || x.state == .held) && x.saving.isNone) 0 (.firmwareStopHandling q) ++
    dueIf x.saving.isSome 0 (.saveCompletion q) ++
    dueIf (x.state == .saved || (x.state == .binding && SMap.has y.saved q)) 0 (.restore q) ++
    dueIf (x.state == .stopped && x.saving.isNone) 0 (.faultResolution q) ++ dueIf (x.state == .stopped && !x.holds.due) 0 (.resume q) ++
    dueIf (x.state == .held && !x.holds.due) 0 (.holdRelease q)

/-- What firmware may do about supply, hibernation and the manifest. -/
def Sys.powerMoments (y : Sys) : List Due :=
  (match y.power.hib with
    | some h => if h.reason == 0 then [due 0 .supplySag]
      else dueIf (h.step < 5) 0 .drainCompletion ++ dueIf (h.step == 6) 0 .manifestSeal
    | none => []) ++
  dueIf (y.power.manifest == .replaying) 0 .replayCompletion ++ dueIf y.power.shed 0 .unshed

/-- R362: the dies that owe an acknowledgement. -/
def Sys.owing (y : Sys) : List Nat :=
  ((match y.nextRequest with | some r => if r.started then r.acks else [] | none => []) ++ y.invals.flatMap (·.acks)).eraseDups

/-- R364: the layer groups that are back while pages retired with them are not. -/
def Sys.returning (y : Sys) : List (Nat × Nat) :=
  let pages := y.ctxs.flatMap fun x => x.2.pages.filter fun p => p.state == .retired && !y.offline p.pa
  (pages.map fun p => (p.pa / stackBytes, layerGroup p.pa)).eraseDups

/-- What firmware may do with pages. -/
def Sys.pageMoments (y : Sys) : List Due :=
  (y.owing.map fun d => due 0 (.tlbinvDieAck d)) ++ (y.nextRequest.toList.map fun _ => due 0 .pageRequestPerform) ++
  (y.returning.map fun g => due 0 (.layerGroupReturn g.1 g.2)) ++
  (y.retiring.map fun r => due 0 (.layerGroupRetire r.stack r.group)) ++
  ((y.frames.filter fun f => f.2.state == .scrubbing).map fun f => due 0 (.scrubCompletion f.1))

/-- R254, R386: the stacks that firmware may take out of self-refresh (log 143). -/
def Sys.stackMoments (y : Sys) : List Due :=
  (y.stks.filter fun k => k.2.driver == .selfRefresh && k.2.kernel.isNone && (y.die (k.1 / 2)).run == .running).map fun k =>
    due k.1 .stackHandBack

/-- Everything that firmware, and the agents whose times are not architectural, may do at this boundary. -/
def moments (s : State) : List Due :=
  let y := s.cur
  s.cur.accesses.flatMap (accessMoments s) ++ y.pageMoments ++ y.writebacks ++ y.stackMoments ++
    dueIf ((y.kernels.any fun x => x.2.state == .binding) || !y.offers.isEmpty) 0 .launchAdmission ++
    y.kernels.flatMap y.kernelMoments ++ y.powerMoments

/-- R367: host or system software may set the export window at this boundary (log 158). -/
def Sys.setWindow (y : Sys) (n : Nat) : Sys :=
  match Config.exportWindow n with
  | some (c, base, size) => { y with link := { y.link with exportWin := some { ctx := c, base := base, size := size } } }
  | none => y

/-- Which of them happen here is free (log 9). -/
def firmware (s : State) : State :=
  let l := moments s
  let happen := (List.zip (List.range l.length) l).filter fun x => !Config.idles (s.fresh + x.1)
  { s.onCur (fun y => y.setWindow s.fresh) with todo := s.todo ++ happen.map (·.2), fresh := s.fresh + l.length + 1 }

/-! ### Part 3: kernels (R324 to R333) -/

/-- R306, R307, R311, R312: the heads of queues: each is read, validated and made ready, patches and markers finish, and then replays
start. -/
def Sys.headsDue (y : Sys) : List Due :=
  let heads := (y.queues.filter fun c => c.2.state == .waiting && c.2.head < c.2.tail).map (·.1)
  heads.flatMap (fun qi => [due 0 (.queueHeadValidation qi), due 0 (.stagePatchEntry qi), due 0 (.markerEntry qi)]) ++
    heads.map fun qi => due 0 (.graphReplayStart qi)

/-- R297, R383, R384: what has to happen by a time: the end of the wait of a power-fail save after 100 µs, ageing every second, the end of
the drain, and the seal within 10 ms. -/
def Sys.powerDue (y : Sys) : List Due :=
  let now := y.wallc.toNat
  (y.kernels.flatMap fun c => dueIf (y.failing && c.2.saving.any fun w => w + 10000 ≤ now) 0 (.saveOutstandingTimeout c.1)) ++
  dueIf (y.trust.form == 3 && y.power.hib.isNone && decide (y.power.aged + 100000000 ≤ now)) 0 .drainBudgetAgeing ++
    match y.power.hib with
    | some h => dueIf (h.step == 5) 0 .drainCompletion ++ dueIf (h.step == 6 && decide (h.since + 1000000 ≤ now)) 0 .manifestSeal
    | none => []

/-- The transitions of kernels that fall at this boundary. -/
def Sys.transitions (y : Sys) : List Due :=
  let one := fun (c : Nat × Kernel) =>
    let x := c.2
    let run := x.dies.all fun d => (y.die d).run == .running
    (if x.state == .bound && run && x.readyAt == y.kernelNow x then [due 0 (.kernelStart c.1), due 0 (.stepPointHold c.1)] else []) ++
      dueIf (x.state == .completed && !x.succ.isEmpty) 0 (.successorAppend c.1) ++
      dueIf (x.state == .running && (run || y.haltDue c.1 x)) 0 (.stepPointHold c.1) ++
      (if x.state == .held then dueIf x.holds.duty.isSome 0 (.dutyHoldExpiry c.1) ++ dueIf x.holds.waiting 0 (.holdTimeout c.1) else [])
  y.kernels.flatMap one ++
    (match y.opNext with | some (n, d) => [due 0 (.operatingPointChange n d)] | none => []) ++ y.headsDue ++ y.powerDue

/-! ### Part 4: stacks that change hands (R251 to R253, R415, R416) -/

/-- Whether a kernel goes on as soon as its stacks have been handed back. -/
def Sys.goesOn (y : Sys) (q : Nat) (x : Kernel) : Bool :=
  (x.holds.due && (y.mayRelease q x || y.mayResume x)) ||
    (x.state == .bound && decide (x.readyAt ≤ y.kernelNow x + 2048))

/-- Whether the compiled timeline of a stack advances in this cycle. -/
def Sys.advances (y : Sys) (k : Nat) : Bool :=
  (y.stk k).driver == .compiled && (y.die (k / 2)).run == .running &&
    ((y.stk k).kernel.bind y.kern).any fun x => x.state == .running

/-- R237: the stacks that pass to the hold timeline, because their die is held or stopped or their kernel does not run, and those that are
handed back: to a kernel that goes on, or where no kernel is concerned and the die runs. -/
def Sys.handovers (y : Sys) : List Due :=
  (List.range Config.stackCount).flatMap fun k =>
    let c := y.stk k
    let r := (y.die (k / 2)).run
    let on := (c.kernel.bind fun q => (y.kern q).map fun x => y.goesOn q x).getD (r == .running)
    let leaves := (c.driver == .compiled && !y.advances k) || (c.driver == .idle && (r == .held || r == .stopped))
    let taken := c.driver == .hold && (c.handBackOk (2 * y.hub) || c.handBackOk (2 * y.hub - 1))
    let wakes := c.driver == .selfRefresh && c.kernel.isSome
    dueIf (leaves && !on) k .stackHandoverToHold ++ dueIf (on && (taken || wakes)) k .stackHandBack

/-- R416: the kernels that run on in this cycle, because their release or resume is due and their stacks have been handed back. A follower
that is held by itself waits for a value of the Gnomon (R326). -/
def Sys.restarts (y : Sys) : List Nat :=
  let ready := fun (c : Nat × Kernel) =>
    let x := c.2
    let n := x.start + stepCycle (y.sections x) (x.holds.step.getD 0)
    let g := y.kernelNow x
    x.holds.due &&
      (if x.state == .held then y.mayRelease c.1 x && y.handedBack c.1 && (x.lead || ((g - n) % 4096 == 0 && n ≤ g))
       else y.mayResume x && y.groupBack x)
  (y.kernels.filter ready).map (·.1)

/-- R326, R416: they run on at this boundary, and with their dies every kernel there, each at a step point as at any other boundary. -/
def Sys.restartsDue (y : Sys) (qs : List Nat) : List Due :=
  let ds := y.reach (qs.flatMap fun q => ((y.kern q).map (·.dies)).getD [])
  let run := fun (q : Nat) => if (y.kern q).any fun x => x.state == .held then due 0 (.holdRelease q) else due 0 (.resume q)
  let here := y.kernels.filter fun x => x.2.dies.any ds.contains
  let starts := here.filter fun x => x.2.state == .bound && x.2.readyAt == y.kernelNow x.2
  let goes := here.filter fun x => x.2.state == .running || x.2.state == .stopped || x.2.state == .held
  qs.map run ++ (starts.map fun x => due 0 (.kernelStart x.1)) ++ ((goes ++ starts).map fun x => due 0 (.stepPointHold x.1))

/-! ### Part 4: events before the words of a cycle -/

/-- The copies and link reads of a core in its cycle (R219 to R226, R374). -/
def Sys.copyEvents (y : Sys) (c : Nat) : List Due :=
  let k := y.core c
  let g := y.gn c
  let any := fun (f : Copy → CopyDesc → Bool) => k.copies.any fun x => f x (copyDesc x.desc)
  let ends := fun (kind : Nat) (x : Copy) (d : CopyDesc) => x.kind == kind && g + 1 == x.start + copyL x.conf d kind
  dueIf (!k.copies.isEmpty || y.link.transfers.any fun t => t.core == c) c .copySectorRead ++
    dueIf (any fun x d => (sectorDue x d (g - x.start)).isSome) c .copySectorWrite ++
    dueIf (any fun x d => g == x.start + copyLD x.conf d) c .copyDataComplete ++
    dueIf (any (ends 2)) c .copyDigestWrite ++ dueIf (any (ends 3)) c .copyResultWrite ++
    dueIf (any fun x d => decide (x.start + copyL x.conf d x.kind ≤ g)) c .copyCompletion

/-- Results of a core that land through a store, the accumulator or the exchange buffer. -/
def Sys.storeEvents (y : Sys) (c : Nat) : List Due :=
  let k := y.core c
  let g := y.gn c
  let n := fun (f : Dest → Bool) (e : Event) => (k.due g f).map fun _ => due c e
  let code := fun (m : Nat) (d : Dest) => match d with | .store _ _ x => x == m | _ => false
  n (code 0x02) .scalarStorePerform ++ n (code 0x05) .vectorStorePerform ++ n (code 0x08) .streamRecordWrite ++
    n Dest.isAcc .accumulatorRowLand ++ n Dest.isExch .exchangeRowLand ++
    dueIf (k.mx.drain.any fun d => decide (d.start < g)) c .mdrainRowWrite

/-- R177: the micro-word that a core's sequencer executes in this cycle. -/
def Sys.microDue (y : Sys) (c : Nat) : List Due :=
  let x := (y.core c).mx
  if x.seq.st == .running || x.seq.st == .paired then [.mx c (SMap.getD x.store (x.seq.first + x.seq.index) mxEndWord)] else []

/-- R177: whether a sequencer has run past the end of its routine. -/
def Sys.overruns (y : Sys) (c : Nat) : Bool :=
  let q := (y.core c).mx.seq
  (q.st == .running || q.st == .paired) && q.count ≤ q.index

/-- R127: whether vectors arrive at a core for its cycle. -/
def Sys.receives (y : Sys) (c : Nat) : Bool :=
  (y.core c).pending.any fun p => (match p.dest with | .die .. => true | _ => false) && p.land == y.gn c

/-- The events before the words of a cycle. -/
def Sys.earlyEvents (y : Sys) : List Due :=
  let cs := y.live
  let ks := y.kernels.filter fun x => x.2.state == .running && x.2.dies.all fun d => (y.die d).run == .running
  ((y.coresOn y.runningDies).filter y.receives).map (fun c => due c .dieTransferArrival) ++
    ks.flatMap (fun x => dueIf (!(y.dueOps x.2 [0, 4]).isEmpty || x.2.carried) 0 (.barrierArrivalCount x.1)) ++
    ks.flatMap (fun x => dueIf (!(y.dueOps x.2 [2, 3]).isEmpty) 0 (.stageOperationCount x.1)) ++
    cs.flatMap y.storeEvents ++ cs.flatMap y.copyEvents ++ (cs.filter fun c => !y.overruns c).flatMap y.microDue

/-- Part 4: `old` is the module at the boundary, with the results of this cycle landed. A sequencer past the end of its routine raises
its fault. -/
def openCycle (s : State) : State :=
  match s.cur.handovers, s.cur.restarts with
  | [], [] =>
    let y := s.cur
    let s := { s with old := y, uses := [], todo := y.earlyEvents, phase := 5 }
    (y.live.filter y.overruns).foldl (fun s c => stepOn microOverrun c s) s
  | [], qs => { s with todo := s.cur.restartsDue qs }
  | l, _ => { s with todo := l }

/-! ### Parts 5 to 14: the ticks of the stacks (R241 to R248, R260 to R263) -/

/-- A pseudo-channel's number. -/
def pchNo (p : Nat) : BitVec 6 := BitVec.ofNat 6 p
/-- What each pseudo-channel of the listed stacks has due. -/
def Sys.eachPch (y : Sys) (f : Nat → Nat → Pch → List Due) : List Due :=
  y.stks.flatMap fun k => k.2.pchs.flatMap fun c => f k.1 c.1 c.2

/-- R260, R261: whether the issue on a pseudo-channel ends at a tick, or goes where it may not. -/
def NbRun.endsAt (r : NbRun) (w : Nat) : Bool := (r.ended || 255 < r.pc || 65536 ≤ r.n) && r.s + 4 * r.n == w

/-- What ends on a pseudo-channel by a tick. -/
def pchEnds (w k p : Nat) (c : Pch) : List Due :=
  let n := pchNo p
  let past := fun (f : Occupier → Bool) => c.busy.any fun b => b.1 ≤ w && f b.2
  dueIf ((past fun o => o == .refab) || c.banks.any fun b => match b.2.mode with | .refreshing e => decide (e ≤ w) | _ => false) k
      (.refreshEnd n) ++
    dueIf (c.lturn.any fun l => decide (l.1 ≤ w)) k (.lturnComplete n) ++
    dueIf (past fun o => match o with | .window .. => true | .engine => true | _ => false) k (.serviceWindowEnd n) ++
    dueIf (past fun o => o == .commit) k (.nbfenceCommitEnd n) ++
    dueIf (c.cur.any fun r => r.endsAt w) k (.nearBankIssueEnd n)

/-- Parts 5 and 10. -/
def Sys.endsDue (y : Sys) (w : Nat) : List Due :=
  (y.stks.flatMap fun k => dueIf (k.2.writes.any fun f => decide (f.done ≤ w)) k.1 .wrlDataWritten) ++ y.eachPch (pchEnds w)

/-- Parts 6 and 11: near-bank issues that start: eight ticks after their NBISS, once the one before has ended. -/
def Sys.startsDue (y : Sys) (w : Nat) : List Due :=
  y.eachPch fun k p c => dueIf (c.cur.isNone && c.queue.head?.any fun i => decide (i.tick + 8 ≤ w)) k (.nearBankIssueStart (pchNo p))

/-- Parts 7 and 12: the near-bank word of every fourth tick of an issue. -/
def Sys.wordsDue (y : Sys) (w : Nat) : List Due :=
  y.eachPch fun k p c =>
    match c.cur with
    | some r => if !r.ended && r.pc ≤ 255 && r.s ≤ w && (w - r.s) % 4 == 0 then [.nb (64 * k + p) (SMap.getD c.store r.pc nbEndWord)] else []
    | none => []

/-- R84, R237: the words of a timeline whose tick has come. -/
def commandsAt (t : Nat) : Nat → List Word → List Word
  | _, [] => []
  | now, w :: ws => if now + cmdDelta w ≤ t then w :: commandsAt t (now + cmdDelta w) ws else []

/-- Parts 8 and 13. -/
def Sys.commandsDue (y : Sys) (half : Nat) : List Due :=
  y.stks.flatMap fun k =>
    if y.advances k.1 then (commandsAt (2 * y.relCycle k.1 + half) k.2.tick (k.2.prog.drop k.2.pos)).map (.cmd k.1) else []

/-- The stack tick at which a kernel bound to a stack starts, while its die runs (R237, R324). -/
def Sys.startTick (y : Sys) (k : Nat) : Option Nat :=
  ((y.stk k).kernel.bind y.kern).bind fun x =>
    if x.state == .bound && (y.die (k / 2)).run == .running && y.kernelNow x ≤ x.readyAt then some (2 * (y.hub + (x.readyAt - y.kernelNow x)))
    else none

/-- R248, R414: the slot that begins on a pseudo-channel at a tick, if one does. -/
def Stack.slotAt (x : Stack) (p w : Nat) : Option Nat :=
  match (x.pch p).busy with
  | some (_, .window k n) => if k ≤ w && (w - k) % 8 == 0 && (w - k) / 8 < n then some ((w - k) / 8) else none
  | _ => if x.driver == .compiled || x.driver == .selfRefresh then none else x.firmwareSlot p w

/-- R248: a slot that begins on a pseudo-channel at a tick. A window of the idle timeline that would still be open at the start of the
stack's kernel is not opened (log 44). -/
def Sys.slotDue (y : Sys) (w k p : Nat) : List Due :=
  match (y.stk k).slotAt p w with
  | some i =>
    let late := ((y.stk k).driver == .idle) && ((y.stk k).pch p).busy.isNone && (y.startTick k).any fun t => decide (t < w - 8 * i + 664)
    dueIf (!late) k (.serviceSlot (pchNo p) i)
  | none => []

/-- The pseudo-channels for which a slot has something to serve. -/
def Sys.served (y : Sys) : List (Nat × Nat) :=
  let waiting := (y.accesses.filter fun a => a.arrived.isSome && a.result.isNone && a.atHbm).map Access.channel
  let reading := y.stks.flatMap fun k => (k.2.pchs.filter fun c => c.2.conv.isSome).map fun c => (k.1, c.1)
  (waiting ++ reading).eraseDups

/-- R245: whether a tick of a stack's timeline has been one of a compiled timeline: it drives the stack still, or gave it up in this tick. -/
def Sys.ticks (y : Sys) (k w : Nat) : Bool :=
  ((y.stk k).driver == .compiled || ((y.stk k).driver.firmware && w < (y.stk k).taken)) && (y.die (k / 2)).run == .running &&
    ((y.stk k).kernel.bind y.kern).any fun x => x.state == .running

/-- Parts 9 and 14: rises of refresh debt (R245), then the service slots. -/
def Sys.slotsDue (y : Sys) (w half : Nat) : List Due :=
  (y.stks.flatMap fun k =>
    dueIf (y.ticks k.1 w && 7332 * (k.2.rises + 1) ≤ 2 * y.relCycle k.1 + half) k.1 .refreshDebtTick) ++
    y.served.flatMap fun c => y.slotDue w c.1 c.2

/-! ### Parts 15 to 17 -/

/-- R241, R256: lines that land in L2 in this cycle. -/
def Sys.lineEvents (y : Sys) : List Due :=
  y.stks.flatMap fun k =>
    if ((k.2.kernel.bind y.kern).any fun x => x.state == .running) && (y.die (k.1 / 2)).run == .running then
      let rel := y.relCycle k.1
      dueIf (k.2.lands.any fun l => l.cycle == rel || l.tick / 2 == rel) k.1 .rdlLineLand ++
        dueIf (k.2.engines.any fun e => e.cycle == rel) k.1 .engineOutputWrite
    else []

/-- R74, R97: the cores that issue in this cycle, in order; an index pointer past the index store raises 0x09. -/
def issueAll (s : State) : State :=
  let cs := s.cur.live.filter fun c => (s.cur.core c).task == .running
  let late := cs.filter fun c => (s.old.core c).idle == 0 && 131071 < (s.old.core c).ip
  let one := fun (c : Nat) => if (s.old.core c).idle != 0 then Due.idle c else Due.index c (SMap.getD (s.old.core c).index (s.old.core c).ip 0)
  let t := { s with todo := (cs.filter fun c => !late.contains c).map one }
  late.foldl (fun t c => stepOn (fun s => .next (takeFault { s with issue := Issue.none } (trouble 0x09))) c t) t

/-- R179, R184: chunks of tile loads, and routines that are complete. -/
def endMatrix (s : State) : State :=
  let cs := s.cur.live
  let t := cs.foldl (fun t c => if (t.cur.core c).mx.loads.isEmpty then t
    else t.onCore c (readChunks (s.old.core c).mx.wbuf (s.cur.gn c))) s
  let ended := fun (c : Nat) => (t.cur.core c).mx.routines.any fun q => !q.done && q.ended (t.cur.gn c)
  { t with todo := (cs.filter ended).map fun c => due c .routineCompletion }

/-! ### Part 18: the boundary -/

/-- R127: vectors that arrived in this cycle and found no XRECV, also at a core whose own kernel does not run. -/
def untaken (y : Sys) (c : Nat) : List Report :=
  if (y.core c).arrived.isEmpty then []
  else
    [{ rank := 1, late := false, die := dieOf c, cluster := clusterOf c % 20, core := c % 8, word := 0, cause := 0x18, detail := [0, 0, 0],
       pos := none, kernel := (y.core c).kernel }]

/-- R196: a paired MCALL of this cycle without its partner's. -/
def unpaired (y : Sys) (c : Nat) : List Report :=
  let q := (y.core c).mx.seq
  match q.pair with
  | none => []
  | some p =>
    let o := (y.core (partnerCore c p.cluster)).mx.seq
    let meets := o.st == .paired && o.called == q.called && o.pair.any fun r => r.cluster == clusterOf c % 20
    if q.st != .paired || q.called != y.gn c || meets then []
    else
      [{ rank := 1, late := false, die := dieOf c, cluster := clusterOf c % 20, core := c % 8, word := p.word, cause := 0x1A,
         detail := [q.routine, 0, 0], pos := none, kernel := (y.core c).kernel }]

/-- The faults of this cycle: a bank fault of a word precedes another that the word raised (R203). -/
def cycleFaults (s : State) : List Report :=
  let banks := bankReports s.old s.uses
  let other := s.faults ++ (s.cur.coresOn s.cur.runningDies).flatMap (untaken s.cur) ++ s.cur.live.flatMap (unpaired s.cur)
  let same := fun (a b : Report) => a.rank == 1 && b.rank == 1 && a.coreNo == b.coreNo && a.word == b.word
  banks ++ other.filter fun r => !banks.any (same r)

/-- A hub cycle's worth of wall time: 100 MHz against the clock of R17. -/
def Sys.addWall (y : Sys) : Sys :=
  let n := y.wallAcc + 5 * y.opDen
  { y with hub := y.hub + 1, wallc := y.wallc + BitVec.ofNat 64 (n / (47 * y.opNum)), wallAcc := n % (47 * y.opNum) }

/-- The Gnomon of every running die advances, and the holds that equalise copies count down (R14, R325). -/
def Sys.addGnomon (y : Sys) : Sys :=
  y.present.foldl (fun y d =>
    let x := y.die d
    y.setDie d { x with gnomon := if x.run == .running then x.gnomon + 1 else x.gnomon, equalise := x.equalise - 1 }) y

/-- The dies whose equalising hold ends with this cycle. -/
def Sys.equalised (y : Sys) : List Nat := y.present.filter fun d => (y.die d).equalise == 1 && (y.die d).run == .held

/-- R19, R241, R417: the errors that the part corrects are counted since the start, and each count saturates. -/
def Sys.countCorrected (y : Sys) (n : Nat) : Sys :=
  { y with ecc := (List.range 4).map fun i => Nat.min 65535 (y.ecc.getD i 0 + Config.corrected n i) }

/-- The end of a cycle without a stop. Flags that are due join on the cores that went through the cycle (R41): those of a core that
stopped or was held at its beginning join in the same Gnomon cycle, once it goes on. The scratchpad ranges that timed writes wrote are
noted (Table 10.3). -/
def closeCycle (s : State) : State :=
  let ds := s.cur.equalised
  let live := s.cur.live
  let join := fun (c : Nat × Core) =>
    let k := { c.2 with wrote := timedWrites s.uses c.1 }
    (c.1, if k.flagsDue == 0 || !live.contains c.1 then k else k.joinFlags)
  let t := s.onCur fun y =>
    { y with cores := y.cores.map join, trust := y.trust.blowBit }.addGnomon.addWall.countCorrected s.fresh
  { (if ds.isEmpty then t else restartDies ds t) with
    faults := s.faults.filter (·.late), uses := [], todo := [], phase := 0, fresh := s.fresh + 1 }

/-- R332: the kernels that are complete once a cycle's work is done. -/
def Sys.completions (y : Sys) : List Due :=
  (y.kernels.filter fun x => (x.2.dies.all fun d => (y.die d).run == .running) && y.complete x.1 x.2).map fun x => due 0 (.kernelCompletion x.1)

/-- Part 18: with a fault reported for this cycle the module is again as it stood at the boundary before it, the dies concerned stop
there, and the cycle begins once more for the others; otherwise kernels that are complete leave the machine (R332), and the cycle
ends. -/
def endCycle (s : State) : State :=
  match (cycleFaults s).filter fun r => !r.late with
  | [] =>
    match s.cur.completions with
    | [] => closeCycle s
    | l => { s with todo := l }
  | l => { s with cur := stopAll l.length l s.old, faults := [], uses := [], todo := [], issue := Issue.none, phase := 4 }

/-- The next part of the cycle. -/
def advance (s : State) : State :=
  let y := s.cur
  let go := fun (l : List Due) => { s with todo := l, phase := s.phase + 1 }
  match s.phase with
  | 0 => go (y.live.flatMap y.landings)
  | 1 => { arrivals (lateStops s) with phase := 2 }
  | 2 => { firmware s with phase := 3 }
  | 3 => go y.transitions
  | 4 => openCycle s
  | 5 => go (y.endsDue (2 * y.hub))
  | 6 => go (y.startsDue (2 * y.hub))
  | 7 => go (y.wordsDue (2 * y.hub))
  | 8 => go (y.commandsDue 0)
  | 9 => go (y.slotsDue (2 * y.hub) 0)
  | 10 => go (y.endsDue (2 * y.hub + 1))
  | 11 => go (y.startsDue (2 * y.hub + 1))
  | 12 => go (y.wordsDue (2 * y.hub + 1))
  | 13 => go (y.commandsDue 1)
  | 14 => go (y.slotsDue (2 * y.hub + 1) 1)
  | 15 => go y.lineEvents
  | 16 => { issueAll s with phase := 17 }
  | 17 => { endMatrix s with phase := 18 }
  | _ => endCycle s

end Sys2Proof.Machine
end

