-- ==== Sys2Proof/Machine/Fetch.lean ====
section
/-! DEFINITION. The step of a bundle's words (R60, R61, R71, R73), and how a word is placed where the next step takes it (log 17). -/

namespace Sys2Proof.Machine

/-- R61, R69: the word in turn of the bundle being issued, or the end of the bundle at a fill word or after word 11. A word that is not
legal takes its decode fault; validation has refused it before. -/
def issueWord (s : State) : Out :=
  let s := { s with unit := s.issue.core }
  match s.issue.words with
  | [] => .next { s with issue := Issue.none }
  | w :: ws =>
    if isFill w then .next { s with issue := Issue.none }
    else
      let rest := if isTwoWord w then ws.drop 1 else ws
      let s := { s with issue := { s.issue with word := 12 - (ws.length + 1), words := rest } }
      match decodeUnit w ws.head? with
      | .ok i => exec i s
      | .error c => .next (takeFault s (trouble c))

/-- Table 18.2: a module without power waits for the start that the return of supply brings. -/
def powerUp (s : State) : Out :=
  match s.inputs.find? fun i => i.event == .start || i.event == .packageReset with
  | some i => runDue (.ev i.unit_ i.event) { s with inputs := s.inputs.filter fun j => j.event != i.event, todo := [] }
  | none => .fault .unpowered

/-- What the machine does next: the word in turn of the bundle being issued, else the step that is due first, else the next part of the
cycle. -/
def nextStep (s : State) : Out :=
  if !s.cur.power.powered then powerUp s
  else if s.issue.active then issueWord s
  else
    match s.todo with
    | d :: rest => runDue d { s with todo := rest }
    | [] => .next (advance s)

/-! ### Placing a word -/

/-- Twelve words of a bundle that begins with the given ones. -/
def bundleFrom (ws : List Word32) : List Word32 := ws ++ List.replicate (12 - ws.length) 0xFFFFFFFF

/-- A bundle of core 0 whose words are in turn. -/
def State.placeBundle (s : State) (ws : List Word32) : State :=
  { s with unit := 0, issue := { Issue.none with active := true, core := 0, words := bundleFrom ws } }

/-- The module with a core changed, at the boundary and now. -/
def State.onBoth (s : State) (f : Sys → Sys) : State := { s with old := f s.old, cur := f s.cur }

/-- A micro-word that core 0's sequencer has in turn, as the first of a routine of its own. -/
def State.placeMicro (s : State) (w : Word) : State :=
  let f := fun (k : Core) =>
    { k with mx := { (k.mx.load 0 0 [w]) with seq := Seq.called' 0 (0, 1) 0 k.mx.params k.csr.qmod k.csr.qinv none } }
  { (s.onBoth fun y => y.setCore 0 (f (y.core 0))) with issue := Issue.none, todo := .mx 0 w :: s.todo }

/-- A memory command that stack 0's compiled timeline has in turn. -/
def State.placeCommand (s : State) (w : Word) : State :=
  let f := fun (x : Stack) => { x with driver := .compiled, prog := x.prog.take x.pos ++ w :: x.prog.drop (x.pos + 1) }
  { (s.onBoth fun y => y.setStk 0 (f (y.stk 0))) with issue := Issue.none, todo := .cmd 0 w :: s.todo }

/-- A word that the issue on pseudo-channel 0 of stack 0 has in turn. -/
def State.placeNear (s : State) (w : Word32) : State :=
  let run : NbRun := { issue := { lg := 0, g0 := 0, start := 0, tick := 0, word := 0 }, s := 0, pc := 0, n := 0, ended := false }
  let f := fun (x : Stack) => x.setPch 0 { x.pch 0 with cur := some run, store := SMap.set nbEndWord (x.pch 0).store 0 w }
  { (s.onBoth fun y => y.setStk 0 (f (y.stk 0))) with issue := Issue.none, todo := .nb 0 w :: s.todo }

/-- An index at core 0's index pointer. -/
def State.placeIndex (s : State) (i : BitVec 16) : State :=
  let f := fun (k : Core) => { k with index := SMap.set 0 k.index k.ip i }
  { (s.onBoth fun y => y.setCore 0 (f (y.core 0))) with issue := Issue.none, todo := .index 0 i :: s.todo }

/-- A word of the opcode table placed where the next step takes it, in the encoding space that `decodeTableWord` reads it in. -/
def State.placeWord (s : State) (nbits w : Nat) : State :=
  let w0 : Word32 := BitVec.ofNat 32 w
  let w1 : Word32 := BitVec.ofNat 32 (w / 2 ^ 32)
  if nbits == 16 then s.placeIndex (BitVec.ofNat 16 w)
  else if nbits == 32 then
    if (decode (.one w0)).isNone && (decode (.nb w0)).isSome then s.placeNear w0
    else s.placeBundle (if isTwoWord w0 then [w0, 0] else [w0])
  else if (decode (.two w0 w1)).isSome then s.placeBundle [w0, w1]
  else if (decode (.mx (BitVec.ofNat 64 w))).isSome then s.placeMicro (BitVec.ofNat 64 w)
  else s.placeCommand (BitVec.ofNat 64 w)

end Sys2Proof.Machine
end

