-- ==== Sys2Proof/Safety.lean ====
section
/-! DEFINITION. What the claims speak of: runs that go on, what a word leaves in flight, and the rules of the manual written out as
functions of the operands, apart from the meanings. -/

namespace Sys2Proof.Machine

/-! ### Runs -/

/-- A state that the machine reaches from another by steps that all answer a next state. -/
inductive Reaches : State → State → Prop where
  | refl (s : State) : Reaches s s
  | step {s t u : State} : Reaches s t → step t = .next u → Reaches s u

/-- A safe run: no step of it stops. The module may take exceptions, which are next states. -/
def Safe (s : State) : Prop := ∀ t, Reaches s t → ∃ u, step t = .next u

/-! ### What a word of a bundle leaves (R66, R71, R73, R104) -/

/-- The state once the word being issued has gone, and its prefix with it: nothing else has changed. -/
def State.consumed (s : State) : State := { s with issue := { s.issue with pfx := none } }

/-- A result of the word being issued: in flight to `d`, readable `lat` cycles later, with its flags (R104, R41). -/
def State.result (s : State) (lat : Nat) (d : Dest) (fl : Flags) : Pending :=
  { land := s.now + lat, issue := s.now, word := s.issue.word, flags := fl, dest := d }

/-- The state in which the word being issued has put results in flight on its core, and has changed nothing else: no register, flag,
status, memory, engine or pc. -/
def State.inFlight (s : State) (ps : List Pending) : State :=
  (s.onMine fun k => { k with pending := k.pending ++ ps }).consumed

/-- The state in which the word being issued has raised a cause (R71, R289): the report, and nothing else. -/
def State.raised (s : State) (e : Trouble) : State := (takeFault s e).consumed

/-- The instructions that stand in a bundle as units of their own: every word but a prefix (R61, R63). -/
def isUnit (i : Instr) : Bool :=
  match i, encode i with
  | .pfx .., _ => false
  | _, some (.one _) => true
  | _, some (.two _ _) => true
  | _, _ => false

/-- The matrix class, whose words take metadata whatever their guard (R68, R75). -/
def isMatrixWord : Instr → Bool
  | .mcall .. | .mova .. | .mseed .. | .mmeta .. | .mpair .. | .mclr .. | .mrtld .. | .mrdac .. | .mwrac .. | .mdrain .. => true
  | _ => false

/-! ### The scalar instructions (R28 to R30, R51, R109 to R112), in exact arithmetic -/

/-- The two's complement reading of a register, and the word of an integer modulo 2^64. -/
def sgn (w : Word) : Int := w.toInt
/-- trunc(x, 64) as a word. -/
def wrap (x : Int) : Word := BitVec.ofInt 64 x

/-- A result with its saturated form at `n` bits (R28): clamped to the signed range with SX when it clamps, else reduced modulo 2^n;
sign-extended to 64 bits. -/
def satRow (sat : Bool) (n : Nat) (x : Int) : Word × Flags :=
  if sat then
    if x < -2 ^ (n - 1) then (wrap (-2 ^ (n - 1)), fSX)
    else if 2 ^ (n - 1) ≤ x then (wrap (2 ^ (n - 1) - 1), fSX)
    else (wrap x, 0)
  else (wrap (Int.bmod x (2 ^ n)), 0)

/-- How many of the `n` lowest numbers satisfy a test. -/
def countBelow (n : Nat) (p : Nat → Bool) : Nat := ((List.range n).filter p).length

/-- A row of Table 5.8 and Table 5.9: latency, destination, result and flags. -/
structure ScalarRow where
  lat   : Nat
  dest  : BitVec 6
  value : Word
  flags : Flags
  deriving DecidableEq, Repr

/-- A row without a saturated form, from an exact result. -/
def row (lat : Nat) (d : BitVec 6) (x : Int) : Option ScalarRow := some ⟨lat, d, wrap x, 0⟩
/-- A row with a saturated form. -/
def rowSat (lat : Nat) (d : BitVec 6) (r : Word × Flags) : Option ScalarRow := some ⟨lat, d, r.1, r.2⟩

/-- Table 5.9, R29, R30, R51, R110 to R112: the result of each scalar instruction that writes a scalar register, with the registers, the
immediate and SAT as the state in turn has them. -/
def scalarRow (s : State) : Instr → Option ScalarRow
  | .add b a d => rowSat 1 d (satRow s.sat 64 (sgn (s.sv a) + sgn (s.sv b)))
  | .sub b a d => rowSat 1 d (satRow s.sat 64 (sgn (s.sv a) - sgn (s.sv b)))
  | .addx b a d => rowSat 1 d (satRow s.sat 32 (Int.bmod (s.sv a).toNat (2 ^ 32) + Int.bmod (s.sv b).toNat (2 ^ 32)))
  | .subx b a d => rowSat 1 d (satRow s.sat 32 (Int.bmod (s.sv a).toNat (2 ^ 32) - Int.bmod (s.sv b).toNat (2 ^ 32)))
  | .and b a d => some ⟨1, d, s.sv a &&& s.sv b, 0⟩
  | .or b a d => some ⟨1, d, s.sv a ||| s.sv b, 0⟩
  | .xor b a d => some ⟨1, d, s.sv a ^^^ s.sv b, 0⟩
  | .andn b a d => some ⟨1, d, s.sv a &&& ~~~(s.sv b), 0⟩
  | .shl b a d => row 1 d ((s.sv a).toNat * 2 ^ ((s.sv b).toNat % 64))
  | .shr b a d => row 1 d ((s.sv a).toNat / 2 ^ ((s.sv b).toNat % 64) : Nat)
  | .sar b a d => row 1 d (Int.fdiv (sgn (s.sv a)) (2 ^ ((s.sv b).toNat % 64)))
  | .rol b a d =>
    let n := (s.sv b).toNat % 64
    row 1 d ((s.sv a).toNat * 2 ^ n % 2 ^ 64 + (s.sv a).toNat / 2 ^ (64 - n) : Nat)
  | .ror b a d =>
    let n := (s.sv b).toNat % 64
    row 1 d ((s.sv a).toNat / 2 ^ n + (s.sv a).toNat * 2 ^ (64 - n) % 2 ^ 64 : Nat)
  | .min b a d => row 1 d (Min.min (sgn (s.sv a)) (sgn (s.sv b)))
  | .max b a d => row 1 d (Max.max (sgn (s.sv a)) (sgn (s.sv b)))
  | .minn b a d => row 1 d (Min.min (s.sv a).toNat (s.sv b).toNat : Nat)
  | .maxn b a d => row 1 d (Max.max (s.sv a).toNat (s.sv b).toNat : Nat)
  | .addi i a d => rowSat 1 d (satRow s.sat 64 (sgn (s.sv a) + s.immS i))
  | .andi i a d => some ⟨1, d, s.sv a &&& wrap (s.immS i), 0⟩
  | .ori i a d => some ⟨1, d, s.sv a ||| wrap (s.immS i), 0⟩
  | .xori i a d => some ⟨1, d, s.sv a ^^^ wrap (s.immS i), 0⟩
  | .shli n a d => row 1 d ((s.sv a).toNat * 2 ^ n.toNat)
  | .shri n a d => row 1 d ((s.sv a).toNat / 2 ^ n.toNat : Nat)
  | .sari n a d => row 1 d (Int.fdiv (sgn (s.sv a)) (2 ^ n.toNat))
  | .mul b a d => rowSat 3 d (satRow s.sat 64 (sgn (s.sv a) * sgn (s.sv b)))
  | .mulh b a d => row 3 d (Int.fdiv (sgn (s.sv a) * sgn (s.sv b)) (2 ^ 64))
  | .mulhn b a d => row 3 d ((s.sv a).toNat * (s.sv b).toNat / 2 ^ 64 : Nat)
  | .divs b a d =>
    if s.sv b = 0 then row 20 d (-1) else rowSat 20 d (satRow s.sat 64 (Int.tdiv (sgn (s.sv a)) (sgn (s.sv b))))
  | .divn b a d => if s.sv b = 0 then row 20 d (2 ^ 64 - 1) else row 20 d ((s.sv a).toNat / (s.sv b).toNat : Nat)
  | .rems b a d =>
    if s.sv b = 0 then row 20 d (sgn (s.sv a)) else row 20 d (Int.tmod (sgn (s.sv a)) (sgn (s.sv b)))
  | .remn b a d => if s.sv b = 0 then row 20 d (s.sv a).toNat else row 20 d ((s.sv a).toNat % (s.sv b).toNat : Nat)
  | .clz a d => row 1 d (countBelow 64 fun k => (s.sv a).toNat / 2 ^ k == 0)
  | .ctz a d => row 1 d (countBelow 64 fun k => (s.sv a).toNat % 2 ^ (k + 1) == 0)
  | .ffs a d => row 1 d (if s.sv a = 0 then 0 else countBelow 64 (fun k => (s.sv a).toNat % 2 ^ (k + 1) == 0) + 1 : Nat)
  | .popc a d => row 1 d (countBelow 64 fun k => (s.sv a).toNat / 2 ^ k % 2 == 1)
  | .extb l p a d => row 1 d ((s.sv a).toNat / 2 ^ p.toNat % 2 ^ (l.toNat + 1) : Nat)
  | .insb l p a d =>
    let x := (s.sv d).toNat
    row 1 d (x % 2 ^ p.toNat + (s.sv a).toNat % 2 ^ (l.toNat + 1) * 2 ^ p.toNat +
      x / 2 ^ (p.toNat + l.toNat + 1) * 2 ^ (p.toNat + l.toNat + 1) : Nat)
  | .movi i d => row 1 d (s.immU i)
  | .movhi i d => row 1 d ((s.sv d).toNat * 2 ^ 30 + s.immU i % 2 ^ 30)
  | .sel p b a d => some ⟨1, d, if s.me.pname p.toNat then s.sv a else s.sv b, 0⟩
  | .mulmod b a d => row 6 d (mulmod s.me.csr.qmod.toNat s.me.csr.qinv.toNat (s.sv a).toNat (s.sv b).toNat : Nat)
  | .addmod b a d => row 6 d (((s.sv a).toNat + (s.sv b).toNat) % s.me.csr.qmod.toNat : Nat)
  | .tagp b a d => row 1 d ((s.sv b).toNat % 2 ^ 10 * 2 ^ 54 + (s.sv a).toNat % 2 ^ 54 : Nat)
  | .csrr c d => some ⟨2, d, s.old.readCsr s.unit c.toNat, 0⟩
  | _ => none

/-- The comparison that a condition code names (Table 4.4). -/
def condRow (c : Nat) (x y : Word) : Bool :=
  match c with
  | 0 => decide (x = y)
  | 1 => decide (x ≠ y)
  | 2 => decide (sgn x < sgn y)
  | 3 => decide (sgn y ≤ sgn x)
  | 4 => decide (x.toNat < y.toNat)
  | _ => decide (y.toNat ≤ x.toNat)

/-- R111: the predicate that an instruction writes, and its value. -/
def predicateRow (s : State) : Instr → Option (BitVec 6 × Bool)
  | .cmp c b a p => some (p, condRow c.toNat (s.sv a) (s.sv b))
  | .cmpi c i a p => some (p, condRow c.toNat (s.sv a) (wrap (s.immS i)))
  | .pand b a d => some (d, s.me.pname a.toNat && s.me.pname b.toNat)
  | .por b a d => some (d, s.me.pname a.toNat || s.me.pname b.toNat)
  | .pxor b a d => some (d, s.me.pname a.toNat != s.me.pname b.toNat)
  | .pnot a d => some (d, !s.me.pname a.toNat)
  | _ => none

/-! ### Draws (R40, R66) -/

/-- R40: the draws of a word: with `sr`, one value per lane in ascending order, else zeros. -/
def State.drawsOf (s : State) (n : Option Nat) (e : Nat) : Nat :=
  match n with
  | some n => if s.rm = 5 then (draws s.mine.csr.seed n).1.getD e 0 else 0
  | none => 0

/-- R40: the state once the draws of a word have been taken. -/
def State.seeded (s : State) (n : Option Nat) : State :=
  match n with
  | some n => if s.rm = 5 then s.onMine fun k => { k with csr := { k.csr with seed := (draws s.mine.csr.seed n).2 } } else s
  | none => s

/-- R40, R66: the element positions whose results a word rounds, at each of which it takes a draw under `sr`: none of a word that rounds
nothing. VCVT rounds unless both its formats are integers, also where it only widens, and MDRAIN rounds all rows but `.n64` ones (log 34). -/
def roundedElems (s : State) : Instr → Option Nat
  | .vadd _ _ _ f | .vsub _ _ _ f | .vmul _ _ _ f | .vaddMasked _ _ _ f _ _ | .vsubMasked _ _ _ f _ _ | .vmulMasked _ _ _ f _ _ =>
    if isFl f.toNat then some (4096 / fmtWidth f.toNat) else none
  | .vfma _ _ _ f | .vfms _ _ _ f | .vfmaMasked _ _ _ f _ _ | .vfmsMasked _ _ _ f _ _ => some (4096 / fmtWidth f.toNat)
  | .vexp2 _ _ f | .vlog2 _ _ f | .vrcp _ _ f | .vrsq _ _ f | .vsqrt _ _ f | .vtanh _ _ f | .vsigm _ _ f => some (4096 / fmtWidth f.toNat)
  | .vexp2Masked _ _ f _ _ | .vlog2Masked _ _ f _ _ | .vrcpMasked _ _ f _ _ | .vrsqMasked _ _ f _ _ | .vsqrtMasked _ _ f _ _
  | .vtanhMasked _ _ f _ _ | .vsigmMasked _ _ f _ _ => some (4096 / fmtWidth f.toNat)
  | .vcvt g _ _ f | .vcvtMasked g _ _ f _ _ =>
    if isIn g.toNat && isIn f.toNat then none else some (4096 / Nat.min (fmtWidth g.toNat) (fmtWidth f.toNat))
  | .vqnt _ _ _ f | .vqntMasked _ _ _ f _ _ => some (4096 / fmtWidth f.toNat)
  | .vdqnt g _ _ _ | .vdqntMasked g _ _ _ _ _ => some (4096 / fmtWidth g.toNat)
  | .vred o _ _ _ f => if o = 0 ∧ isFl f.toNat = true then some (4096 / fmtWidth f.toNat) else none
  | .vst o a _ =>
    let b := s.me.bfmtAt ((s.vecEa o a).toNat % 2 ^ 21)
    some (if b.widening then 4096 / fmtWidth b.tf else 0)
  | .mdrain b _ _ _ => if (s.sv b).toNat / 4096 % 4 = 2 then none else some (128 * ((s.sv b).toNat % 2048 + 1))
  | _ => none

/-! ### Vector results lane by lane (R130 to R164) -/

/-- Lane `e` of a vector of lanes of `w` bits. -/
def laneOf (w : Nat) (v : Vec) (e : Nat) : Nat := (v.extractLsb' (w * e) w).toNat
/-- Lane `e` of the register that a name has in turn. -/
def State.lane (s : State) (w name e : Nat) : Nat := laneOf w (s.me.vname name) e
/-- Lane `e` of a group of registers that is based at a name, lanes running on from one register to the next (R130). -/
def State.groupLane (s : State) (w name e : Nat) : Nat := s.lane w (name + e / (4096 / w)) (e % (4096 / w))

/-- What a vector instruction writes: latency, the name that its group of `regs` registers is based at, the width of a lane, the draws
it takes under `sr` (none if it rounds nothing), the lanes it writes, whether the others become zero (ZM) or stay, and the value and
flags of each lane from its draw. -/
structure LaneRow where
  lat   : Nat
  dest  : Nat
  regs  : Nat
  width : Nat
  draws : Option Nat
  on    : Nat → Bool
  zm    : Bool
  lane  : (Nat → Nat) → Nat → Nat × Flags

/-- The flags of the lanes that an instruction writes (R41, R135). -/
def LaneRow.flags (r : LaneRow) (u : Nat → Nat) : Flags :=
  (List.range (r.regs * (4096 / r.width))).foldl (fun fl e => if r.on e then fl ||| (r.lane u e).2 else fl) 0

/-- What the results in flight `ps` of a vector instruction are: one for each register of its group, in the physical register named at
issue; when it lands, each lane it writes takes its value, and each other lane becomes zero under ZM and stays otherwise (R135, R136).
The flags are those of the lanes written. -/
def LaneRow.are (r : LaneRow) (s : State) (ps : List Pending) : Prop :=
  ps.length = r.regs ∧
  ∀ j < r.regs, ∃ v map : Vec,
    ps[j]? = some (s.result r.lat (.vector (s.me.physv (r.dest + j)) v map) (if j = 0 then r.flags (s.drawsOf r.draws) else 0)) ∧
    ∀ old : Vec, ∀ e < 4096 / r.width,
      laneOf r.width ((old &&& ~~~map) ||| (v &&& map)) e =
        if r.on (j * (4096 / r.width) + e) then (r.lane (s.drawsOf r.draws) (j * (4096 / r.width) + e)).1
        else if r.zm then 0 else laneOf r.width old e

/-- R134: the lanes of an operation of `n` lanes that a mask selects. -/
def State.maskOn (s : State) (k : BitVec 4) (n e : Nat) : Bool := (s.me.kreg k.toNat).getLsbD (if n ≤ 512 then e else e / 2)

/-- A row of one register whose every lane is written. -/
def lanes (lat : Nat) (d : BitVec 6) (w : Nat) (draws : Option Nat) (lane : (Nat → Nat) → Nat → Nat × Flags) : Option LaneRow :=
  some { lat := lat, dest := d.toNat, regs := 1, width := w, draws := draws, on := fun _ => true, zm := false, lane := lane }

/-- The same row under a mask (R134, R135). -/
def LaneRow.under (r : LaneRow) (s : State) (k : BitVec 4) (zm : BitVec 1) : LaneRow :=
  { r with on := fun e => r.on e && s.maskOn k (r.regs * (4096 / r.width)) e, zm := zm == 1 }

/-- R142, R143: lane `e` of an arithmetic instruction: the operation on the lanes of its two sources and of its old destination. -/
def arithLanes (s : State) (op : ElemOp) (rounds : Bool) (lat : Nat) (b a d f : BitVec 6) : Option LaneRow :=
  let w := fmtWidth f.toNat
  lanes lat d w (if rounds then some (4096 / w) else none) fun u e =>
    op s.rm s.sat (u e) (s.lane w a.toNat e) (s.lane w b.toNat e) (s.lane w d.toNat e)

/-- R138: four cycles for a floating format, three for an integer format. -/
def formatLat (f : BitVec 6) : Nat := if isFl f.toNat then 4 else 3

/-- R28, R37, R143: an operation that is exact integer arithmetic on an integer format, and one rounding of the exact result on a
floating format. -/
def elemOf (f : Nat) (int : Int → Int → Int) (float : Nat → FVal → FVal → FVal × Flags) : ElemOp := fun mode sat u x y _ =>
  if isFl f then rounded f mode sat u (float mode (decodeF f x) (decodeF f y)) else intResult f sat (int (intVal f x) (intVal f y))

/-- The greater or the lesser of two elements: by R34 on a floating format. -/
def pickElem (isMax : Bool) (f : Nat) : ElemOp := fun _ _ _ x y _ =>
  if isFl f then fMinMax isMax f x y
  else (if (if isMax then intVal f y ≤ intVal f x else intVal f x ≤ intVal f y) then x else y, 0)

/-- The elementwise arithmetic of one-word forms (R143). -/
def arithRow (s : State) : Instr → Option LaneRow
  | .vadd b a d f => arithLanes s (elemOf f.toNat (· + ·) fAdd) (isFl f.toNat) (formatLat f) b a d f
  | .vsub b a d f => arithLanes s (elemOf f.toNat (· - ·) fun m x y => fAdd m x y.negate) (isFl f.toNat) (formatLat f) b a d f
  | .vmul b a d f => arithLanes s (elemOf f.toNat (· * ·) fun _ x y => fMul x y) (isFl f.toNat) (formatLat f) b a d f
  | .vmin b a d f => arithLanes s (pickElem false f.toNat) false (formatLat f) b a d f
  | .vmax b a d f => arithLanes s (pickElem true f.toNat) false (formatLat f) b a d f
  | .vfma b a d f => arithLanes s (fun m t u x y z => rounded f.toNat m t u (fFma m (decodeF f.toNat x) (decodeF f.toNat y) (decodeF f.toNat z)))
      true 5 b a d f
  | .vfms b a d f => arithLanes s (fun m t u x y z =>
      rounded f.toNat m t u (fFma m (decodeF f.toNat x) (decodeF f.toNat y) (decodeF f.toNat z).negate)) true 5 b a d f
  | _ => none

/-- Lane `e` of a unary instruction. -/
def unaryLanes (s : State) (op : Nat → Bool → Nat → Nat → Nat × Flags) (rounds : Bool) (lat : Nat) (a d f : BitVec 6) :
    Option LaneRow :=
  let w := fmtWidth f.toNat
  lanes lat d w (if rounds then some (4096 / w) else none) fun u e => op s.rm s.sat (u e) (s.lane w a.toNat e)

/-- Table 6.5: the result of a transcendental on a special operand, with its flags: a NaN, an infinity, a zero, a negative number where
the function has none, and 1 for VLOG2. -/
def transSpecial (t : Trans) : FVal → Option (FVal × Flags)
  | .nan s => some (.nan false, if s then fNV else 0)
  | .inf true => some (match t with
    | .exp2 => (.fin false 0 0, 0) | .log2 => (.nan false, fNV) | .rcp => (.fin true 0 0, 0) | .rsq => (.nan false, fNV)
    | .sqrt => (.nan false, fNV) | .tanh => (.fin true 1 0, 0) | .sigm => (.fin false 0 0, 0))
  | .inf false => some (match t with
    | .exp2 => (.inf false, 0) | .log2 => (.inf false, 0) | .rcp => (.fin false 0 0, 0) | .rsq => (.fin false 0 0, 0)
    | .sqrt => (.inf false, 0) | .tanh => (.fin false 1 0, 0) | .sigm => (.fin false 1 0, 0))
  | .fin n 0 _ => some (match t with
    | .exp2 => (.fin false 1 0, 0) | .log2 => (.inf true, fDZ) | .rcp => (.inf n, fDZ) | .rsq => (.inf n, fDZ)
    | .sqrt => (.fin n 0 0, 0) | .tanh => (.fin n 0 0, 0) | .sigm => (.fin false 1 (-1), 0))
  | .fin true (_ + 1) _ => match t with
    | .log2 => some (.nan false, fNV) | .rsq => some (.nan false, fNV) | .sqrt => some (.nan false, fNV) | _ => none
  | .fin false (m + 1) e => if t = .log2 ∧ e ≤ 0 ∧ m + 1 = 2 ^ (-e).toNat then some (.fin false 0 0, 0) else none

/-- A special result as an element: under SAT an infinity becomes the largest finite value of its sign, with SX (R146). -/
def specialLane (f : Nat) (sat : Bool) (r : FVal × Flags) : Nat × Flags :=
  match r.1 with
  | .nan _ => (canonNaN f, r.2)
  | .inf n => if sat then (withSign f n (maxFinite f), r.2 ||| fSX) else (withSign f n (infPattern f), r.2)
  | v => ((roundVal f 0 false 0 v).1, r.2)

/-- R146: the correctly rounded value of a function on every lane, and on a special operand the result of Table 6.5. -/
def transLanes (s : State) (t : Trans) (a d f : BitVec 6) : Option LaneRow :=
  unaryLanes s (fun m sat u x =>
    match transSpecial t (decodeF f.toNat x) with
    | some r => specialLane f.toNat sat r
    | none => transVal t f.toNat m sat u (decodeF f.toNat x)) true 10 a d f

/-- R145: a floating element with its sign bit changed; a NaN gives the canonical NaN, and a signaling one NV. -/
def signLane (f : Nat) (sign : Bool → Bool) (x : Nat) : Nat × Flags :=
  let h := 2 ^ (fmtWidth f - 1)
  match decodeF f x with
  | .nan sg => (canonNaN f, if sg then fNV else 0)
  | _ => ((if sign (x / h == 1) then h else 0) + x % h, 0)

/-- The unary operations of one-word forms (R30, R145, R146). -/
def unaryRow (s : State) : Instr → Option LaneRow
  | .vabs a d f => unaryLanes s (fun _ sat _ x =>
      if isFl f.toNat then signLane f.toNat (fun _ => false) x else intResult f.toNat sat (intVal f.toNat x).natAbs) false 3 a d f
  | .vneg a d f => unaryLanes s (fun _ sat _ x =>
      if isFl f.toNat then signLane f.toNat not x else intResult f.toNat sat (-(intVal f.toNat x))) false 3 a d f
  | .vexp2 a d f => transLanes s .exp2 a d f
  | .vlog2 a d f => transLanes s .log2 a d f
  | .vrcp a d f => transLanes s .rcp a d f
  | .vrsq a d f => transLanes s .rsq a d f
  | .vsqrt a d f => transLanes s .sqrt a d f
  | .vtanh a d f => transLanes s .tanh a d f
  | .vsigm a d f => transLanes s .sigm a d f
  | .vnot a d f => unaryLanes s (fun _ _ _ x => (2 ^ fmtWidth f.toNat - 1 - x, 0)) false 3 a d f
  | .vclz a d f => unaryLanes s (fun _ _ _ x => (countBelow (fmtWidth f.toNat) fun k => x / 2 ^ k == 0, 0)) false 3 a d f
  | .vffs a d f => unaryLanes s (fun _ _ _ x =>
      (if x = 0 then 0 else countBelow (fmtWidth f.toNat) (fun k => x % 2 ^ (k + 1) == 0) + 1, 0)) false 3 a d f
  | .vpopc a d f => unaryLanes s (fun _ _ _ x => (countBelow (fmtWidth f.toNat) fun k => x / 2 ^ k % 2 == 1, 0)) false 3 a d f
  | _ => none

/-- Lane `e` of an operation on the bits of two lanes. -/
def bitLanes (s : State) (op : Nat → Nat → Nat → Nat) (b a d : BitVec 6) (w : BitVec 3) : Option LaneRow :=
  let n := 8 * 2 ^ (w.toNat % 4)
  lanes 3 d n none fun _ e => (op n (s.lane n a.toNat e) (s.lane n b.toNat e), 0)

/-- Logic and shifts (R147), modular arithmetic (R163), selection (R149) and rearrangement (R155 to R157), in one-word forms. -/
def bitsRow (s : State) : Instr → Option LaneRow
  | .vand b a d w => bitLanes s (fun _ x y => x &&& y) b a d w
  | .vor b a d w => bitLanes s (fun _ x y => x ||| y) b a d w
  | .vxor b a d w => bitLanes s (fun _ x y => x ^^^ y) b a d w
  | .vshl b a d w => bitLanes s (fun n x y => x * 2 ^ (y % n) % 2 ^ n) b a d w
  | .vshr b a d w => bitLanes s (fun n x y => x / 2 ^ (y % n)) b a d w
  | .vsar b a d w => bitLanes s (fun n x y => (Int.fdiv (Int.bmod x (2 ^ n)) (2 ^ (y % n)) % 2 ^ n).toNat) b a d w
  | _ => none

/-- The one-word form of a masked instruction, with its mask and ZM (R78, R135). -/
def unmasked : Instr → Option (Instr × BitVec 4 × BitVec 1)
  | .vaddMasked b a d f k zm => some (.vadd b a d f, k, zm)
  | .vmulMasked b a d f k zm => some (.vmul b a d f, k, zm)
  | .vsubMasked b a d f k zm => some (.vsub b a d f, k, zm)
  | .vminMasked b a d f k zm => some (.vmin b a d f, k, zm)
  | .vmaxMasked b a d f k zm => some (.vmax b a d f, k, zm)
  | .vfmaMasked b a d f k zm => some (.vfma b a d f, k, zm)
  | .vfmsMasked b a d f k zm => some (.vfms b a d f, k, zm)
  | .vabsMasked a d f k zm => some (.vabs a d f, k, zm)
  | .vnegMasked a d f k zm => some (.vneg a d f, k, zm)
  | .vexp2Masked a d f k zm => some (.vexp2 a d f, k, zm)
  | .vlog2Masked a d f k zm => some (.vlog2 a d f, k, zm)
  | .vrcpMasked a d f k zm => some (.vrcp a d f, k, zm)
  | .vrsqMasked a d f k zm => some (.vrsq a d f, k, zm)
  | .vsqrtMasked a d f k zm => some (.vsqrt a d f, k, zm)
  | .vtanhMasked a d f k zm => some (.vtanh a d f, k, zm)
  | .vsigmMasked a d f k zm => some (.vsigm a d f, k, zm)
  | .vnotMasked a d f k zm => some (.vnot a d f, k, zm)
  | .vclzMasked a d f k zm => some (.vclz a d f, k, zm)
  | .vffsMasked a d f k zm => some (.vffs a d f, k, zm)
  | .vpopcMasked a d f k zm => some (.vpopc a d f, k, zm)
  | .vandMasked b a d w k zm => some (.vand b a d w, k, zm)
  | .vorMasked b a d w k zm => some (.vor b a d w, k, zm)
  | .vxorMasked b a d w k zm => some (.vxor b a d w, k, zm)
  | .vshlMasked b a d w k zm => some (.vshl b a d w, k, zm)
  | .vshrMasked b a d w k zm => some (.vshr b a d w, k, zm)
  | .vsarMasked b a d w k zm => some (.vsar b a d w, k, zm)
  | .vcvtMasked sf a d f k zm => some (.vcvt sf a d f, k, zm)
  | .vdqntMasked sf a d f k zm => some (.vdqnt sf a d f, k, zm)
  | _ => none

/-- A row of a pair of registers that lands seven cycles later (R164): sums in the first, differences in the second. -/
def pairLanes (d : BitVec 5) (lo hi : Nat → Nat) : Option LaneRow :=
  some { lat := 7, dest := 2 * d.toNat, regs := 2, width := 64, draws := none, on := fun _ => true, zm := false,
         lane := fun _ e => (if e < 64 then lo e else hi (e - 64), 0) }

/-- Modular arithmetic and the butterflies (R51, R163, R164), with q of QMOD and QINV as they stand at issue. A sum is taken modulo 2^64
besides, which changes it for no q but zero. -/
def modularRow (s : State) : Instr → Option LaneRow
  | .vaddmod b a d => lanes 7 d 64 none fun _ e => ((s.lane 64 a.toNat e + s.lane 64 b.toNat e) % s.me.csr.qmod.toNat % 2 ^ 64, 0)
  | .vsubmod b a d => lanes 7 d 64 none fun _ e =>
      (((s.lane 64 a.toNat e : Int) - s.lane 64 b.toNat e).emod s.me.csr.qmod.toNat |>.toNat, 0)
  | .vmulmod b a d => lanes 7 d 64 none fun _ e =>
      (mulmod s.me.csr.qmod.toNat s.me.csr.qinv.toNat (s.lane 64 a.toNat e) (s.lane 64 b.toNat e), 0)
  | .vbfly b a d =>
      let t := fun e => mulmod s.me.csr.qmod.toNat s.me.csr.qinv.toNat (s.lane 64 (2 * b.toNat + 1) e) (s.lane 64 a.toNat e)
      pairLanes d (fun e => addmod s.me.csr.qmod.toNat (s.lane 64 (2 * b.toNat) e) (t e) % 2 ^ 64)
        (fun e => submod s.me.csr.qmod.toNat (s.lane 64 (2 * b.toNat) e) (t e))
  | .vibfly b a d =>
      let x := s.lane 64 (2 * b.toNat)
      let y := s.lane 64 (2 * b.toNat + 1)
      pairLanes d (fun e => addmod s.me.csr.qmod.toNat (x e) (y e) % 2 ^ 64) fun e =>
        mulmod s.me.csr.qmod.toNat s.me.csr.qinv.toNat (submod s.me.csr.qmod.toNat (x e) (y e)) (s.lane 64 a.toNat e)
  | _ => none

/-- ROWS of VSH, by which a register of `n` lanes has C = n / ROWS columns (R131). -/
def State.rows (s : State) : Nat := s.me.csr.vsh.toNat % 128

/-- R154: what VRED makes of a list of lanes. -/
def reduced (o : BitVec 2) (f : Nat) (mode : Nat) (sat : Bool) (u : Nat) (xs : List Nat) : Nat × Flags :=
  reduce o.toNat f mode sat u xs

/-- Selection, rearrangement and reduction (R149, R154 to R157). -/
def moveRow (s : State) : Instr → Option LaneRow
  | .vsel b a d k w =>
      let n := 8 * 2 ^ w.toNat
      lanes 3 d n none fun _ e => (if (s.me.kreg k.toNat).getLsbD e then s.lane n a.toNat e else s.lane n b.toNat e, 0)
  | .vtrn a d w =>
      let n := 8 * 2 ^ (w.toNat % 4)
      lanes 3 d n none fun _ e => (s.lane n a.toNat (e % s.rows * (4096 / n / s.rows) + e / s.rows), 0)
  | .vshuf b a d w =>
      let n := 8 * 2 ^ (w.toNat % 4)
      lanes 3 d n none fun _ e =>
        let i := s.lane n b.toNat e
        (s.lane n a.toNat (if n = 8 then 256 * (e / 256) + i else i % (4096 / n)), 0)
  | .vbcst a d w => let n := 8 * 2 ^ (w.toNat % 4); lanes 3 d n none fun _ _ => ((s.sv a).toNat % 2 ^ n, 0)
  | .vins b a d w =>
      let n := 8 * 2 ^ (w.toNat % 4)
      some { lat := 3, dest := d.toNat, regs := 1, width := n, draws := none, on := fun e => e == (s.sv b).toNat % (4096 / n),
             zm := false, lane := fun _ _ => ((s.sv a).toNat % 2 ^ n, 0) }
  | .vred o m a d f =>
      let w := fmtWidth f.toNat
      let n := 4096 / w
      lanes (formatLat f) d w (if o == 0 && isFl f.toNat then some n else none) fun u e =>
        if m = 0 then
          if e < s.rows then
            reduced o f.toNat s.rm s.sat (u e) ((List.range (n / s.rows)).map fun c => s.lane w a.toNat (e * (n / s.rows) + c))
          else (0, 0)
        else
          if e < n / s.rows then
            reduced o f.toNat s.rm s.sat (u e) ((List.range s.rows).map fun r => s.lane w a.toNat (r * (n / s.rows) + e))
          else (0, 0)
  | _ => none

/-- R152: the number of the block that lane `e` of `n` lies in: blocks of 32 columns, along the rows. -/
def State.blockNo (s : State) (n e : Nat) : Nat :=
  let cols := n / s.rows
  e / cols * ((cols + 31) / 32) + e % cols / 32

/-- Conversions between formats (R150, R151, R153): lane `e` of the destination group from lane `e` of the source group. (The lanes of
VDQNT are all n, for every ROWS that VSH takes.) -/
def convertRow (s : State) : Instr → Option LaneRow
  | .vcvt sf a d f =>
      let ws := fmtWidth sf.toNat
      let wd := fmtWidth f.toNat
      let n := 4096 / Nat.min ws wd
      let ints := isIn sf.toNat && isIn f.toNat
      some { lat := if ints then 3 else 4, dest := d.toNat, regs := n * wd / 4096, width := wd, draws := if ints then none else some n,
             on := fun _ => true, zm := false,
             lane := fun u e => cvtElem sf.toNat f.toNat s.rm s.sat (u e) (s.groupLane ws a.toNat e) }
  | .vdqnt sf a d f =>
      let ws := fmtWidth sf.toNat
      let wd := fmtWidth f.toNat
      let n := 4096 / ws
      some { lat := 4, dest := d.toNat, regs := wd / ws, width := wd, draws := some n,
             on := fun e => e < s.rows * (n / s.rows), zm := false,
             lane := fun u e => roundVal f.toNat s.rm s.sat (u e)
               (decodeScaled sf.toNat (s.lane ws a.toNat e) (s.lane 8 (a.toNat + 1) (s.blockNo n e))) }
  | _ => none

/-- The rows of every vector instruction above, in either form. -/
def oneWordRow (s : State) (i : Instr) : Option LaneRow :=
  (arithRow s i).or ((unaryRow s i).or ((bitsRow s i).or (convertRow s i)))

/-- R148: the comparison that a condition of VCMP names, on two elements of a format. -/
def laneCompares (c f x y : Nat) : Bool :=
  if isFl f then
    let p := decodeF f x
    let q := decodeF f y
    if p.isNaN || q.isNaN then c == 1 || c == 6
    else match c with
      | 0 => !fLt p q && !fLt q p
      | 1 => fLt p q || fLt q p
      | 2 => fLt p q
      | 3 => !fLt q p
      | 4 => fLt q p
      | 5 => !fLt p q
      | _ => false
  else match c with
    | 0 => decide (intVal f x = intVal f y)
    | 1 => decide (intVal f x ≠ intVal f y)
    | 2 => decide (intVal f x < intVal f y)
    | 3 => decide (intVal f x ≤ intVal f y)
    | 4 => decide (intVal f y < intVal f x)
    | _ => decide (intVal f y ≤ intVal f x)

/-! ### Addresses and accesses (R113 to R118, R160, R281) -/

/-- R114: the cause that the first failing check of a scratchpad address raises, for an alignment. -/
def scratchCause (core align : Nat) (ea : Word) : Option Nat :=
  if ea.toNat / 2 ^ 61 ≠ 1 then some 0x32
  else if ea.toNat / 2 ^ 54 % 128 ≠ core / 8 ∧ ea.toNat / 2 ^ 54 % 128 ≠ 127 then some 0x32
  else if ea.toNat / 2 ^ 21 % 2 ^ 33 ≠ 0 then some 0x32
  else if ea.toNat % align ≠ 0 then some 0x33
  else none

/-- What an instruction that issues a service access issues, from the registers at issue. -/
structure AccessRow where
  kind  : AccessKind
  store : Bool
  lp    : Option Word
  ea    : Word
  size  : Nat
  width : Nat
  data  : Word
  data2 : Word
  acq   : Bool
  rel   : Bool

/-- R281: an atomic: the landing pointer of D, the address of A, the operand of B, and the ordering bits. -/
def atomicRow (s : State) (kind : AccessKind) (b b1 : Word) (a d : BitVec 6) (o : BitVec 2) : Option AccessRow :=
  some { kind := kind, store := true, lp := some (s.sv d), ea := s.sv a, size := 8, width := 3, data := b, data2 := b1,
         acq := o.toNat % 2 == 1, rel := o.toNat / 2 == 1 }

/-- R113, R114, R118, R281: the accesses of the scalar-memory and atomic forms. -/
def accessRow (s : State) : Instr → Option AccessRow
  | .ldg i o w a d =>
    some { kind := .load, store := false, lp := some (s.sv d), ea := wrap (sgn (s.sv a) + s.immS i * 2 ^ (w.toNat % 4)),
           size := 2 ^ (w.toNat % 4), width := w.toNat, data := 0, data2 := 0, acq := o == 1, rel := false }
  | .stg i o w a d =>
    some { kind := .store, store := true, lp := none, ea := wrap (sgn (s.sv a) + s.immS i * 2 ^ (w.toNat % 4)),
           size := 2 ^ (w.toNat % 4), width := w.toNat, data := s.sv d, data2 := 0, acq := false, rel := o == 1 }
  | .aadd b a d o => atomicRow s .aadd (s.sv b) 0 a d o
  | .amin b a d o => atomicRow s .amin (s.sv b) 0 a d o
  | .amax b a d o => atomicRow s .amax (s.sv b) 0 a d o
  | .aand b a d o => atomicRow s .aand (s.sv b) 0 a d o
  | .aor b a d o => atomicRow s .aor (s.sv b) 0 a d o
  | .axor b a d o => atomicRow s .axor (s.sv b) 0 a d o
  | .axchg b a d o => atomicRow s .axchg (s.sv b) 0 a d o
  | .acas b a d o => atomicRow s .acas (s.me.sreg (2 * b.toNat)) (s.me.sreg (2 * b.toNat + 1)) a d o
  | _ => none

/-- The state in which the core in turn has sent an access: it waits in the module's list, OUTST.COUNT and the count of the bundle's
accesses have risen by one, and the translation it used is in the core's own TLB (R118, R355). -/
def State.sends (s : State) (a : Access) (e : Option TlbEntry) : State :=
  let t := s.onCur fun y =>
    let y := { y with accesses := y.accesses ++ [a], nextId := y.nextId + 1 }
    match e with
    | some e => y.refill s.unit e
    | none => y
  let t := t.onMine fun k => { k with csr := { k.csr with outst := k.csr.outst + 1 } }
  { t with issue := { t.issue with sent := t.issue.sent + 1 } }

/-! ### Results that are due (R105, R106, R123) -/

/-- The first register result or LOOPB write of a kind among those that land in the cycle of the core in turn. -/
def State.firstDue (s : State) (f : Dest → Bool) : Option Pending :=
  (s.mine.due (s.cur.gn s.unit) fun d => d.isRegister || d.isLoopb).find? fun p => f p.dest

/-- The first store of a kind that performs in the cycle of the core in turn. -/
def State.firstStore (s : State) (code : Nat) : Option Pending :=
  s.mine.pending.find? fun p => p.land == s.cur.gn s.unit && (match p.dest with | .store _ _ c => c == code | _ => false)

/-- R172: the cause that the first failing check of an accumulator pointer of `n` bytes raises, for an alignment. -/
def accCause (core align n : Nat) (ea : Word) : Option Nat :=
  if ea.toNat / 2 ^ 61 ≠ 2 then some 0x32
  else if ea.toNat / 2 ^ 54 % 128 ≠ core / 8 ∧ ea.toNat / 2 ^ 54 % 128 ≠ 127 then some 0x32
  else if ea.toNat / 2 ^ 20 % 2 ^ 34 ≠ 0 then some 0x32
  else if 2 ^ 20 < ea.toNat % 2 ^ 20 + n then some 0x32
  else if ea.toNat % 2 ^ 20 % align ≠ 0 then some 0x33
  else none

/-! ### Memory commands (R237 to R264) -/

/-- The first rule of a list that does not hold: its cause and its rule code (Tables 9.4, 11.5b). -/
def firstBroken (l : List (Bool × Nat × Nat)) : Option (Nat × Nat) := (l.find? fun r => !r.1).map (·.2)

/-- R239: the state in which a command has broken a rule: the fault of its stack, with the tick below cause 0x40 (Table 11.5), and the
stack with the hold timeline. The command itself has changed nothing. -/
def State.broke (s : State) (cause code p word : Nat) : State :=
  (stackFault s cause [stackDetail s.unit p code, word, if cause < 0x40 then s.stack.tick else 0] s.stack.tick).onStack fun x => x.takenBy .hold (2 * s.cur.hub + 2)

/-- The state in which a command has taken effect on one pseudo-channel of its stack. -/
def State.commanded (s : State) (p : Nat) (f : Pch → Pch) : State := s.onStack fun x => { x.setPch p (f (x.pch p)) with seam := none }

/-- Nothing occupies the pseudo-channel at a tick (R246, R247, R256, R263). -/
def Pch.idleAt (c : Pch) (w : Nat) : Bool := c.busy.all fun b => decide (b.1 ≤ w)
/-- A layer group steps at the pseudo-channel: an issue of it runs or waits (R264). -/
def Pch.stepsIn (c : Pch) (lg : Nat) : Bool := (c.cur.any fun r => r.issue.lg == lg) || c.queue.any fun i => i.lg == lg
/-- No issue runs or waits. -/
def Pch.noIssue (c : Pch) : Bool := c.cur.isNone && c.queue.isEmpty
/-- At least `d` ticks have passed since an event, if there was one. -/
def since (w d : Nat) (t : Option Nat) : Bool := t.all fun t => decide (t + d ≤ w)
/-- Whether a bank is open, or refreshes at a tick. -/
def Bank.opened (k : Bank) : Bool := match k.mode with | .opened _ => true | _ => false
/-- Whether a bank refreshes at a tick. -/
def Bank.inRefresh (k : Bank) (w : Nat) : Bool := match k.mode with | .refreshing e => decide (w < e) | _ => false

/-- R243, R264: the rules on the activations of the last 32 ticks: tRRD to another bank group and to the same one, tFAW, and the power
window beside near-bank work. -/
def actRules (c : Pch) (w b : Nat) : List (Bool × Nat × Nat) :=
  let l := c.acts.filter fun a => decide (w < a.1 + 32)
  [(l.all fun a => decide (a.2 = b / 4 ∨ a.1 + 4 ≤ w), 0x23, 5), (l.all fun a => decide (a.2 ≠ b / 4 ∨ a.1 + 6 ≤ w), 0x23, 6),
   (decide (l.length < 4), 0x23, 7), (c.noIssue || decide (l.length < 2), 0x23, 42)]

/-- R247: banks are precharged, which a bank is from the tick after its PRE on (Table 9.1), with tRP elapsed. -/
def quietRules (c : Pch) (w : Nat) (bs : List Nat) : List (Bool × Nat × Nat) :=
  [(bs.all fun b => !(c.bank b).opened && !(c.bank b).inRefresh w && (c.bank b).pre != some w, 0x21, 33), (bs.all fun b => since w 28 (c.bank b).pre, 0x22, 3)]

/-- R240, R243, R244: the rules of a column command on a bank. -/
def columnRules (c : Pch) (w b : Nat) (read : Bool) : List (Bool × Nat × Nat) :=
  [(c.colCmd != some w, 0x27, 38), (c.idleAt w, 0x27, 37), (!c.stepsIn (b / 16), 0x28, 39), ((c.bank b).opened, 0x21, 33),
   (c.lturn.isNone, 0x25, 35), (read || decide (c.split ≠ 0), 0x25, 34), (since w 28 (c.bank b).act, 0x22, 1),
   (c.cols.all fun x => decide (x.2.1 = b / 4 ∨ x.1 + 2 ≤ w), 0x25, 8), (c.cols.all fun x => decide (x.2.1 ≠ b / 4 ∨ x.1 + 4 ≤ w), 0x25, 9),
   if read then (c.cols.all fun x => decide (x.2.2 = false ∨ x.1 + tBLR c.split ≤ w), 0x25, 10)
   else (c.cols.all fun x => decide (x.2.2 = true ∨ x.1 + (tBLW c.split).getD 0 ≤ w), 0x25, 11)]

/-- R243: tRAS, tRTP and tWR of a bank. -/
def closeRules (k : Bank) (w : Nat) : List (Bool × Nat × Nat) :=
  [(since w 64 k.act, 0x22, 2), (since w 8 k.rdl, 0x22, 14), (since w 34 k.wrlEnd, 0x22, 15)]

/-- R247, R256: the rules at which a window opens on a pseudo-channel. -/
def openRules (c : Pch) (w : Nat) : List (Bool × Nat × Nat) :=
  [(c.idleAt w, 0x27, 37), (c.noIssue, 0x28, 39), (c.lturn.isNone, 0x25, 35)] ++ quietRules c w (List.range 64)

/-- The rules of each row-class command but PREA, after R238's own: a command of one pseudo-channel. -/
def rowRules (c : Pch) (w : Nat) : Instr → List (Bool × Nat × Nat)
  | .act _ b _ => [(c.idleAt w, 0x27, 37), (!c.stepsIn (b.toNat / 16), 0x28, 39), (since w 180 (c.bank b.toNat).refpb, 0x22, 17),
      (!(c.bank b.toNat).opened, 0x21, 33), (since w 28 (c.bank b.toNat).pre, 0x22, 3), (since w 92 (c.bank b.toNat).act, 0x22, 4)] ++
      actRules c w b.toNat
  | .pre _ b => [(c.idleAt w, 0x27, 37), (!c.stepsIn (b.toNat / 16), 0x28, 39), (since w 180 (c.bank b.toNat).refpb, 0x22, 17)] ++
      (if (c.bank b.toNat).opened then closeRules (c.bank b.toNat) w else [])
  | .prea _ => [(c.idleAt w, 0x27, 37), (c.noIssue, 0x28, 39)] ++
      ((List.range 64).filter fun b => (c.bank b).opened).flatMap fun b => closeRules (c.bank b) w
  | .refab _ => [(c.idleAt w, 0x27, 37), (c.noIssue, 0x28, 39)] ++ quietRules c w (List.range 64)
  | .refpb _ b => [(c.idleAt w, 0x27, 37), (!c.stepsIn (b.toNat / 16), 0x28, 39), (since w 180 (c.bank b.toNat).refpb, 0x22, 17),
      (!(c.bank b.toNat).opened, 0x21, 33), (since w 28 (c.bank b.toNat).pre, 0x22, 3)] ++ actRules c w b.toNat
  | .lturn _ _ => [(c.idleAt w, 0x27, 37), (c.noIssue, 0x28, 39), (decide (c.readEnd ≤ w) && decide (c.writeEnd ≤ w) && c.lturn.isNone, 0x25, 35)]
  | .svwin _ _ => openRules c w
  | .nbiss _ g _ _ => [(c.idleAt w, 0x27, 37)] ++ quietRules c w ((List.range 16).map fun j => 16 * g.toNat + j) ++
      [(decide ((c.cur.toList.length + c.queue.length) < 4), 0x28, 40)]
  | .nbfence _ => [(c.idleAt w, 0x27, 37), (c.noIssue, 0x2A, 45)] ++
      quietRules c w ((c.units.filter fun u => !u.2.slots.isEmpty).map (·.1))
  | _ => []

/-- R245: a refresh lowers a debt by one, not below −8; debts are kept less the rises so far. -/
def Bank.paid (k : Bank) (rises : Nat) : Int := Max.max (k.debt + rises - 1) (-8) - rises

/-- What each row-class command makes of its pseudo-channel at tick `w`: the banks, occupation, split or queue that its rule names; the
tick of its latest row command apart. -/
def rowEffect (s : State) (w : Nat) (c : Pch) : Instr → Option (BitVec 6 × Pch)
  | .act p b r => some (p, { c.setBank b.toNat { c.bank b.toNat with mode := .opened r.toNat, act := some w } with
      acts := (c.acts.filter fun a => decide (w < a.1 + 32)) ++ [(w, b.toNat / 4)] })
  | .pre p b => some (p, if (c.bank b.toNat).opened then c.setBank b.toNat { c.bank b.toNat with mode := .precharged, pre := some w } else c)
  | .prea p => some (p, ((List.range 64).filter fun b => (c.bank b).opened).foldl
      (fun c b => c.setBank b { c.bank b with mode := .precharged, pre := some w }) c)
  | .refab p => some (p, { (List.range 64).foldl (fun c b => c.setBank b { c.bank b with debt := (c.bank b).paid s.stack.rises }) c with
      busy := some (w + 660, .refab) })
  | .refpb p b => some (p, { c.setBank b.toNat { c.bank b.toNat with
      mode := .refreshing (w + 180), refpb := some w, debt := (c.bank b.toNat).paid s.stack.rises } with
      acts := (c.acts.filter fun a => decide (w < a.1 + 32)) ++ [(w, b.toNat / 4)] })
  | .lturn p n => some (p, { c with lturn := some (w + 16, n.toNat) })
  | .svwin p n => some (p, { c with busy := some (w + 120 + 8 * n.toNat, .window w n.toNat) })
  | .nbiss p g r z => some (p, { c with
      queue := c.queue ++ [{ lg := g.toNat, g0 := r.toNat, start := z.toNat, tick := w, word := s.stack.word }], nbFlag := true })
  | .nbfence p => some (p, { c with busy := some (w + 48, .commit), nbFlag := false })
  | _ => none

/-! ### Service accesses (R118, R247, R248, R275 to R281) -/

/-- R118, R281, Table 10.4: the state in which an access has ended with a value and a status. It is gone. A core's load or atomic fills
its landing granule with the value (0 for a failed one), the status and zeros, under its tag; a core's OUTST.COUNT falls by one; a store
that failed is recorded in the error log (log 30); the access of a peer is answered through its port, and a host's read with its bytes or,
where it failed, with poison (log 145); what a destroyed context left under way lands nowhere (R288). Bytes that a timed write of the cycle wrote stand (Table 10.3). -/
def State.landed (s : State) (a : Access) (v : Word) (st : Nat) : State :=
  let v := if st = 0 then v else 0
  let t := s.onCur fun y => { y with accesses := y.accesses.filter fun b => b.id != a.id }
  match a.core, a.lp, a.peer with
  | some c, some lp, _ => t.onCore c fun k =>
      let fill := fun (k : Core) =>
        { k with spad := Mem.write k.spad (lp / 64 * 64) (natLe 8 v.toNat ++ natLe 1 st ++ List.replicate 55 0),
                 tags := SMap.set 0 k.tags (lp / 64) (a.tag % 4096) }
      { k.landing fill with csr := { k.csr with outst := k.csr.outst - 1 } }
  | some c, none, _ =>
      let t := t.onCore c fun k => { k with csr := { k.csr with outst := k.csr.outst - 1 } }
      if st = 0 then t else t.onCur fun y => y.hkAdd (hkEntry 0 (c / 160) (a.ea.toNat / 2 ^ 61) st (if a.ea.toNat / 2 ^ 61 = 5 ∨ a.ea.toNat / 2 ^ 61 = 6 then a.ea.toNat else a.pa))
  | none, _, some port => t.onCur fun y => y.sendFlit port { flitOf kindAnswer a.tag with data := natLe 1 st ++ natLe 8 v.toNat }
  | none, _, none =>
      if a.kind = .load ∧ a.ctx = 0 then
        t.onCur fun y => { y with hostOut := y.hostOut ++ [.data a.pa (if st = 0 then a.bytes else List.replicate a.size 0) (decide (st ≠ 0))] }
      else t

/-- The state with an access replaced by another of its number. -/
def State.keeps (s : State) (a : Access) : State :=
  s.onCur fun y => { y with accesses := y.accesses.map fun b => if b.id == a.id then a else b }

/-- R275, R278, R282: an access may arrive at its pseudo-channel: two ticks have passed since its issue, what it was ordered after has
performed, and every earlier access of its core to the same pseudo-channel has arrived. -/
def State.mayReach (s : State) (a : Access) : Prop :=
  a.arrived = none ∧ 2 * a.hub + 2 ≤ s.tickNow ∧ (∀ i ∈ a.after, ∀ b, s.cur.access i = some b → b.result ≠ none) ∧
    ∀ b ∈ s.cur.accesses, b.core = a.core → b.id < a.id → b.channel = a.channel → b.arrived ≠ none

/-- R275, R280: an access that slot `i` of `n` of a pseudo-channel may serve: arrived, not yet performed, to memory of the pseudo-channel;
on a compressed page not a store, and a load only with 68 slots left and no store of its 64 KiB block waiting. -/
def State.serves (s : State) (p i n : Nat) (a : Access) : Prop :=
  a ∈ s.cur.accesses ∧ a.arrived ≠ none ∧ a.result = none ∧ (a.ea.toNat / 2 ^ 61 = 0 ∨ a.ea.toNat / 2 ^ 61 = 7) ∧ inHbm a.pa = true ∧
    a.channel = (s.unit, p) ∧
    (a.cmp = true → a.kind ≠ .store ∧ (a.kind = .load → 68 ≤ n - i ∧
      ∀ b ∈ s.cur.accesses, b.cmp = true → b.kind = .store → b.arrived ≠ none → b.pa / 65536 ≠ a.pa / 65536))

/-- R118: a loaded value of `n` bytes under a width code: zero-extended below 4, else sign-extended. -/
def loaded (w n x : Nat) : Word := wrap (if w < 4 then x else Int.bmod x (2 ^ (8 * n)))

/-- R281: what an atomic writes, from the old value and its operands. -/
def swapped (k : AccessKind) (x b c : Word) : Word :=
  match k with
  | .aadd => wrap (sgn x + sgn b)
  | .amin => if sgn b < sgn x then b else x
  | .amax => if sgn x < sgn b then b else x
  | .aand => x &&& b
  | .aor => x ||| b
  | .axor => x ^^^ b
  | .axchg => b
  | .acas => if x = b then c else x
  | _ => x

/-! ### Stops (R97, R289 to R291) -/

/-- FCAUSE of a stop by a report (Table 11.2). -/
def causeWord (kind : Nat) (r : Report) (more : Bool) : Word :=
  BitVec.ofNat 64 (r.cause + (if more then 2 ^ 8 else 0) + 2 ^ 15 * r.die + 2 ^ 17 * r.cluster + 2 ^ 22 * r.core + 2 ^ 25 * r.word +
    2 ^ 29 * kind + 2 ^ 32 * (r.detail.headD 0 % 2 ^ 32))

/-- R97, R289, R291: `z` is the module `y` with the kernel `q` stopped at the boundary of `y` for a report: its tile tasks are stopped and
hold FCAUSE and FBIX, the position of the bundle they issue next or, for the reporting core, the one that the report names; its dies are
stopped; every other kernel that ran there is stopped with it as collateral and keeps its FCAUSE and FBIX. Every register, store,
memory and count stands as it stood in `y`. -/
def Sys.stoppedFor (y z : Sys) (kind : StopKind) (r : Report) (more : Bool) (q : Nat) (x : Kernel) : Prop :=
  z = { y with cores := z.cores, kernels := z.kernels, dies := z.dies } ∧
  (let stop : Stop :=
     { kind := kind, boundary := y.kernelNow x, hub := y.hub, inval := none, report := some r, more := more, collateral := false }
   z.kern q = some { x with state := .stopped, stop := some stop }) ∧
  (∀ p w, p ≠ q → y.kern p = some w → w.state = .running → (∃ d ∈ w.dies, d ∈ x.dies) →
    let stop : Stop :=
      { kind := kind, boundary := y.kernelNow w, hub := y.hub, inval := none, report := none, more := false, collateral := true }
    z.kern p = some { w with state := .stopped, stop := some stop }) ∧
  (∀ d ∈ x.dies, (y.die d).run ≠ .shed → z.die d = { y.die d with run := .stopped }) ∧
  (∀ c, (y.core c).kernel = some q → let k := y.core c
    z.core c = { k with
      task := if k.task = .running ∨ k.task = .held then .stopped else k.task
      csr := { k.csr with
        fcause := causeWord (if kind = .trap then 2 else 1) r more
        fbix := BitVec.ofNat 64 (let next := if k.idle ≠ 0 then k.ip - 1 else k.ip; if c = r.coreNo then r.pos.getD next else next) }
      pending := (z.core c).pending
      mx := { k.mx with seq := (z.core c).mx.seq, prior := (z.core c).mx.prior, loads := (z.core c).mx.loads } }) ∧
  (∀ c p, (y.core c).kernel = some p → p ≠ q → (z.core c).csr = (y.core c).csr)

/-- R290: the order among the reports of one boundary: a machine check, then a bundle's fault, by die, cluster, core and word, then by
die a timeline's, the lower stack first, before an engine's or micro-word's, by cluster and core. -/
def Report.before (a b : Report) : Prop :=
  (a.rank = 0 ∧ b.rank ≠ 0) ∨ (a.rank = 1 ∧ 1 < b.rank) ∨
  (a.rank = 1 ∧ b.rank = 1 ∧ (a.die < b.die ∨ a.die = b.die ∧ (a.cluster < b.cluster ∨ a.cluster = b.cluster ∧
    (a.core < b.core ∨ a.core = b.core ∧ a.word < b.word)))) ∨
  (1 < a.rank ∧ 1 < b.rank ∧ (a.die < b.die ∨ a.die = b.die ∧
    (a.rank < b.rank ∨ (a.rank = 2 ∧ b.rank = 2 ∧ a.detail.headD 0 % 8 < b.detail.headD 0 % 8) ∨
      (a.rank = 3 ∧ b.rank = 3 ∧ (a.cluster < b.cluster ∨ a.cluster = b.cluster ∧ a.core < b.core)))))

/-! ### Verbs (R403 to R405, R411, R412, Table 19.5, Table 20.1) -/

/-- What the tables give a verb: its code, whether it is a host command, whether only the owner may send it, whether it names a context,
whether a module without a tier refuses it, whether it is served during a sequence, and whether the body has the form that its table
gives. -/
structure VerbRow where
  code  : Nat
  host  : Bool
  owner : Bool
  named : Bool
  tier  : Bool
  early : Bool
  req   : Req
  body  : Bytes
  legal : Prop

/-- The row of every verb. READ-SLOT over MCTP in confidential mode has rules of its own (R419). -/
def verbRow (s : State) : Instr → Option VerbRow
  | .identify h b => some ⟨0x01, false, false, false, false, true, h, b, b = []⟩
  | .configDigest h b => some ⟨0x02, false, false, false, false, true, h, b, b = []⟩
  | .createContext h b => some ⟨0x03, false, false, false, false, false, h, b,
      1 ≤ fieldLe b 32 1 ∧ fieldLe b 32 1 ≤ 16 ∧ b.length = 37 + fieldLe b 32 1 ∧ ∀ c ∈ b.drop 37, 4 ≤ c.toNat ∧ c.toNat ≤ 16⟩
  | .loadKernel h b => some ⟨0x04, false, true, true, false, false, h, b, 16 ≤ b.length ∧ b.length ≤ 4048⟩
  | .offerPage h b => some ⟨0x05, false, false, true, true, false, h, b, b.length = 9 ∧ fieldLe b 8 1 ≤ 3⟩
  | .releaseRequest h b => some ⟨0x06, false, false, true, true, false, h, b, b.length = 8⟩
  | .reclaimForce h b => some ⟨0x07, false, false, true, true, false, h, b, b.length = 8⟩
  | .submit h b => some ⟨0x08, false, true, true, false, false, h, b, b.length = 64⟩
  | .queryQueue h b => some ⟨0x09, false, true, true, false, false, h, b, b = []⟩
  | .hibernateNow h b => some ⟨0x0A, false, false, false, true, false, h, b, b = []⟩
  | .resumeVerb h b => some ⟨0x0B, false, false, false, true, s.cur.power.waiting, h, b, b = []⟩
  | .attestSession h b => some ⟨0x0C, false, false, false, false, true, h, b, b.length = 32⟩
  | .scrubReset h b => some ⟨0x0D, false, false, false, false, false, h, b, b = [0] ∨ b = [1]⟩
  | .destroyContext h b => some ⟨0x0E, false, true, true, false, false, h, b, b = []⟩
  | .mapPage h b => some ⟨0x20, true, false, true, false, false, h, b, b.length = 24 ∧ fieldLe b 16 8 < 2 ^ 16 ∧
      (fieldLe b 16 8).testBit 7 = false⟩
  | .unmapPage h b => some ⟨0x21, true, false, true, false, false, h, b, b.length = 8⟩
  | .setAttr h b => some ⟨0x22, true, false, true, false, false, h, b, b.length = 16⟩
  | .clearFailed h b => some ⟨0x23, true, false, false, false, false, h, b, b.length = 10⟩
  | .readSlot h b =>
    if s.unit = 1 ∧ s.cur.trust.conf = true then none
    else some ⟨0x24, s.unit != 1, false, false, true, false, h, b,
      b.length = 13 ∧ fieldLe b 9 4 ≤ 4032 ∧ fieldLe b 1 8 + fieldLe b 9 4 ≤ 0x1000000⟩
  | _ => none

/-- The state in which firmware has answered a request with a verb code, a status and a body: the response alone is new (Table 19.4),
in a secure session as the secured message of that session (R397, R403). -/
def State.replies (s : State) (code : Nat) (h : Req) (status : Nat) (body : Bytes) : State :=
  s.onCur fun y =>
    let text := natLe 2 code ++ natLe 2 status ++ natLe 4 h.rtag.toNat ++ natLe 8 y.trust.cdseq ++ y.trust.cd ++ body
    { y with trust := { y.trust with out := y.trust.out ++ [{ session := h.session, bytes := y.secured h.session text }] } }

/-- R405, R406, R409: firmware takes a request: the running image serves verbs, no scrub is under way, and its session is open. -/
def State.heard (s : State) (session : Nat) : Prop :=
  s.cur.trust.recovery = false ∧ s.cur.trust.scrubbing = none ∧ (session = 0 ∨ ∃ x ∈ s.cur.trust.sessions, x.id = session)

/-- R403 to R405, R411, R412: why a request is turned away, in the order of the checks (log 109): a malformed request (1), one that the mode
or the form does not permit (2), a sequence that is under way or was when the request arrived (5), no such context (4), a session that is not the owner's (3). -/
def State.barred (s : State) (r : VerbRow) : List (Prop × Nat) :=
  let t := s.cur.trust
  let p := s.cur.power
  let c := r.req.ctx.toNat
  [(r.req.reserved ≠ 0 ∨ r.req.len ≠ r.body.length ∨ ¬ r.legal, 1),
   ((t.conf = true ∧ (r.host = true ∨ r.req.session = 0)) ∨ (r.tier = true ∧ t.form ≠ 3), 2),
   ((p.hib ≠ none ∨ p.waiting = true ∨ p.shed = true ∨ p.manifest = .replaying ∨ t.barred = true) ∧ r.early = false, 5),
   (r.named = true ∧ (c = 0 ∨ 256 ≤ c ∨ (s.cur.ctx c).state ∈ [CtxState.empty, .destroyed]), 4),
   (r.owner = true ∧ r.req.session ≠ 0 ∧ ∀ x ∈ t.sessions, x.id = r.req.session → x.owner ≠ some (s.cur.ctx c).owner, 3)]

/-- A request of firmware's that it carries out. -/
def State.serving (s : State) (i : Instr) : Prop :=
  ∃ r, verbRow s i = some r ∧ s.heard r.req.session ∧ ∀ b ∈ s.barred r, ¬ b.1

/-! ### The form of memory -/

/-- HBM and the tier are in the one form that a memory has, as they stand and as they stood at the boundary that a fault goes back to. -/
def State.memoriesWf (s : State) : Prop :=
  Mem.wf s.cur.hbm = true ∧ Mem.wf s.cur.tier = true ∧ Mem.wf s.old.hbm = true ∧ Mem.wf s.old.tier = true

end Sys2Proof.Machine
end

