-- ==== Sys2Proof/Certificates/Slice0/Obligations.lean ====
section
/-! DEFINITION. The statements for the provers. -/

open Sys2Proof Sys2Proof.Machine

/-- For every well-formed instruction and every encoding that the encoder gives it (an index, a one-word or two-word unit of a
bundle, a matrix micro-word, a memory command or a near-bank word), the decoder reads that instruction back with every operand,
at every value of the operand fields. -/
def Obligations.DecodeInvertsEncode : Prop :=
∀ (i : Instr) (c : Code), i.wf = true → encode i = some c → decode c = some i

/-- Every encoding that the decoder accepts gives a well-formed instruction, whose encoding is that very word: no two words of an
encoding space mean the same instruction and no reserved bit is dropped. A memory command is the encoding with the delta that the
word holds. -/
def Obligations.EncodeInvertsDecode : Prop :=
∀ (c : Code) (i : Instr), decode c = some i →
    i.wf = true ∧
    match c with
    | .cmd w => encodeCmd (w.extractLsb' 48 10) i = some w
    | c => encode i = some c

/-- One word of each encoding space and of several bundle classes, written out from the encodings of the manual (the example
words of Tables 3.3, 15.4, 17.4, of R110 and of Table 9.8, and fields placed by Tables 4.1 to 4.8), decodes to the instruction it
stands for; words with a reserved bit set, an unassigned OP or MINOR, or a format out of the set are refused. -/
def Obligations.EncodedWords : Prop :=
decode (.index 0x0000) = some .emptyBundle ∧ decode (.index 0x1FFF) = some (.dictionaryBundle 0x1FFF) ∧
  decode (.index 0x2000) = none ∧ decode (.index 0xFFBF) = none ∧ decode (.index 0xFFC0) = some (.idleRun 2) ∧
  decode (.index 0xFFFE) = some (.idleRun 64) ∧ decode (.index 0xFFFF) = some .literalBundle ∧
  decode (.one 0xFFF0000A) = some (.pfx 0xFFF 0 0 0 0 0 0 0 0 1) ∧ decode (.one 0xFFFF0A28) = some (.movi 0x3FFFC 10) ∧
  decode (.one 0x00004A2C) = some (.movhi 1 10) ∧ decode (.one 0x000140E4) = some (.barr 5) ∧
  decode (.one 0x0001D8E4) = some (.srel 7) ∧ decode (.one 0x000188E8) = some (.lsend 0 6) ∧
  decode (.one 0x003010E8) = some (.lchk 3) ∧ decode (.one 0x01001000) = some (.add 16 0 16) ∧
  decode (.one 0xFC000000) = none ∧ decode (.one 0x0001C0E5) = none ∧
  decode (.cmd 0x040A15800000012C) = some (.act 5 0x18 300) ∧ decode (.cmd 0x081C158220040000) = some (.rdl 5 0x18 2 4 0x100) ∧
  decode (.cmd 0x0C08158220080000) = some (.wrl 5 0x18 2 4 0x200) ∧ decode (.cmd 0x1035158000000000) = some (.pre 5 0x18) ∧
  decode (.mx 0x3400000000000000) = some .mxend ∧ decode (.mx 0x3400000000000001) = none ∧
  decode (.nb 0x70000000) = some .nend ∧ decode (.nb 0x00000000) = none

/-- While a bundle is being issued and its word in turn decodes to an instruction, the step is exec of that instruction for the
issuing core, with the words after it left to issue (past the second word of a two-word unit) and the word number kept for
reports. A fill word, or the end of the twelve words, ends the bundle. With no bundle in issue, the step takes the first entry of
the schedule and is exec of it for its unit: an event of the unit; the idle cycle or the index at a core's index pointer; the
micro-word that a sequencer executes; the command of a timeline, once its stack is ready for it, with the timeline moved past it;
the near-bank word of an issue. An index of the range 0x2000 to 0xFFBF raises 0x02, and another word that does not decode raises
its cause. With nothing due the cycle goes on to its next part. -/
def Obligations.StepRunsWhatIsNext : Prop :=
(
  (∀ (s : State) (w : Word32) (ws : List Word32) (i : Instr), s.cur.power.powered = true → s.issue.active = true →
    s.issue.words = w :: ws → isFill w = false → decodeUnit w ws.head? = .ok i →
    step s = exec i { s with
      unit := s.issue.core,
      issue := { s.issue with word := 12 - (ws.length + 1), words := if isTwoWord w then ws.drop 1 else ws } }) ∧
  (∀ (s : State), s.cur.power.powered = true → s.issue.active = true →
    (s.issue.words = [] ∨ ∃ w ws, s.issue.words = w :: ws ∧ isFill w = true) →
    step s = .next { s with unit := s.issue.core, issue := Issue.none })) ∧
  (
  ∀ (s : State) (rest : List Due), s.cur.power.powered = true → s.issue.active = false →
    (∀ u e, s.todo = .ev u e :: rest → step s = exec e.toInstr { s with unit := u, todo := rest }) ∧
    (∀ c, s.todo = .idle c :: rest → step s = exec (.idleRun (s.old.core c).idle) { s with unit := c, todo := rest }) ∧
    (∀ c v i, s.todo = .index c v :: rest → decodeIndex v = some i → step s = exec i { s with unit := c, todo := rest }) ∧
    (∀ c v, s.todo = .index c v :: rest → decodeIndex v = none →
      step s = .next (takeFault { s with unit := c, todo := rest } (trouble 0x02))) ∧
    (∀ c w i, s.todo = .mx c w :: rest → decodeMx w = some i → step s = exec i { s with unit := c, todo := rest }) ∧
    (∀ c w, s.todo = .mx c w :: rest → decodeMx w = none →
      step s = .next (engineFault { s with unit := c, todo := rest } (trouble 0x41))) ∧
    (∀ k w i, s.todo = .cmd k w :: rest → cmdReady { s with todo := rest } k = true → decodeCmd w = some i →
      step s = exec i (issueCmd { s with todo := rest } k w)) ∧
    (∀ p w i, s.todo = .nb p w :: rest → decodeNb w = some i → step s = exec i { s with unit := p, todo := rest }) ∧
    (s.todo = [] → step s = .next (advance s)))

/-- No instruction, event, message or verb is refused and none stops the machine: exec answers a next state for every instruction
in every state. A step therefore answers a next state whenever the module has power, and stops, with the fault `unpowered`,
exactly when it has none and no start or package reset is on its way. -/
def Obligations.StepStopsOnlyWithoutPower : Prop :=
(∀ (i : Instr) (s : State), ∃ t, exec i s = .next t) ∧
  (∀ s : State, s.cur.power.powered = true → ∃ t, step s = .next t) ∧
  (∀ s : State, step s = .fault .unpowered ↔
    s.cur.power.powered = false ∧ ∀ i ∈ s.inputs, i.event ≠ .start ∧ i.event ≠ .packageReset)

/-- Reading index 0x0000 consumes one position and issues a bundle in which no word takes effect. A dictionary index consumes one
position and issues the twelve words of that entry of the cluster's dictionary. The first cycle of an idle run consumes one
position, and each cycle of the run leaves one idle cycle fewer and issues no word. An escape at position 131,047 or below whose
literal bundle passes validation consumes 25 positions and issues the literal, and one whose bundle fails it raises the cause of
the first word that fails and issues nothing; above that position it raises 0x07. -/
def Obligations.IndexConsumption : Prop :=
∀ s : State,
    exec .emptyBundle s = .next (s.issueWords (s.me.ip + 1) 0 []) ∧
    (∀ e, exec (.dictionaryBundle e) s =
      .next (s.issueWords (s.me.ip + 1) 0 (bundleWords (s.old.dictEntry s.unit e.toNat)))) ∧
    (∀ n, s.me.idle = 0 → exec (.idleRun n) s = .next (s.issueWords (s.me.ip + 1) (n - 1) [])) ∧
    (∀ n, s.me.idle ≠ 0 → exec (.idleRun n) s = .next (s.issueWords s.me.ip (n - 1) [])) ∧
    (∀ b : BitVec 384, s.me.ip ≤ 131047 → validateBundle b = none →
      (∀ j < 24, b.extractLsb' (16 * j) 16 = SMap.getD s.me.index (s.me.ip + 1 + j) 0) →
      exec .literalBundle s = .next (s.issueWords (s.me.ip + 25) 0 (bundleWords b))) ∧
    (∀ (b : BitVec 384) w cause, s.me.ip ≤ 131047 → validateBundle b = some (w, cause) →
      (∀ j < 24, b.extractLsb' (16 * j) 16 = SMap.getD s.me.index (s.me.ip + 1 + j) 0) →
      exec .literalBundle s =
        .next { takeFault { s with issue := { s.issue with word := w } } (trouble cause) with issue := Issue.none }) ∧
    (131047 < s.me.ip → exec .literalBundle s = .next (takeFault s (trouble 0x07)))

/-- A word of a bundle whose guard is false writes no destination, raises no flag and no cause, starts nothing and transfers no
control: the next state is the state with the word gone and, of a word that rounds with sr, the generator of its core past one
draw for each of its element positions (log 34 for words that round nothing of what they convert). A matrix-class word besides
takes its metadata as under a true guard, but that a full queue raises nothing and loses the delivery (log 29). -/
def Obligations.GuardedOffWords : Prop :=
∀ (i : Instr) (s : State), i.wf = true → isUnit i = true → s.guardOn = false →
    (isMatrixWord i = false → exec i s = .next (s.seeded (roundedElems s i)).consumed) ∧
    (isMatrixWord i = true → ∀ t, deliver s = .ok t → exec i s = .next (t.seeded (roundedElems s i)).consumed) ∧
    (isMatrixWord i = true → ∀ e, deliver s = .error e → exec i s = .next (s.raised e))

/-- A prefix word leaves its twelve fields for the instruction it modifies and changes nothing else of the state; the word that
follows then runs under them (its guard, its rounding mode, saturation, expected tag and extended immediate). -/
def Obligations.PrefixModifiesNextWord : Prop :=
∀ (i : BitVec 12) (e v : BitVec 1) (p : BitVec 6) (t : BitVec 1) (sr : BitVec 2) (a r : BitVec 1) (m : BitVec 3) (x : BitVec 1)
    (s : State), ∃ u : State, exec (.pfx i e v p t sr a r m x) s = .next u ∧
      u = { s with issue := { s.issue with pfx := u.issue.pfx } } ∧
      u.guardOn = (e == 0 || (s.me.pname p.toNat != (v == 1))) ∧
      u.rm = (if r = 1 then m.toNat else s.me.csr.rmode.toNat) ∧
      u.sat = (a == 1) ∧
      u.tagWanted = (if t = 1 then some i.toNat else none) ∧
      (∀ f : BitVec 12, u.immS f = if x = 1 then Int.bmod (i.toNat * 4096 + f.toNat) (2 ^ 24) else f.toInt) ∧
      (∀ f : BitVec 18, u.immU f = if x = 1 then Int.bmod (i.toNat * 2 ^ 18 + f.toNat) (2 ^ 30) else f.toNat)

/-- Under a true guard, each instruction of the scalar class that writes a scalar register (and CSRR) puts exactly one result in
flight: the value that R29, R30, R51 and R109 to R112 give for the registers, the immediate and SAT, readable after the latency
of its class, with SX when a saturated form clamps. Nothing else of the state changes: no other register, flag, CSR, memory byte
or pc. -/
def Obligations.ScalarResults : Prop :=
∀ (i : Instr) (s : State) (r : ScalarRow), i.wf = true → s.guardOn = true → scalarRow s i = some r →
    exec i s = .next (s.inFlight [s.result r.lat (.scalar r.dest.toNat r.value) r.flags])

/-- Under a true guard, SEL puts in flight the register that its predicate selects, and CMP, CMPI, PAND, POR, PXOR and PNOT put
one predicate value in flight, readable in the next cycle in the physical predicate that the destination names at issue: the
comparison that the condition code names over the signed or unsigned readings (the immediate of CMPI sign-extended), or the
logical operation, of values read before the cycle's writes. Nothing else of the state changes. -/
def Obligations.PredicateResults : Prop :=
∀ (s : State), s.guardOn = true →
    (∀ (p : BitVec 6) (b a d : BitVec 6),
      exec (.sel p b a d) s = .next (s.inFlight [s.result 1 (.scalar d.toNat (if s.me.pname p.toNat then s.sv a else s.sv b)) 0])) ∧
    (∀ (i : Instr) (p : BitVec 6) (b : Bool), i.wf = true → predicateRow s i = some (p, b) →
      exec i s = .next (s.inFlight [s.result 1 (.pred (s.me.physp p.toNat) b) 0]))

/-- Under a true guard each one-word arithmetic instruction puts one vector result in flight, in the physical register that its
destination names at issue, readable 3 (integer), 4 (floating) or 5 (VFMA, VFMS) cycles later. Each lane is the exact integer
result wrapped or saturated, the exact floating result rounded once, or the lesser or greater element; the flags are the union of
the lanes' flags. Nothing else of the state changes but the generator, by one draw per lane when the word rounds with sr. Under a
true guard VABS, VNEG, VNOT, VCLZ, VFFS, VPOPC and the transcendentals put one vector result in flight, readable 3 or 10
(transcendental) cycles later, each of whose lanes is the operation on that lane of the source: sign changes with canonical NaNs,
bit counts, and correctly rounded functions, which give the results of Table 6.5 on special operands. Nothing else of the state
changes but the generator, by one draw per lane when the word rounds with sr. Under a true guard the vector logic and shift
instructions put one vector result in flight, readable 3 cycles later, each of whose lanes of 8, 16, 32 or 64 bits is the
operation on the lanes of the sources, shifts taking their amount modulo the width. No flag is raised and nothing else of the
state changes. -/
def Obligations.VectorLanes : Prop :=
(
  ∀ (i : Instr) (s : State) (r : LaneRow), i.wf = true → s.guardOn = true → arithRow s i = some r →
    ∃ ps, exec i s = .next ((s.seeded r.draws).inFlight ps) ∧ r.are s ps) ∧
  (
  ∀ (i : Instr) (s : State) (r : LaneRow), i.wf = true → s.guardOn = true → unaryRow s i = some r →
    ∃ ps, exec i s = .next ((s.seeded r.draws).inFlight ps) ∧ r.are s ps) ∧
  (
  ∀ (i : Instr) (s : State) (r : LaneRow), i.wf = true → s.guardOn = true → bitsRow s i = some r →
    ∃ ps, exec i s = .next ((s.seeded r.draws).inFlight ps) ∧ r.are s ps)

/-- Under a true guard VADDMOD, VSUBMOD and VMULMOD put 64 residues in flight, readable 7 cycles later, and VBFLY and VIBFLY a
pair of registers with the sum in the even register and the difference (of the product, or times the twiddle) in the odd one. No
flag is raised and nothing else of the state changes. Under a true guard VSEL takes each lane by the mask, VTRN transposes the
shape, VSHUF takes the lane that an index names, VBCST fills every lane, VINS writes one lane and leaves the others unwritten,
and VRED reduces the rows or the columns of the shape and writes zeros past the reduced lanes. Nothing else of the state changes
but the generator, by one draw per lane when the word rounds with sr. -/
def Obligations.VectorModularAndMoves : Prop :=
(
  ∀ (i : Instr) (s : State) (r : LaneRow), i.wf = true → s.guardOn = true → modularRow s i = some r →
    ∃ ps, exec i s = .next ((s.seeded r.draws).inFlight ps) ∧ r.are s ps) ∧
  (
  ∀ (i : Instr) (s : State) (r : LaneRow), i.wf = true → s.guardOn = true → moveRow s i = some r →
    ∃ ps, exec i s = .next ((s.seeded r.draws).inFlight ps) ∧ r.are s ps)

/-- Under a true guard VCVT converts every lane of the source group to the destination format, and VDQNT gives every lane of the
source its value under the scale of its block of 32 columns, rounded once into the destination group; the registers of the group
land together, 3 (integer to integer) or 4 cycles later. Nothing else of the state changes but the generator, by one draw per
lane when the word rounds with sr. Under a true guard VQNT, in either form, gives each block of 32 columns of the shape one scale
byte from the lanes of the block that its mask selects, in byte order of the blocks in the register after its destination, and
each selected lane its value rounded under that scale; both registers land 4 cycles later. Nothing else changes but the
generator, by one draw per lane under sr. That a VCVT that only widens, and rounds nothing, takes its draws is log 34 (DEDUCED). -/
def Obligations.VectorConversionsAndQuantising : Prop :=
(
  ∀ (i : Instr) (s : State) (r : LaneRow), i.wf = true → s.guardOn = true → convertRow s i = some r →
    ∃ ps, exec i s = .next ((s.seeded r.draws).inFlight ps) ∧ r.are s ps) ∧
  (
  ∀ (i : Instr) (sf : BitVec 4) (a d f : BitVec 6) (on : Nat → Bool) (zm : Bool) (s : State), i.wf = true → s.guardOn = true →
    rowsOk s.rows = true →
    (i = .vqnt sf a d f ∧ (∀ e, on e = true) ∧ zm = false ∨
      ∃ k z, i = .vqntMasked sf a d f k z ∧ (∀ e, on e = s.maskOn k (4096 / fmtWidth f.toNat) e) ∧ zm = (z == 1)) →
    let n := 4096 / fmtWidth f.toNat
    let x := fun e => decodeF sf.toNat (s.groupLane (fmtWidth sf.toNat) a.toNat e)
    let block := fun b => (List.range n).filter fun e => s.blockNo n e == b && on e
    let scale := fun b => blockScale f.toNat ((block b).map x)
    let blocks := s.rows * ((n / s.rows + 31) / 32)
    let r : LaneRow := { lat := 4, dest := d.toNat, regs := 1, width := fmtWidth f.toNat, draws := some n, on := on, zm := zm,
                         lane := fun u e => quantElem f.toNat s.rm (u e) (scale (s.blockNo n e)).1 (x e) }
    ∃ ps v, exec i s = .next ((s.seeded (some n)).inFlight (ps ++
        [s.result 4 (.vector (s.me.physv (d.toNat + 1)) v (BitVec.allOnes 4096))
          ((List.range blocks).foldl (fun fl b => fl ||| (scale b).2) 0)])) ∧
      r.are s ps ∧ ∀ b < 512, laneOf 8 v b = if b < blocks then (scale b).1 else 0)

/-- Under a true guard each two-word form (majors 0x18 to 0x20 and 0x22, VQNT apart) computes what its one-word form computes, on
the lanes whose bit of the mask is one, with flags of those lanes only; every other lane becomes zero with ZM and keeps its value
without. It takes the same draws, whatever the mask holds. Under a true guard VCMP puts one mask in flight, readable 3 cycles
later, with one bit per lane: the comparison that its condition names, over exact values (an unordered pair satisfies no ordered
condition), zeros past the lanes, and NV when a lane of a floating source is a signaling NaN. KAND, KOR, KNOT and KMOV put the
mask of their rule in flight, readable in the next cycle. Nothing else of the state changes. That a masked VCVT that only widens
takes its draws is log 34 (DEDUCED). -/
def Obligations.MasksAndMaskedForms : Prop :=
(
  ∀ (i j : Instr) (k : BitVec 4) (zm : BitVec 1) (s : State) (r : LaneRow), i.wf = true → s.guardOn = true →
    unmasked i = some (j, k, zm) → oneWordRow s j = some r →
    ∃ ps, exec i s = .next ((s.seeded r.draws).inFlight ps) ∧ (r.under s k zm).are s ps) ∧
  (
  ∀ (s : State), s.guardOn = true →
    (∀ b a d, exec (.kand b a d) s = .next (s.inFlight [s.result 1 (.mask d.toNat (s.me.kreg a.toNat &&& s.me.kreg b.toNat)) 0])) ∧
    (∀ b a d, exec (.kor b a d) s = .next (s.inFlight [s.result 1 (.mask d.toNat (s.me.kreg a.toNat ||| s.me.kreg b.toNat)) 0])) ∧
    (∀ a d, exec (.knot a d) s = .next (s.inFlight [s.result 1 (.mask d.toNat (~~~ s.me.kreg a.toNat)) 0])) ∧
    (∀ a d, exec (.kmov a d) s = .next (s.inFlight [s.result 1 (.mask d.toNat (s.me.kreg a.toNat)) 0])) ∧
    (∀ b a c k f, (Instr.vcmp b a c k f).wf = true →
      let w := fmtWidth f.toNat
      ∃ m : Mask, ∃ fl : Flags, exec (.vcmp b a c k f) s = .next (s.inFlight [s.result 3 (.mask k.toNat m) fl]) ∧
        (∀ e < 512, m.getLsbD e = (decide (e < 4096 / w) && laneCompares c.toNat f.toNat (s.lane w a.toNat e) (s.lane w b.toNat e))) ∧
        fl = if isFl f.toNat ∧ ∃ e < 4096 / w, (decodeF f.toNat (s.lane w a.toNat e)).isSNaN = true ∨
          (decodeF f.toNat (s.lane w b.toNat e)).isSNaN = true then fNV else 0))

/-- Under a true guard, at ea = trunc(a + imm × size, 64): if the space is not 1, the rank neither the own cluster's nor 127, or
bits 53 to 21 not zero, LDS and STS raise 0x32, and if ea is not a multiple of the size 0x33, with ea in the detail. Otherwise
LDS puts the little-endian value of the bytes in flight, zero- or sign-extended, readable after 4 cycles, and notes its access of
the bank, with the tag that a prefix with TCK asks for (R65, R203; 0x11 to 0x13 are CopyEvents'); STS puts its bytes in flight,
to be written 2 cycles later. Nothing else changes. -/
def Obligations.ScalarScratchpad : Prop :=
∀ (i : BitVec 8) (w : BitVec 3) (a d : BitVec 6) (s : State), s.guardOn = true → (Instr.lds i w a d).wf = true →
    let size : Nat := 2 ^ (w.toNat % 4)
    let ea := wrap (sgn (s.sv a) + s.immS i * size)
    let off := ea.toNat % 2 ^ 21
    let x := leNat (Mem.read s.me.spad off size)
    match scratchCause s.unit size ea with
    | some c => exec (.lds i w a d) s = .next (s.raised (addrTrouble c ea)) ∧ exec (.sts i w a d) s = .next (s.raised (addrTrouble c ea))
    | none =>
      let use : BankUse := { core := s.unit, off := off, size := size, code := 0x01, word := some s.issue.word, since := s.now, group := s.issue.word,
                             read := true, tag := match s.issue.pfx with
                               | some x => if x.t then some (off, x.i.toNat) else none
                               | none => none }
      exec (.lds i w a d) s = .next (({ s with uses := s.uses ++ [use] } : State).inFlight
        [s.result 4 (.scalar d.toNat (wrap (if w.toNat < 4 then x else Int.bmod x (2 ^ (8 * size))))) 0]) ∧
      ∃ bs : Bytes, exec (.sts i w a d) s = .next (s.inFlight [s.result 2 (.store off bs 0x02) 0]) ∧ bs.length = size ∧
        leNat bs = (s.sv d).toNat % 2 ^ (8 * size)

/-- Under a true guard, at ea = trunc(a + OFF × 512, 64), the checks of R160 raise 0x32, 0x34 or 0x33 in that order. Otherwise
VLDX, and VLD on a raw or run-compressed bank of KIND 0, load 512 bytes unchanged; VLD on a widening bank converts each stored
element; VST writes the register's bytes, or each element rounded into the stored format, 3 cycles later. The load is readable
after 5 cycles. Nothing else changes but the generator, by the draws that the bank's format fixes, and FFLAGS joins the flags of
every element converted. -/
def Obligations.VectorScratchpad : Prop :=
∀ (o a d : BitVec 6) (s : State), s.guardOn = true →
    let ea := wrap (sgn (s.sv a) + s.immU o * 512)
    let off := ea.toNat % 2 ^ 21
    let b := s.me.bfmtAt off
    let g := 512 / b.factor
    let read := fun n => leNat (Mem.read s.me.spad off n)
    let some4 := fun raw => !raw && !(b.kind == 0 || b.widening)
    let cause := fun (raw : Bool) => match scratchCause s.unit 1 ea with
      | some c => some c
      | none => if some4 raw then some 0x34 else scratchCause s.unit (if raw then 512 else g) ea
    let us := if b.widening then some (4096 / fmtWidth b.tf) else some 0
    (match cause true with
      | some c => exec (.vldx o a d) s = .next (s.raised (addrTrouble c ea))
      | none => exec (.vldx o a d) s = .next ((s.touch 0x04 off 512 true true).inFlight
          [s.result 5 (.vector (s.me.physv d.toNat) (BitVec.ofNat 4096 (read 512)) (BitVec.allOnes 4096)) 0])) ∧
    (match cause false with
      | some c => exec (.vld o a d) s = .next (s.raised (addrTrouble c ea)) ∧
          exec (.vst o a d) s = .next ((s.seeded us).raised (addrTrouble c ea))
      | none =>
        (∃ v fl, exec (.vld o a d) s = .next ((s.touch 0x03 off g true true).inFlight
            [s.result 5 (.vector (s.me.physv d.toNat) v (BitVec.allOnes 4096)) fl]) ∧
          (b.widening = false → v = BitVec.ofNat 4096 (read 512) ∧ fl = 0) ∧
          let r := fun e => roundVal b.tf 0 false 0 (decodeF b.sf (read g / 2 ^ (fmtWidth b.sf * e) % 2 ^ fmtWidth b.sf))
          (b.widening = true → (∀ e < 4096 / fmtWidth b.tf, laneOf (fmtWidth b.tf) v e = (r e).1) ∧
            fl = (List.range (4096 / fmtWidth b.tf)).foldl (fun fl e => fl ||| (r e).2) 0)) ∧
        (∃ bs fl, exec (.vst o a d) s = .next ((s.seeded us).inFlight [s.result 3 (.store off bs 0x05) fl]) ∧ bs.length = g ∧
          (b.widening = false → leNat bs = (s.me.vname d.toNat).toNat ∧ fl = 0) ∧
          let r := fun e => roundVal b.sf s.rm s.sat (s.drawsOf us e) (decodeF b.tf (s.lane (fmtWidth b.tf) d.toNat e))
          (b.widening = true → (∀ e < 4096 / fmtWidth b.tf, leNat bs / 2 ^ (fmtWidth b.sf * e) % 2 ^ fmtWidth b.sf = (r e).1) ∧
            fl = (List.range (4096 / fmtWidth b.tf)).foldl (fun fl e => fl ||| (r e).2) 0)))

/-- The address of a service access raises 0x32 when its space is not 0, 5, 6 or 7, when a space-5 address names a peer above 319
or the module itself, or when a bank-direct address breaks its form; then 0x33 when it is not a multiple of the size. In space 0
it raises 0x30 without a translation of the context and 0x31 when a store meets a page without W or with DD; otherwise it leads
to the page's frame at the same offset. In space 7 it raises 0x31 outside the context's compute-capable pages and otherwise leads
to the named place of the stacks. Under a true guard FENCE adds to what later accesses of its core wait for exactly the core's
accesses still listed that lie in the set of its scope, performed or not (waiting for one that has performed is waiting for
nothing), and changes nothing else. OCHK raises 0x15 when OUTST.COUNT is not zero as it stood before the cycle, and otherwise
does nothing. That a FENCE orders the accesses of lower words of its own bundle too is log 26 (DEDUCED). -/
def Obligations.AddressChecksFenceAndOchk : Prop :=
(
  ∀ (y : Sys) (core n : Nat) (store : Bool) (ea : Word),
    let space := ea.toNat / 2 ^ 61
    let bad := fun c => (Except.error (addrTrouble c ea) : Except Trouble Target)
    let form := match space with
      | 0 | 6 => True
      | 5 => ea.toNat / 2 ^ 45 % 512 ≤ 319 ∧ ea.toNat / 2 ^ 45 % 512 ≠ y.trust.module
      | 7 => ea.toNat / 2 ^ 54 % 128 = 127 ∧ ea.toNat / 2 ^ 45 % 512 = 0 ∧ ea.toNat / 2 ^ 10 % 64 = 0 ∧ ea.toNat / 2 ^ 16 % 2 ^ 14 ≤ 12287
      | _ => False
    (¬ form → serviceEa y core n store ea = bad 0x32) ∧
    (form → ea.toNat % n ≠ 0 → serviceEa y core n store ea = bad 0x33) ∧
    (form → ea.toNat % n = 0 → space = 0 →
      match y.lookup core (y.ctxOf core) (ea.toNat % 2 ^ 54) with
      | none => serviceEa y core n store ea = bad 0x30
      | some e => if store = true ∧ (e.code.getLsbD 2 = false ∨ e.code.getLsbD 6 = true) then serviceEa y core n store ea = bad 0x31
        else ∃ t, serviceEa y core n store ea = .ok t ∧ t.pa = e.pa + (ea.toNat % 2 ^ 54 - e.va) ∧ t.cmp = e.code.getLsbD 5 ∧ t.entry = some e) ∧
    (form → ea.toNat % n = 0 → space = 7 →
      let pa := ea.toNat / 2 ^ 42 % 8 * stackBytes +
        (256 * (ea.toNat / 2 ^ 16 % 2 ^ 14 / 128) + 64 * (ea.toNat / 2 ^ 34 % 4) + ea.toNat / 2 ^ 36 % 64) * 2 ^ 21 +
        ea.toNat / 2 ^ 16 % 2 ^ 14 % 128 * 16384 + ea.toNat / 2 ^ 30 % 16 * 1024 + ea.toNat % 1024
      if y.computeCapable (y.ctxOf core) pa then ∃ t, serviceEa y core n store ea = .ok t ∧ t.pa = pa ∧ t.cmp = false ∧ t.entry = none
      else serviceEa y core n store ea = bad 0x31) ∧
    (form → ea.toNat % n = 0 → (space = 5 ∨ space = 6) → ∃ t, serviceEa y core n store ea = .ok t ∧ t.entry = none)) ∧
  (
  ∀ (s : State), s.guardOn = true →
    (∀ b : BitVec 6, ∃ l : List Nat, exec (.fence b) s = .next (s.onMine fun k => { k with fenced := l }).consumed ∧
      ∀ n, n ∈ l ↔ (n ∈ s.mine.fenced ∧ ∃ a ∈ s.cur.accesses, a.id = n) ∨
        ∃ a ∈ s.cur.accesses, a.id = n ∧ a.core = some s.unit ∧
          (let hbm := (a.ea.toNat / 2 ^ 61 = 0 ∨ a.ea.toNat / 2 ^ 61 = 7) ∧ a.pa < 384 * 2 ^ 30
           if b.toNat ≤ 2 then hbm ∧ a.pa / stackBytes / 2 = s.unit / 160
           else if b.toNat = 3 then hbm
           else if b.toNat ≤ 5 then a.ea.toNat / 2 ^ 61 = 7
           else if b.toNat = 6 then hbm ∨ a.ea.toNat / 2 ^ 61 = 5
           else if b.toNat = 7 then a.ea.toNat / 2 ^ 61 = 6
           else a.kind ≠ .load ∧ (a.ea.toNat / 2 ^ 61 = 0 ∨ a.ea.toNat / 2 ^ 61 = 7) ∧ inTier a.pa = true)) ∧
    exec .ochk s = .next (if s.me.csr.outst = 0 then s.consumed else s.raised (trouble 0x15)))

/-- Under a true guard LDG, STG and the eight atomics check the landing pointer (R115, not STG), then the address, then
OUTST.COUNT with the accesses the bundle has issued before, and raise the first that fails. Otherwise they issue one access with
their operands as they stand at issue, and OUTST.COUNT rises by one; the access waits for those that earlier FENCEs and acquires
hold it back for and, as a release, for every earlier one of the core. Registers, memory and the pc do not change. -/
def Obligations.ServiceAccessesIssue : Prop :=
∀ (i : Instr) (s : State) (q : AccessRow), i.wf = true → s.guardOn = true → accessRow s i = some q →
    let fails := fun e => exec i s = .next (s.raised e)
    match (match q.lp with | some lp => scratchCause s.unit 64 lp | none => none) with
    | some c => fails (addrTrouble c (q.lp.getD 0))
    | none =>
      match serviceEa s.old s.unit q.size q.store q.ea with
      | .error e => fails e
      | .ok t =>
        if 64 ≤ s.me.csr.outst.toNat + s.issue.sent then fails (trouble 0x17)
        else ∃ a : Access, exec i s = .next (s.sends a t.entry).consumed ∧
          a = { id := s.cur.nextId, core := some s.unit, peer := none, ctx := s.old.ctxOf s.unit, kind := q.kind, ea := q.ea, pa := t.pa,
                base := t.base, cmp := t.cmp, size := q.size, width := q.width, data := q.data, data2 := q.data2, bytes := [],
                lp := q.lp.map fun lp => lp.toNat % 2 ^ 21, tag := s.now % 4096, hub := s.old.hub, word := s.issue.word, acq := q.acq,
                arrived := none, after := a.after, result := none } ∧
          ∀ n, n ∈ a.after ↔ n ∈ s.mine.fenced ∨
            ∃ b ∈ s.cur.accesses, b.id = n ∧ b.core = some s.unit ∧ (q.rel = true ∨ b.acq = true)

/-- Under a true guard a transferring instruction raises 0x16 when its core has a window open, and RET raises 0x09 when its
target passes 131,071; otherwise it opens the window of its cycle with its target and whether it transfers: always for BR, CALL
and RET, on p xor C for BRC, and for LOOPB while LC.CNT is not zero or a stage predicate below DEPTH is one. CALL puts its link
in flight, readable in the next cycle, and a LOOPB that goes on its writes, for four cycles later. CONTROL_TRANSFER closes the
window of the core in turn and, when the window transfers, sets the index pointer to its target and abandons an idle run; nothing
else changes. LOOPB_BOUNDARY_WRITES, with a LOOPB's writes first due, sets ROTV and ROTP, sets LC only when a source iteration
was started, and writes the predicate that p32 names under the new ROTP. -/
def Obligations.ControlTransfersAndWindows : Prop :=
(
  ∀ (s : State), s.guardOn = true →
    let open_ := fun (target : Nat) (go : Bool) (link : Option (Nat × Word)) =>
      s.onMine fun k => { k with window := some { issued := s.now, target := target, transfer := go, link := link } }
    let opened := fun (target : Nat) (go : Bool) => open_ target go none
    let lc := s.me.csr.lc.toNat
    let start := decide (lc % 2 ^ 32 ≠ 0)
    let goes := start || (List.range (lc / 2 ^ 32 % 32)).any fun k => s.me.pname (32 + k)
    (s.me.window = none →
      (∀ t, exec (.br t) s = .next (opened t.toNat true).consumed) ∧
      (∀ t c p, exec (.brc t c p) s = .next (opened t.toNat (s.me.pname p.toNat != (c == 1))).consumed) ∧
      (∀ t p, let link : Word := BitVec.ofNat 64 (linkPosition s.me s.mine.ip)
        exec (.call t p) s = .next ((open_ t.toNat true (some (p.toNat, link))).inFlight [s.result 1 (.scalar p.toNat link) 0])) ∧
      (∀ i a, let target := wrap (sgn (s.sv a) + s.immS i)
        exec (.ret i a) s = .next (if 131071 < target.toNat then s.raised (trouble 0x09) else (opened target.toNat true).consumed)) ∧
      (∀ t, exec (.loopb t) s = .next (if goes then (opened t.toNat true).inFlight
          [s.result 4 (.loopb (s.me.csr.lc - 1) (wrap (((s.me.csr.rotv.toNat : Int) - 1) % 32)) (wrap (((s.me.csr.rotp.toNat : Int) - 1) % 32)) start) 0]
        else (opened t.toNat false).consumed))) ∧
    (s.me.window ≠ none →
      (∀ t, exec (.br t) s = .next (s.raised (trouble 0x16))) ∧ (∀ t c p, exec (.brc t c p) s = .next (s.raised (trouble 0x16))) ∧
      (∀ t p, exec (.call t p) s = .next (s.raised (trouble 0x16))) ∧ (∀ i a, exec (.ret i a) s = .next (s.raised (trouble 0x16))) ∧
      (∀ t, exec (.loopb t) s = .next (s.raised (trouble 0x16))))) ∧
  (
  ∀ (s : State),
    (∀ w, s.mine.window = some w → exec .controlTransfer s = .next (s.onMine fun k =>
      { k with window := none, ip := if w.transfer then w.target else k.ip, idle := if w.transfer then 0 else k.idle })) ∧
    (∀ p lc rotv rotp started, s.firstDue Dest.isLoopb = some p → p.dest = .loopb lc rotv rotp started →
      ∃ m, exec .loopbBoundaryWrites s = .next (s.onMine fun k =>
        { k with pending := k.pending.erase p, flagsDue := k.flagsDue ||| p.flags, p := m,
                 csr := { k.csr with lc := if started then lc else k.csr.lc, rotv := rotv, rotp := rotp } }) ∧
      ∀ n, { s.mine with p := m }.preg n =
        if n = 0 then true else if n = 32 + rotp.toNat % 32 % 32 then started else s.mine.preg n))

/-- Under a true guard LOOPSET puts LC (CNT the low half of its source, DEPTH its field) and the 32 stage predicates (p32 one,
the others zero) in flight for the next cycle. TCHK raises 0x10, with the difference in its detail, unless its core's cycle minus
its start cycle equals a + imm, and otherwise does nothing. HALT makes the tile task halted, closes its window and drops a
LOOPB's pending writes, leaving other results in flight. TRAP reports cause 0x00 with the 64-bit code for the boundary after its
bundle. -/
def Obligations.LoopsetTchkHaltTrap : Prop :=
∀ (s : State), s.guardOn = true →
    (∀ d a, exec (.loopset d a) s = .next (s.inFlight
      (s.result 1 (.csr 0x11 (BitVec.ofNat 64 (d.toNat * 2 ^ 32 + (s.sv a).toNat % 2 ^ 32)) false) 0 ::
        (List.range 32).map fun j => s.result 1 (.pred (s.me.physp (32 + j)) (j == 0)) 0))) ∧
    (∀ i a, let want := wrap (sgn (s.sv a) + s.immS i)
      let got := wrap ((s.now : Int) - s.me.start)
      exec (.tchk i a) s = .next (if want = got then s.consumed else s.raised ⟨0x10, [(want - got).toNat % 2 ^ 32, 0, 0]⟩)) ∧
    (let kept := s.mine.pending.filter fun p => !p.dest.isLoopb
     exec .halt s = .next (s.onMine fun k => { k with task := .halted, window := none, pending := kept }).consumed) ∧
    (∀ i a, let code := (wrap (sgn (s.sv a) + s.immS i)).toNat
      exec (.trap i a) s = .next { s.consumed with faults := s.faults ++
        [{ s.reportOf 1 ⟨0x00, [code % 2 ^ 32, code / 2 ^ 32, 0]⟩ with late := true, pos := some s.me.bundlePos }] })

/-- When a scalar, predicate, mask, CSR or vector result of the core in turn is the first due in this cycle, RESULT_LAND takes it
out of flight, adds its flags to those that join FFLAGS at the end of the cycle, and writes exactly its register: a write to s0,
p0 or k0 is discarded, a vector result changes the bits of its write map only, and a CSR takes the value by its own rules. Every
other register, all memory and the pc stay. When a store of STS, VST or SSAVE is the first of its kind due in this cycle, its
perform event takes it out of flight, joins its flags, and writes its bytes: byte j of the store is at offset + j of the
scratchpad afterwards, and every other byte of every memory, register and status is as before. An access of the bank is noted. -/
def Obligations.ResultsAndStoresLand : Prop :=
(
  ∀ (s : State) (p : Pending), s.firstDue Dest.isRegister = some p →
    let u := fun (f : Core → Core) => s.onMine fun k => f { k with pending := k.pending.erase p, flagsDue := k.flagsDue ||| p.flags }
    match p.dest with
    | .scalar r v => ∃ m, exec .resultLand s = .next (u fun k => { k with s := m }) ∧
        ∀ n, { s.mine with s := m }.sreg n = if n = 0 then 0 else if n = r then v else s.mine.sreg n
    | .pred r b => ∃ m, exec .resultLand s = .next (u fun k => { k with p := m }) ∧
        ∀ n, { s.mine with p := m }.preg n = if n = 0 then true else if n = r then b else s.mine.preg n
    | .mask r v => ∃ m, exec .resultLand s = .next (u fun k => { k with k := m }) ∧
        ∀ n, { s.mine with k := m }.kreg n = if n = 0 then BitVec.allOnes 512 else if n = r then v else s.mine.kreg n
    | .vector r v map => ∃ m, exec .resultLand s = .next (u fun k => { k with v := m }) ∧
        ∀ n, { s.mine with v := m }.vreg n = if n = r then (s.mine.vreg r &&& ~~~map) ||| (v &&& map) else s.mine.vreg n
    | .csr c v _ => exec .resultLand s = .next (u fun k => { k with csr := k.csr.write c v })
    | _ => False) ∧
  (
  ∀ (s : State) (p : Pending) (off code : Nat) (bs : Bytes), p.dest = .store off bs code → s.firstStore code = some p →
    ∀ e : Instr, (e = .scalarStorePerform ∧ code = 0x02 ∨ e = .vectorStorePerform ∧ code = 0x05 ∨ e = .streamRecordWrite ∧ code = 0x08) →
    ∃ m : Mem, exec e s = .next ((s.touchBy code off bs.length p.issue (groupStore p.issue p.word) false).onMine fun k =>
        { k with pending := k.pending.erase p, flagsDue := k.flagsDue ||| p.flags, spad := m }) ∧
      (∀ j, (h : j < bs.length) → Mem.get m (off + j) = bs[j]) ∧
      (∀ x, x < off ∨ off + bs.length ≤ x → Mem.get m x = Mem.get s.mine.spad x))

/-- Under a true guard XSEND and XRECV raise 0x18 when DIE names no die of the kernel or the own one, XSEND when the cluster
already sends to that die in the cycle, and XRECV when no vector arrived. Otherwise XSEND puts the named vector in flight to the
same core of that die for cycle t + 20, and XRECV takes the vector that arrived, readable after 2 cycles; one that a link error
spoilt writes nothing. The arrival moves exactly the vectors due in the core's cycle. -/
def Obligations.DieTransfers : Prop :=
∀ (s : State), s.guardOn = true → ∀ (e : BitVec 2) (v : BitVec 6),
    let there := fun d => d * 160 + s.unit % 160
    (∀ x, partnerDie s e = .error x → exec (.xsend e v) s = .next (s.raised x) ∧ exec (.xrecv e v) s = .next (s.raised x) ∧ x = trouble 0x18) ∧
    (∀ d, (s.old.diesOf s.unit)[e.toNat]? = some d → d ≠ s.unit / 160 → partnerDie s e = .ok d) ∧
    (∀ d, partnerDie s e = .ok d → (s.old.diesOf s.unit)[e.toNat]? = some d ∧ d ≠ s.unit / 160 ∧
      exec (.xsend e v) s = .next (
        if (List.range 8).any fun j => sentIn (s.cur.core (d * 160 + s.unit % 160 / 8 * 8 + j)) (s.unit / 160) s.now then s.raised (trouble 0x18)
        else (s.onCore (there d) fun k => { k with pending := k.pending ++
          [s.result 20 (.die (s.unit / 160) (s.me.vname v.toNat) true) 0] }).consumed) ∧
      match s.mine.arrived.find? (fun x => x.1 == d) with
      | none => exec (.xrecv e v) s = .next (s.raised (trouble 0x18))
      | some x =>
        let t := s.onMine fun k => { k with arrived := k.arrived.filter fun y => y.1 != d }
        exec (.xrecv e v) s = .next (if x.2.2 then t.inFlight [s.result 2 (.vector (s.me.physv v.toNat) x.2.1 (BitVec.allOnes 4096)) 0]
          else t.consumed)) ∧
    ∃ l : List Pending, exec .dieTransferArrival s = .next (s.onMine fun k => { k with
        arrived := k.arrived ++ l.filterMap (fun p => match p.dest with | .die d v ok => some (d, v, ok) | _ => none),
        pending := k.pending.filter fun p => !l.contains p }) ∧
      ∀ p, p ∈ l ↔ p ∈ s.mine.pending ∧ p.land = s.cur.gn s.unit ∧ ∃ d v ok, p.dest = .die d v ok

/-- Under a true guard CSRW, CSRS and CSRC put the register, its OR and its AND-NOT with the CSR in flight, to govern from the
next cycle; a write of FFLAGS applies in its own cycle. VSHAPE raises 0x19 unless its value is 1, 2, 4, 8, 16, 32 or 64. A
written CSR keeps its width: VSH and RMODE ignore illegal values, a zero SEED becomes the golden constant, QMOD becomes odd, and
no other CSR changes. That a write of MPC keeps the low 16 bits is log 23 (DEDUCED). -/
def Obligations.CsrWrites : Prop :=
(∀ (s : State), s.guardOn = true → ∀ (c : BitVec 12) (a : BitVec 6),
    let x := s.old.readCsr s.unit c.toNat
    (∀ (i : Instr) (v : Word), (i = .csrw c a ∧ v = s.sv a ∨ i = .csrs c a ∧ v = x ||| s.sv a ∨ i = .csrc c a ∧ v = x &&& ~~~(s.sv a)) →
      exec i s = .next (if c = 0x19 then (s.onMine fun k => { k with csr := { k.csr with fflags := v &&& 63 } }).consumed
        else s.inFlight [s.result 1 (.csr c.toNat v true) 0]))) ∧
  (∀ (s : State), s.guardOn = true → ∀ (i : BitVec 12) (a : BitVec 6), let v := wrap (sgn (s.sv a) + s.immS i)
    exec (.vshape i a) s = .next (if v.toNat ∈ [1, 2, 4, 8, 16, 32, 64] then s.inFlight [s.result 1 (.csr 0x10 v false) 0]
      else s.raised (trouble 0x19))) ∧
  (∀ (f : Csrs) (v : Word),
    f.write 0x10 v = (if v.toNat % 128 ∈ [1, 2, 4, 8, 16, 32, 64] then { f with vsh := wrap (v.toNat % 128 : Nat) } else f) ∧
    f.write 0x11 v = { f with lc := wrap (v.toNat % 2 ^ 37 : Nat) } ∧ f.write 0x12 v = { f with rotv := wrap (v.toNat % 32 : Nat) } ∧
    f.write 0x13 v = { f with rotp := wrap (v.toNat % 32 : Nat) } ∧ f.write 0x14 v = { f with mpc := wrap (v.toNat % 2 ^ 16 : Nat) } ∧
    f.write 0x15 v = { f with seed := if v = 0 then 0x9E3779B97F4A7C15 else v } ∧ f.write 0x16 v = { f with qmod := v ||| 1 } ∧
    f.write 0x17 v = { f with qinv := v } ∧ f.write 0x18 v = (if v.toNat % 8 ≤ 5 then { f with rmode := wrap (v.toNat % 8 : Nat) } else f) ∧
    f.write 0x19 v = { f with fflags := wrap (v.toNat % 64 : Nat) } ∧ ∀ c, (c < 0x10 ∨ 0x19 < c) → f.write c v = f)

/-- Outside seeded mode, the delivery raises 0x0B when MPC is 65,535 and then 0x46 when mode 1 meets a queue of sixteen, but not
at a guarded-off word, whose delivery is then lost (log 29); otherwise MPC advances by one and, in mode 1, the word made of index
positions 2m and 2m + 1 joins the queue. In seeded mode nothing is read and MPC holds. A matrix-class word is its delivery
followed by its effect. Under a true guard and after its delivery: MOVA writes one parameter register; MSEED sets M (0 becomes
the golden constant) and seeded mode; MMETA sets mode 0 or 1, else 0x45; MPAIR arms the pair for a legal cluster and descriptor
(0x45) while no routine runs (0x1B); MCLR clears IMM + 1 accumulator rows, MRDAC reads one into a vector after 4 cycles, MWRAC
writes one after 2, each after the checks of R172 (0x32, 0x33). Nothing else changes. That a queue is full as it stood before the
cycle is log 130, and that the value of an MSEED stands beside a draw of its cycle log 135 (both DEDUCED); the order of the
causes of one word is log 165 (DESIGN CHOICE). -/
def Obligations.MatrixWords : Prop :=
(
  ∀ (s : State), let m := s.me.csr.mpc.toNat
    let w : Word32 := BitVec.ofNat 32 ((SMap.getD s.me.index (2 * m) 0).toNat + 2 ^ 16 * (SMap.getD s.me.index (2 * m + 1) 0).toNat)
    (s.me.mx.seeded = true → deliver s = .ok s) ∧
    (s.me.mx.seeded = false → m = 65535 → deliver s = .error (trouble 0x0B)) ∧
    (s.me.mx.seeded = false → m ≠ 65535 → s.me.mx.mmode ≠ 0 → 16 ≤ s.me.mx.mqueue.length →
      deliver s = (if s.guardOn then .error (trouble 0x46)
        else .ok (s.onMine fun k => { k with csr := { k.csr with mpc := BitVec.ofNat 64 (m + 1) } }))) ∧
    (s.me.mx.seeded = false → m ≠ 65535 → (s.me.mx.mmode = 0 ∨ s.me.mx.mqueue.length < 16) →
      deliver s = .ok (s.onMine fun k => { k with
        csr := { k.csr with mpc := BitVec.ofNat 64 (m + 1) },
        mx := if s.me.mx.mmode = 0 then k.mx else { k.mx with mqueue := k.mx.mqueue ++ [w] } }))) ∧
  (
  ∀ (s t : State), s.guardOn = true → deliver s = .ok t →
    (∀ i a d, ∃ m, exec (.mova i a d) s = .next (t.onMx fun x => { x with params := m }).consumed ∧
      ∀ n, SMap.getD m n 0 = if n = d.toNat then wrap (sgn (s.sv a) + s.immU i) else SMap.getD t.mine.mx.params n 0) ∧
    (∀ a, exec (.mseed a) s = .next (t.onMx fun x =>
      { x with m := if s.sv a = 0 then 0x9E3779B97F4A7C15 else s.sv a, seeded := true }).consumed) ∧
    (∀ i, exec (.mmeta i) s = .next (if i.toNat ≤ 1 then (t.onMx fun x => { x with seeded := false, mmode := i.toNat }).consumed
      else t.raised (trouble 0x45))) ∧
    (∀ i a, let v := (s.sv a).toNat
      let row0 := v % 2048
      let n := v / 2 ^ 12 % 2048 + 1
      exec (.mpair i a) s = .next (
        if 19 < i.toNat ∨ i.toNat = s.unit / 8 % 20 ∨ v / 2 ^ 11 % 2 ≠ 0 ∨ v / 2 ^ 23 ≠ 0 ∨ 2048 < row0 + n then t.raised (trouble 0x45)
        else if t.mine.mx.seq.st = .running ∨ t.mine.mx.seq.st = .paired then t.raised (trouble 0x1B)
        else (t.onMx fun x => { x with
          arm := some { cluster := i.toNat, row0 := row0, nrows := n, word := 0, params := [], m := 0 },
          seq := { x.seq with st := .armed } }).consumed)) ∧
    (∀ i a, let n := s.immU i + 1
      let off := (s.sv a).toNat % 2 ^ 20
      exec (.mclr i a) s = .next (
        if n < 1 then t.raised (addrTrouble 0x32 (s.sv a))
        else match accCause s.unit 512 (512 * n.toNat) (s.sv a) with
          | some c => t.raised (addrTrouble c (s.sv a))
          | none => t.inFlight [s.result 1 (.acc off (.clear (512 * n.toNat)) none) 0])) ∧
    (∀ a d, let off := (s.sv a).toNat % 2 ^ 20
      match accCause s.unit 512 512 (s.sv a) with
      | some c => exec (.mrdac a d) s = .next (t.raised (addrTrouble c (s.sv a))) ∧
          exec (.mwrac a d) s = .next (t.raised (addrTrouble c (s.sv a)))
      | none =>
        exec (.mrdac a d) s = .next (t.inFlight [s.result 4 (.vector (s.me.physv d.toNat)
          (BitVec.ofNat 4096 (leNat (Mem.read s.me.mx.acc off 512))) (BitVec.allOnes 4096)) 0]) ∧
        ∃ bs : Bytes, exec (.mwrac a d) s = .next (t.inFlight [s.result 2 (.acc off (.write bs) none) 0]) ∧ bs.length = 512 ∧
          leNat bs = (s.me.vname d.toNat).toNat))

/-- Under a true guard and after its delivery, MRTLD checks its pointer, header and image (0x32, 0x33, 0x44), then every word of
the routine (0x41, at the first that may not be loaded) and the running routine's words (0x1B); otherwise it writes exactly the
routine's words and its table entry. MCALL raises 0x43 without a table entry and 0x1B while a routine runs; otherwise the
sequencer starts at the entry's first word with the parameters, QMOD and QINV of its issue, and an armed pair becomes a paired
routine whose region, tile and exchange buffer are cleared. The order of the causes of a word that breaks several checks is log
165 (DESIGN CHOICE). -/
def Obligations.RoutineLoadAndCall : Prop :=
∀ (s t : State), s.guardOn = true → deliver s = .ok t →
    (∀ i a, let n := i.toNat
      let ea := s.sv a
      let off := ea.toNat % 2 ^ 21
      let h := leNat (Mem.read s.me.spad off 8)
      let start := h % 4096
      let count := h / 2 ^ 16 % 2 ^ 13
      let u := t.touch 0x0D off (8 + 8 * count) true false
      let word := fun j => (BitVec.ofNat 64 (leNat (Mem.read s.me.spad (off + 8 + 8 * j) 8)) : Word)
      match scratchCause s.unit 8 ea with
      | some c => exec (.mrtld i a) s = .next (t.raised (addrTrouble c ea))
      | none =>
        if h / 2 ^ 12 % 16 ≠ 0 ∨ h / 2 ^ 29 ≠ 0 ∨ count = 0 ∨ 4096 < start + count then
          exec (.mrtld i a) s = .next (t.raised ⟨0x44, [n, 0, 0]⟩)
        else if 2 ^ 21 < off + 8 + 8 * count then exec (.mrtld i a) s = .next (t.raised (addrTrouble 0x32 ea))
        else
          (∀ j < count, mxWordOk count (word j) = false → (∀ k < j, mxWordOk count (word k) = true) →
            exec (.mrtld i a) s = .next (u.raised ⟨0x41, [n + j * 256, start + j, 0]⟩)) ∧
          ((∀ j < count, mxWordOk count (word j) = true) →
            let q := t.mine.mx.seq
            if (q.st = .running ∨ q.st = .paired) ∧ start < q.first + q.count ∧ q.first < start + count then
              exec (.mrtld i a) s = .next (u.raised ⟨0x1B, [n, 0, 0]⟩)
            else ∃ m, exec (.mrtld i a) s = .next (u.onMx fun x =>
                { x with table := SMap.put x.table n (start, count), store := m }).consumed ∧
              ∀ w, SMap.getD m w mxEndWord =
                if start ≤ w ∧ w < start + count then word (w - start) else SMap.getD t.mine.mx.store w mxEndWord)) ∧
    (∀ r, match SMap.get? s.me.mx.table r.toNat with
      | none => exec (.mcall r) s = .next (t.raised ⟨0x43, [r.toNat, 0, 0]⟩)
      | some e =>
        if t.mine.mx.seq.st = .running ∨ t.mine.mx.seq.st = .paired then exec (.mcall r) s = .next (t.raised ⟨0x1B, [r.toNat, 0, 0]⟩)
        else
          let aside := fun (x : MxUnit) => if x.seq.pair = none then x.prior else x.prior ++ [x.seq]
          ∃ q : Seq, q.routine = r.toNat ∧ q.first = e.1 ∧ q.count = e.2 ∧ q.index = 0 ∧ q.row = 0 ∧ q.called = s.now ∧
          q.params = s.me.mx.params ∧ q.qmod = s.me.csr.qmod ∧ q.qinv = s.me.csr.qinv ∧ q.loops = [] ∧ q.astr = none ∧
          q.done = false ∧
          match s.me.mx.arm with
          | none => q.st = .running ∧ q.pair = none ∧ exec (.mcall r) s = .next (t.onMx fun x => { x with seq := q, prior := aside x }).consumed
          | some p => q.st = .paired ∧
              q.pair = some { p with word := s.issue.word, params := s.me.mx.params, m := s.me.mx.m } ∧
              exec (.mcall r) s = .next ((t.onMx fun x => { x with
                seq := q, prior := aside x, arm := none, btile := { x.btile with present := false, bytes := [] }, exch := [] }).inFlight
                  [s.result 1 (.acc (512 * p.row0) (.clear (512 * p.nrows)) none) 0]))

/-- Under a true guard and after its delivery and draws, MDRAIN raises the first failing check of R193 (0x45, 0x32, 0x33, 0x34,
0x1B) and otherwise starts a drain with its rows, addresses, format, mode and draws. In a cycle of a drain the row due is read as
the accumulator stands before the cycle's landings, the row read three cycles before is written to its slot in the scratchpad
with its flags, and nothing outside the slot changes; after the last slot the drain has ended. That 0x1B holds in the cycle of a
drain's last row write is log 28, and that drains to integers, and of `.i32` rows, take their draws log 34 (both DEDUCED); the
order of the checks is log 165 (DESIGN CHOICE). A row that a restore has taken converted from a save area stands as it is (log
19). -/
def Obligations.Draining : Prop :=
(∀ (s t : State), s.guardOn = true → deliver s = .ok t → ∀ (b a c f : BitVec 6), (Instr.mdrain b a c f).wf = true →
    let v := (s.sv b).toNat
    let src := v / 2 ^ 12 % 4
    let zrc := v / 2 ^ 11 % 2 == 1
    let nrows := v % 2 ^ 11 + 1
    let u := if src = 2 then t else t.seeded (some (128 * nrows))
    let dst := (s.sv c).toNat % 2 ^ 21
    let size := drainSlot f.toNat src zrc * nrows
    let row := if src = 2 then 64 else 512
    let fails := fun e => exec (.mdrain b a c f) s = .next (u.raised e)
    if v / 2 ^ 14 ≠ 0 ∨ src = 3 ∨ f.toNat = 6 ∨ src = 2 ∧ (f.toNat ≠ 15 ∨ zrc = true) then fails (trouble 0x45)
    else match accCause s.unit row (row * nrows) (s.sv a) with
      | some x => fails (addrTrouble x (s.sv a))
      | none => match scratchCause s.unit 64 (s.sv c) with
        | some x => fails (addrTrouble x (s.sv c))
        | none =>
          if 2 ^ 21 < dst + size then fails (addrTrouble 0x32 (s.sv c))
          else if (List.range size).any fun j => (s.me.bfmtAt (dst + j)).kind != (if zrc then 2 else 0) then fails (addrTrouble 0x34 (s.sv c))
          else if s.me.mx.drain ≠ none then fails (trouble 0x1B)
          else ∃ us : List Nat, (∀ e, us.getD e 0 = if src = 2 then 0 else t.drawsOf (some (128 * nrows)) e) ∧
            let d : Drain :=
              { start := s.now, word := s.issue.word, src := (s.sv a).toNat % 2 ^ 20, dst := dst, nrows := nrows, zrc := zrc, srcKind := src, fmt := f.toNat,
                mode := s.rm, sat := s.sat, draws := us, done := 0, rows := [], ready := [] }
            exec (.mdrain b a c f) s = .next (u.onMx fun x => { x with drain := some d }).consumed) ∧
  (∀ (s : State) (d : Drain), s.mine.mx.drain = some d →
    let c := s.cur.gn s.unit
    let n := if d.srcKind = 2 then 64 else 512
    let slot := drainSlot d.fmt d.srcKind d.zrc
    let rows := if d.start + 1 ≤ c ∧ c - (d.start + 1) < d.nrows
      then SMap.put d.rows (c - (d.start + 1)) (Mem.read s.me.mx.acc (d.src + n * (c - (d.start + 1))) n) else d.rows
    if c < d.start + 4 then exec .mdrainRowWrite s = .next (s.onMx fun x => { x with drain := some { d with rows := rows } })
    else let r := c - (d.start + 4)
      let out := match SMap.get? d.ready r with
        | some bs => (bs, (0 : Flags))
        | none => drainBytes d ((d.draws.drop (128 * r)).take 128) (SMap.getD rows r [])
      ∃ m, exec .mdrainRowWrite s = .next ((s.touchBy 0x11 (d.dst + slot * r) out.1.length d.start groupDrain false).onMine fun k =>
        { k with
          spad := m, flagsDue := k.flagsDue ||| out.2,
          mx := { k.mx with drain := if r + 1 = d.nrows then none else some { d with rows := SMap.del rows r, ready := SMap.del d.ready r, done := r + 1 } } }) ∧
        Mem.read m (d.dst + slot * r) out.1.length = out.1 ∧
        ∀ x, (x < d.dst + slot * r ∨ d.dst + slot * r + out.1.length ≤ x) → Mem.get m x = Mem.get s.mine.spad x)

/-- In its cycle each of these micro-words changes what its rule names and moves the sequencer to the next word (MXLOOP: to its
target while its counter is below CNT): the A stream, a tile load that lands after 8 cycles and its chunks, the promotion state,
a loop counter, two parameter copies, the 2:4 pattern, the generated rows, the end of the routine. A failing operand raises its
cause with the routine and the index, and changes nothing. That a second MXGEN replaces the rows still pending is log 136
(DEDUCED). -/
def Obligations.MicroControl : Prop :=
∀ (s : State), let q := s.me.mx.seq
    let next := fun (u : State) (i : Nat) (f : Seq → Seq) => (u.onMx fun x => { x with seq := { f x.seq with row := 0, index := i } })
    let fails := fun (i : Instr) (c : Nat) => exec i s = .next (engineFault s ⟨c, [q.routine + 256 * q.index, q.first + q.index, 0]⟩)
    let par := fun (a : BitVec 3) => SMap.getD q.params a.toNat 0
    exec .mxnop s = .next (next s (q.index + 1) id) ∧
    exec .mxend s = .next (next s (q.index + 1) fun r => { r with st := .idle }) ∧
    (∀ pa fmt cnt imm,
      let a : AStream := { base := par pa, stride := imm.toNat, fmt := fmt.toNat, rows := cnt.toNat, next := 0, gen := 0, genImm := 0 }
      exec (.mxlda pa fmt cnt imm) s = .next (next s (q.index + 1) fun r => { r with astr := some a })) ∧
    (∀ cnt imm, exec (.mxgen cnt imm) s = .next (next s (q.index + 1) fun r =>
      { r with astr := r.astr.map fun a => { a with gen := cnt.toNat, genImm := imm } })) ∧
    (∀ pa fmt cnt imm, let ea := par pa + imm.setWidth 64
      let n := tileBytes cnt.toNat fmt.toNat
      let off := ea.toNat % 2 ^ 19
      if ea.toNat / 2 ^ 61 ≠ 4 ∨ (ea.toNat / 2 ^ 54 % 128 ≠ s.unit / 8 ∧ ea.toNat / 2 ^ 54 % 128 ≠ 127) ∨ ea.toNat / 2 ^ 19 % 2 ^ 35 ≠ 0 ∨
        off % 1024 ≠ 0 ∨ 2 ^ 19 < off + n then fails (.mxldb pa fmt cnt imm) 0x45
      else ∃ l : TileLoad, exec (.mxldb pa fmt cnt imm) s = .next (next (s.onMx fun x => { x with loads := x.loads ++ [l] }) (q.index + 1)
          fun r => { r with lastLand := Nat.max r.lastLand (s.now + 8 + (n + 1023) / 1024) }) ∧
        l.start = s.now ∧ l.land = s.now + 8 + (n + 1023) / 1024 ∧ l.off = off ∧ l.size = n ∧ l.kind = cnt.toNat ∧ l.fmt = fmt.toNat ∧
        l.pattern = s.me.mx.pattern ∧ l.got = []) ∧
    (∀ pa pb cnt, let set := fun (u : State) (b0 b1 : Word32) => next u (q.index + 1) fun r => { r with
        sae := cnt.getLsbD 0, sbe := cnt.getLsbD 1, isat := cnt.getLsbD 2, sb0 := b0, sb1 := b1 }
      let at_ := fun ea => (BitVec.ofNat 32 (leNat (Mem.read s.me.spad (ea % 2 ^ 21) 4)) : Word32)
      if cnt.getLsbD 1 = false then exec (.mxprom pa pb cnt) s = .next (set s 0x3F800000 0x3F800000)
      else if scratchCause s.unit 4 (par pa) ≠ none ∨ scratchCause s.unit 4 (par pb) ≠ none then fails (.mxprom pa pb cnt) 0x45
      else exec (.mxprom pa pb cnt) s = .next (set ((s.touchBy 0x0F ((par pa).toNat % 2 ^ 21) 4 s.now (groupUnit 1) true).touchBy 0x0F
        ((par pb).toNat % 2 ^ 21) 4 s.now (groupUnit 1) true) (at_ (par pa).toNat) (at_ (par pb).toNat))) ∧
    (∀ pa cnt imm, let c := SMap.getD q.loops pa.toNat 0
      ∃ m, exec (.mxloop pa cnt imm) s = .next (next s (if c + 1 < cnt.toNat then imm.toNat else q.index + 1) fun r => { r with loops := m }) ∧
        ∀ n, SMap.getD m n 0 = if n = pa.toNat then (if c + 1 < cnt.toNat then c + 1 else 0) else SMap.getD s.mine.mx.seq.loops n 0) ∧
    (∀ pa pb imm, pa ≠ pb → ∃ m, exec (.mxstep pa pb imm) s = .next (next s (q.index + 1) fun r => { r with params := m }) ∧
      ∀ n, SMap.getD m n 0 = SMap.getD s.mine.mx.seq.params n 0 + wrap (
        (if n = pa.toNat then 64 * (imm.extractLsb' 0 16).toInt else 0) + (if n = pb.toNat then 64 * (imm.extractLsb' 16 16).toInt else 0))) ∧
    (∀ pa imm, ∃ m, exec (.mxstep pa pa imm) s = .next (next s (q.index + 1) fun r => { r with params := m }) ∧
      ∀ n, SMap.getD m n 0 = SMap.getD s.mine.mx.seq.params n 0 + wrap (
        if n = pa.toNat then 64 * (imm.extractLsb' 0 16).toInt + 64 * (imm.extractLsb' 16 16).toInt else 0)) ∧
    (∀ pa cnt, let i := Instr.mxspar pa cnt
      let set := fun (u : State) (p : Nat) => next (u.onMx fun x => { x with pattern := BitVec.ofNat 256 p }) (q.index + 1) id
      if cnt.toNat = 0 then
        if scratchCause s.unit 32 (par pa) ≠ none then fails i 0x45
        else exec i s = .next (set (s.touchBy 0x10 ((par pa).toNat % 2 ^ 21) 32 s.now (groupUnit 0) true)
          (leNat (Mem.read s.me.spad ((par pa).toNat % 2 ^ 21) 32)))
      else if s.me.mx.seeded then exec i s = .next (set (s.onMx fun x => { x with m := (draw32 s.me.mx.m 8).2 }) (packN 32 (draw32 s.me.mx.m 8).1))
      else if q.pair ≠ none then fails i 0x45
      else if s.me.mx.mqueue.length < 8 then fails i 0x46
      else exec i s = .next (set (s.onMx fun x => { x with mqueue := x.mqueue.drop 8 }) (packN 32 ((s.me.mx.mqueue.take 8).map (·.toNat)))))

/-- In a cycle in which its operands pass their checks, MXMAC consumes one A row (and one row scale) and puts one accumulator row
in flight, landing 12 cycles later: exact integer sums for INT8, else the promoted exact sums of each group. MXMOD puts the
modular sums of its row in flight for 12 cycles later, MXSPLIT every third cycle the six passes for 14, MXRED an exchange row to
add for 4, and MXXCH a row to the partner for 16. The row, and after the last the index, advances. Invalid scale products are log
131, the kind of the tile checked at each row log 132, MXSPLIT's tile read in its first cycle log 133, and MXMOD without a check
of the stream's format log 134 (all DEDUCED). -/
def Obligations.MicroRows : Prop :=
∀ (s : State), let q := s.me.mx.seq
    let b := s.me.mx.btile
    let par := fun (a : BitVec 3) => SMap.getD q.params a.toNat 0
    let acc := fun (ea : Word) => ea.toNat % 2 ^ 20
    let done := fun (u : State) (span : Nat) => u.onSeq fun r =>
      if q.row + 1 < span then { r with row := q.row + 1 } else { r with row := 0, index := q.index + 1 }
    let lands := fun (u : State) (lat off : Nat) (op : AccOp) (fl : Flags) (kind : Option Nat) =>
      let g : Option AccGuard := q.pair.map fun p => { row0 := p.row0, nrows := p.nrows, routine := q.routine, index := q.index, store := q.first + q.index }
      let p : Pending := { land := s.now + lat, issue := s.now, word := 0, flags := fl, dest := .acc off op g }
      (u.onMine fun k => { k with pending := k.pending ++ [p] }).onSeq fun r =>
        { r with lastLand := Nat.max r.lastLand (s.now + lat), kind := kind }
    (∀ pa pb fmt cnt i row sa u v, accCause s.unit 512 (512 * cnt.toNat) (par pa) = none → (q.astr.any fun a => a.fmt == fmt.toNat) = true →
      tileFits b fmt.toNat = true → s.aRow (aRowBytes b fmt.toNat) = .ok (i, row, u) → u.rowScale pb (q.sae && fmt.toNat != 8) i = .ok (sa, v) →
      let off := acc (par pa) + 512 * q.row
      (fmt.toNat = 8 → ∃ l : List Int, exec (.mxmac pa pb fmt cnt) s = .next (done (lands v 12 off (.addI32 q.isat l) 0 (some 1)) cnt.toNat) ∧
        (row.length = 128 → l.length = 128 ∧ ∀ j < 128, l.getD j 0 = ((List.range 128).map fun k =>
          ((row.getD k 0).toInt : Int) * (Mem.get b.bytes (128 * k + j)).toInt).sum)) ∧
      (fmt.toNat ≠ 8 → let gs := macGroups b fmt.toNat row sa q.sb0 q.sb1
        exec (.mxmac pa pb fmt cnt) s = .next (done (lands v 12 off (.addF32 (gs.map fun g => g.map (·.1)))
          (gs.foldl (fun fl g => fl ||| joined g) 0) (some 0)) cnt.toNat))) ∧
    (∀ pa pb cnt str off i row u, s.strideOf pb = .ok str → s.stridedRow pa str 64 cnt.toNat q.row = .ok off →
      b.present = true → b.kind = 0 → b.fmt = 15 → s.aRow 64 = .ok (i, row, u) →
      ∃ l : List Nat, exec (.mxmod pa pb cnt) s = .next (done (lands u 12 off (.addMod q.qmod.toNat l) 0 (some 2)) cnt.toNat) ∧
        (row.length = 64 → l.length = 8 ∧ ∀ j < 8, l.getD j 0 = ((List.range 8).map fun k =>
          Sys2Proof.mulmod q.qmod.toNat q.qinv.toNat (leNat ((row.drop (8 * k)).take 8)) (leNat (Mem.read b.bytes (64 * k + 8 * j) 8))).sum
            % q.qmod.toNat)) ∧
    (∀ pa pb cnt, q.row % 3 ≠ 0 → exec (.mxsplit pa pb cnt) s = .next (done s (3 * cnt.toNat))) ∧
    (∀ pa pb cnt str off i row u, q.row % 3 = 0 → s.strideOf pb = .ok str → s.stridedRow pa str 512 cnt.toNat (q.row / 3) = .ok off →
      b.present = true → b.kind = 2 → (q.astr.any fun a => a.fmt == 1) = true → s.aRow 256 = .ok (i, row, u) →
      let ps := (splitSums b row).map (promote oneF32 oneF32)
      exec (.mxsplit pa pb cnt) s = .next (done (lands u 14 off (.addF32 [ps.map (·.1)]) (joined ps) (some 0)) (3 * cnt.toNat))) ∧
    (∀ pa cnt imm kind, q.kind = some kind → (∀ j < cnt.toNat, accCause s.unit 512 512 (par pa + wrap (512 * j : Nat)) = none) → q.row < cnt.toNat →
      let x := leNat (Mem.read s.me.mx.exch (512 * (imm.toNat + q.row)) 512)
      let op := if kind = 0 then .addF32 [(List.range 128).map fun j => x / 2 ^ (32 * j) % 2 ^ 32]
        else if kind = 1 then .addI32 q.isat ((List.range 128).map fun j => Int.bmod (x / 2 ^ (32 * j)) (2 ^ 32))
        else .addMod q.qmod.toNat ((List.range 8).map fun j => x / 2 ^ (64 * j) % 2 ^ 64)
      exec (.mxred pa cnt imm) s = .next (done (lands s 4 (acc (par pa + wrap (512 * q.row : Nat))) op 0 s.mine.mx.seq.kind) cnt.toNat)) ∧
    (∀ pa imm p, q.pair = some p → (q.row ≠ 0 ∨ startsXch (s.old.core (partnerCore s.unit p.cluster)) (s.unit / 8 % 20) imm.toNat = true) →
      (∀ j < imm.toNat, accCause s.unit 512 512 (par pa + wrap (512 * j : Nat)) = none) → q.row < imm.toNat →
      let d : Pending := { land := s.now + 16, issue := s.now, word := 0, flags := 0,
                           dest := .exch q.row (Mem.read s.me.mx.acc (acc (par pa + wrap (512 * q.row : Nat))) 512) }
      exec (.mxxch pa imm) s = .next (done ((s.onCore (partnerCore s.unit p.cluster) fun k => { k with pending := k.pending ++ [d] }).onSeq
        fun r => { r with lastLand := Nat.max r.lastLand (s.now + 16) }) imm.toNat)) ∧
    ∀ i : Instr, (match i with | .mxmac .. | .mxmod .. | .mxsplit .. | .mxred .. | .mxxch .. => True | _ => False) →
      ∃ t, exec i s = .next t ∧ ((∃ c, t = engineFault s ⟨c, if 0x14 ≤ c ∧ c ≤ 0x1F then [q.routine, 0, 0] else [q.routine + 256 * q.index, q.first + q.index, 0]⟩) ∨ t.faults = s.faults)

/-- The first accumulator result due in the cycle is taken out of flight and writes exactly its bytes of the accumulator: the
bytes, zeros, integer sums wrapped or saturated, or residues, over the row as it stood before the cycle; a landing outside the
region of its pair also raises 0x45. An exchange row writes its 512 bytes; a tile that lands becomes the B tile register; each
routine whose MXEND has executed and whose last result has landed is marked done, and a pair closes when the routines of both
partners are. Says of bTileLand, accumulatorRowLand, exchangeRowLand, routineCompletion that exec answers a next state, and
which, under conditions on the state and the operands alone. That an accumulator operation reads C in its landing cycle is log 32
(DEDUCED). -/
def Obligations.MatrixLandings : Prop :=
(∀ (s : State) (p : Pending) (off : Nat) (op : AccOp) (g : Option AccGuard),
    (s.mine.dueRows (s.cur.gn s.unit)).head? = some p → p.dest = .acc off op g →
    ∃ (m : Mem) (fl : Flags) (bs : Bytes), let t := s.onMine fun k => { k with
        flagsDue := k.flagsDue ||| (p.flags ||| fl), pending := k.pending.erase p, mx := { k.mx with acc := m } }
      exec .accumulatorRowLand s = .next (match g with
        | none => t
        | some x => if 512 * x.row0 ≤ off ∧ off + op.size ≤ 512 * (x.row0 + x.nrows) then t
          else engineFault t ⟨0x45, [x.routine + 256 * x.index, x.store, 0]⟩) ∧
      Mem.read m off bs.length = bs ∧ (∀ a, (a < off ∨ off + bs.length ≤ a) → Mem.get m a = Mem.get s.mine.mx.acc a) ∧
      (∀ l, op = .write l → bs = l ∧ fl = 0) ∧ (∀ n, op = .clear n → bs = List.replicate n 0 ∧ fl = 0) ∧
      (∀ sat l, op = .addI32 sat l → l.length = 128 → bs.length = 512 ∧ ∀ j < 128,
        leNat ((bs.drop (4 * j)).take 4) = (intResult 10 sat (Int.bmod (leNat (Mem.read s.me.mx.acc (off + 4 * j) 4)) (2 ^ 32) + l.getD j 0)).1 % 2 ^ 32) ∧
      (∀ q l, op = .addMod q l → l.length = 8 → bs.length = 64 ∧ ∀ j < 8,
        leNat ((bs.drop (8 * j)).take 8) = (leNat (Mem.read s.me.mx.acc (off + 8 * j) 8) + l.getD j 0) % q % 2 ^ 64) ∧
      (∀ gs, op = .addF32 gs → (∀ l ∈ gs, l.length = 128) → bs.length = 512 ∧ ∀ j < 128,
        leNat ((bs.drop (4 * j)).take 4) = gs.foldl (fun c l => (addAcc c (l.getD j 0)).1) (leNat (Mem.read s.me.mx.acc (off + 4 * j) 4)) % 2 ^ 32)) ∧
  (∀ (s : State) (p : Pending) (row : Nat) (bs : Bytes), (s.mine.due (s.cur.gn s.unit) Dest.isExch).head? = some p → p.dest = .exch row bs →
    ∃ m, exec .exchangeRowLand s = .next (s.onMine fun k =>
        { k with pending := k.pending.erase p, flagsDue := k.flagsDue ||| p.flags, mx := { k.mx with exch := m } }) ∧
      Mem.read m (512 * row) bs.length = bs ∧
      ∀ a, (a < 512 * row ∨ 512 * row + bs.length ≤ a) → Mem.get m a = Mem.get s.mine.mx.exch a) ∧
  (∀ (s : State) (l : TileLoad), s.mine.mx.loads.find? (fun l => l.land == s.cur.gn s.unit) = some l →
    exec .bTileLand s = .next (s.onMx fun x => { x with
      btile := { present := true, kind := l.kind, fmt := l.fmt, bytes := l.got, pattern := l.pattern }, loads := x.loads.erase l })) ∧
  (∀ (s : State), let mark := fun (q : Seq) =>
      if (q.st = .idle ∨ q.st = .armed) ∧ q.lastLand ≤ s.cur.gn s.unit then { q with done := true } else q
    let t := s.onMx fun x => { x with prior := x.prior.map mark, seq := mark x.seq }
    let shuts := fun (q : Seq) (p : Pair) =>
      q.done = true ∧ ∃ r ∈ (t.cur.core (partnerCore s.unit p.cluster)).mx.routines, r.called = q.called ∧ r.done = true
    ((∀ q ∈ t.mine.mx.routines, ∀ p, q.pair = some p → ¬ shuts q p) → exec .routineCompletion s = .next t) ∧
    ∀ p, s.mine.mx.prior = [] → t.mine.mx.seq.pair = some p → shuts t.mine.mx.seq p →
      let close := fun (k : Core) => { k with mx := { k.mx with
        prior := k.mx.prior.filter fun q => q.called != t.mine.mx.seq.called
        seq := if k.mx.seq.called = t.mine.mx.seq.called then { k.mx.seq with pair := none } else k.mx.seq } }
      exec .routineCompletion s = .next ((t.onMine close).onCore (partnerCore s.unit p.cluster) close))

/-- Under a true guard VMOVS raises 0x1C on an unbound or exhausted stream, 0x32, 0x33 or 0x34 at a read that leaves the
scratchpad, is misaligned or meets a bank of another KIND, and otherwise puts the next elements in flight for 2 cycles later,
moving the position on by one. SBIND, SUNBIND, SSEEK, SSAVE and SLOAD write exactly the named stream register, after their
checks; SSAVE puts its 16-byte record in flight, and SLOAD takes a record only if it is a legal one (0x47). -/
def Obligations.Streams : Prop :=
∀ (s : State), s.guardOn = true →
    let desc := fun n => streamDesc (SMap.getD s.me.descs n [])
    let sets := fun (u : State) (z : Nat) (r : Option ZReg) (t : State) => ∃ m, (∀ n, SMap.get? m n = if n = z then r else SMap.get? s.mine.z n) ∧
      t = { u.onMine (fun k => { k with z := m }) with issue := { u.issue with zset := some z } }
    (∀ n d, let z := n.toNat
      match SMap.get? s.me.z z with
      | none => exec (.vmovs n d) s = .next (s.raised ⟨0x1C, [z, 0, 0]⟩)
      | some r =>
        let p := r.pos + s.issue.pops.count z
        let sd := desc r.desc
        let parts := sd.parts p
        let reads := parts.map (sd.reads r.base)
        let inside := fun (x : Word × Nat) => x.1.toNat / 2 ^ 21 % 2 ^ 33 = 0 ∧ x.1.toNat % 2 ^ 21 + x.2 ≤ 2 ^ 21
        let kindOk := fun (x : Word × Nat) => ∀ j < x.2, (s.me.bfmtAt (x.1.toNat % 2 ^ 21 + j)).kind = if sd.exp then 2 else 0
        (sd.total ≤ p → exec (.vmovs n d) s = .next (s.raised ⟨0x1C, [z, 0, 0]⟩)) ∧
        (p < sd.total → (∃ x ∈ reads.flatten, ¬ inside x) → ∃ a, exec (.vmovs n d) s = .next (s.raised (addrTrouble 0x32 a))) ∧
        (p < sd.total → (∀ x ∈ reads.flatten, inside x ∧ 0 < x.2) →
          (∃ x ∈ parts, (sd.addr r.base x.1).toNat % (if sd.tr then sd.g else 64) ≠ 0) → ∃ a, exec (.vmovs n d) s = .next (s.raised (addrTrouble 0x33 a))) ∧
        (p < sd.total → (∀ x ∈ reads.flatten, inside x ∧ 0 < x.2) →
          (∀ x ∈ parts, (sd.addr r.base x.1).toNat % (if sd.tr then sd.g else 64) = 0) →
          ((∃ x ∈ reads.flatten, ¬ kindOk x) → ∃ a, exec (.vmovs n d) s = .next (s.raised (addrTrouble 0x34 a))) ∧
          ((∀ x ∈ reads.flatten, kindOk x) →
            let es := reads.flatMap fun l => sd.elems (l.map fun x => Mem.read s.me.spad (x.1.toNat % 2 ^ 21) x.2)
            ∃ us v fl t, exec (.vmovs n d) s = .next t.consumed ∧
              t.mine.pending.getLast? = some (s.result 2 (.vector (s.me.physv d.toNat) v (BitVec.allOnes 4096)) fl) ∧
              (es.length = 4096 / fmtWidth sd.tf → ∀ e < es.length, laneOf (fmtWidth sd.tf) v e = (sd.deliver (es.getD e (0, .nan false))).1 % 2 ^ fmtWidth sd.tf) ∧
              t = { s.onMine (fun k => { k with pending := t.mine.pending, z := t.mine.z }) with
                uses := s.uses ++ us, issue := { s.issue with pops := s.issue.pops ++ [z] } } ∧
              (s.issue.zset ≠ some z → t.mine.pending.dropLast = s.mine.pending ∧
                ∀ n, SMap.get? t.mine.z n = if n = z then (SMap.get? s.mine.z z).map (fun r => { r with pos := p + 1 }) else SMap.get? s.mine.z n)))) ∧
    (∀ i a z, match scratchCause s.unit 64 (s.sv a) with
      | some c => exec (.sbind i a z) s = .next (s.raised (addrTrouble c (s.sv a)))
      | none => if 63 < i.toNat ∨ SMap.get? s.me.descs i.toNat = none then exec (.sbind i a z) s = .next (s.raised ⟨0x47, [0, i.toNat, 0]⟩)
        else ∃ t, exec (.sbind i a z) s = .next t.consumed ∧ sets s z.toNat (some { desc := i.toNat, base := s.sv a, pos := 0 }) t) ∧
    (∀ z, ∃ t, exec (.sunbind z) s = .next t.consumed ∧ sets s z.toNat none t) ∧
    (∀ i a z, let pos := (wrap (sgn (s.sv a) + s.immS i)).toNat
      match SMap.get? s.me.z z.toNat with
      | none => exec (.sseek i a z) s = .next (s.raised ⟨0x1C, [z.toNat, 0, 0]⟩)
      | some r => if (desc r.desc).total < pos then exec (.sseek i a z) s = .next (s.raised ⟨0x47, [0, r.desc % 2 ^ 32, 0]⟩)
        else ∃ t, exec (.sseek i a z) s = .next t.consumed ∧ sets s z.toNat (some { r with pos := pos }) t) ∧
    (∀ i a z, let ea := wrap (sgn (s.sv a) + s.immS i)
      match scratchCause s.unit 16 ea with
      | some c => exec (.ssave i a z) s = .next (s.raised (addrTrouble c ea)) ∧ exec (.sload i a z) s = .next (s.raised (addrTrouble c ea))
      | none =>
        let off := ea.toNat % 2 ^ 21
        (∃ bs t, exec (.ssave i a z) s = .next t.consumed ∧ bs.length = 16 ∧
          leNat bs = (match SMap.get? s.mine.z z.toNat with
            | some r => r.base.toNat + 2 ^ 64 * (r.pos % 2 ^ 32) + 2 ^ 96 * (r.desc % 256) + 2 ^ 104
            | none => 0) ∧
          sets (s.onMine fun k => { k with pending := k.pending ++ [s.result 2 (.store off bs 0x08) 0] }) z.toNat none t) ∧
        let x := leNat (Mem.read s.me.spad off 16)
        let b : Word := BitVec.ofNat 64 x
        let u := s.touch 0x07 off 16 true true
        let d := x / 2 ^ 96 % 256
        if x = 0 then ∃ t, exec (.sload i a z) s = .next t.consumed ∧ sets u z.toNat none t
        else if x / 2 ^ 104 = 1 ∧ SMap.get? s.me.descs d ≠ none ∧ scratchCause s.unit 64 b = none ∧ x / 2 ^ 64 % 2 ^ 32 ≤ (desc d).total then
          ∃ t, exec (.sload i a z) s = .next t.consumed ∧ sets u z.toNat (some { desc := d, base := b, pos := x / 2 ^ 64 % 2 ^ 32 }) t
        else exec (.sload i a z) s = .next (u.raised ⟨0x47, [0, d, 0]⟩))

/-- Under a true guard CPL reads 128 bytes of the scratchpad into a slot after R114's checks at alignment 64, and CPA replaces a
slot's two pointers. CPGO, CPFP and CPCMP start a copy of the slot when the checks of R218 and R221 pass: it joins the engine
with its descriptor, cycle and result address, the slot completes after L cycles, and with SETF the banks of its destination take
FMTV; a failing check raises its cause and starts nothing. CPCHK raises 0x14 while its slot's copy is not complete. A copy starts
only from a well-formed descriptor of a legal pair of spaces (0x48), in confidential mode not from L2 into the weight buffer
(0x31), with SETF only on a scratchpad destination and a legal FMTV and EXP only on whole blocks and an unstrided source (0x48),
with every byte of both sides in its space and rank (0x32), aligned pointers (0x33), a legal result address (0x32, 0x33), fewer
than 128 copies in flight and no engine port in use in the same cycle (0x1D). The first that fails raises its cause. The bounds
of an EXP source are log 37, the write port held between a copy's writes log 38, sources and destinations that are no multiples
of 64 log 138, a CPL that runs past the end, which reads zero there, log 139, and FMTV checked with SETF = 0 log 140 (all
DEDUCED); RSTR with TR = 0 refused is log 167 (DESIGN CHOICE). -/
def Obligations.CopyWordsAndChecks : Prop :=
(
  ∀ (s : State), s.guardOn = true →
    let zero : Bytes := List.replicate 128 0
    (∀ c a, let off := (s.sv a).toNat % 2 ^ 21
      exec (.cpl c a) s = .next (match scratchCause s.unit 64 (s.sv a) with
        | some x => s.raised (addrTrouble x (s.sv a))
        | none => ((s.touch 0x09 off 128 true true).onMine fun k =>
            { k with slots := SMap.put k.slots c.toNat (Mem.read s.me.spad off 128) }).consumed)) ∧
    (∀ c b a, ∃ bs : Bytes, exec (.cpa c b a) s = .next (s.onMine fun k => { k with slots := SMap.put k.slots c.toNat bs }).consumed ∧
      leNat (bs.take 16) = (s.sv a).toNat + 2 ^ 64 * (s.sv b).toNat ∧ bs.drop 16 = (SMap.getD s.mine.slots c.toNat zero).drop 16) ∧
    (∀ c, exec (.cpchk c) s = .next (if SMap.getD s.me.slotDone c.toNat 0 ≤ s.now then s.consumed else s.raised ⟨0x14, [c.toNat, 0, 0]⟩)) ∧
    (∀ (i : Instr) (c : BitVec 4) (kind : Nat) (ra : Word),
      (i = .cpgo c ∧ kind = 1 ∧ ra = 0 ∨ ∃ a, (i = .cpfp c a ∧ kind = 2 ∨ i = .cpcmp c a ∧ kind = 3) ∧ ra = s.sv a) →
      let bs := SMap.getD s.me.slots c.toNat zero
      let d := copyDesc bs
      match startChecks s c.toNat kind ra bs with
      | .error e => exec i s = .next (s.raised e)
      | .ok addr => ∃ (x : Copy) (m : SMap Word), exec i s = .next (s.onMine fun k =>
            { k with copies := k.copies ++ [x], slotDone := SMap.put k.slotDone c.toNat (s.now + copyL x.conf d kind), bfmt := m }).consumed ∧
          x.desc = bs ∧ x.kind = kind ∧ x.slot = c.toNat ∧ x.start = s.now ∧ x.word = s.issue.word ∧ x.raddr = addr ∧
          x.conf = s.old.trust.conf ∧ x.buf = [] ∧ x.plain = [] ∧ x.cmp = 0 ∧
          ∀ b, SMap.getD m b 0 = if d.setf = true ∧ kind ≠ 3 ∧ ∃ j < d.bytes / 64, d.dstAt (64 * j) / 65536 = b then BitVec.ofNat 64 d.fmtv
            else SMap.getD s.mine.bfmt b 0)) ∧
  (
  ∀ (s : State) (slot kind : Nat) (ra : Word) (bs : Bytes),
    let d := copyDesc bs
    let conf := s.old.trust.conf
    let sp := fun (ea : Word) => ea.toNat / 2 ^ 61
    let e48 : Trouble := ⟨0x48, [slot, 0, 0]⟩
    let l2ToWeights := conf = true ∧ sp d.src = 3 ∧ sp d.dst = 4
    let options := (d.setf = true → sp d.dst = 1) ∧ fmtvOk d.fmtv = true ∧ (d.exp = true → d.bytes % 4096 = 0 ∧ ∀ l ∈ d.levels, l.sstr = 0)
    let bounds := (if d.exp then copyRankOk s.unit d.src else copyPtrOk s.unit d d.src (·.sstr)) = true
    let free := s.mine.copies.length < 128 ∧ ∀ c ∈ s.mine.copies,
      let p := copyPorts conf d s.now
      let q := copyPorts c.conf (copyDesc c.desc) c.start
      (p.1.2 < q.1.1 ∨ q.1.2 < p.1.1) ∧ (p.2.2 < q.2.1 ∨ q.2.2 < p.2.1)
    let r := startChecks s slot kind ra bs
    let align := if kind = 2 then 32 else 8
    let a1 := copyFieldsOk bs = true ∧ copyPairOk d kind = true
    let a2 := a1 ∧ ¬ l2ToWeights
    let a3 := a2 ∧ options
    let a4 := a3 ∧ bounds
    let a5 := a4 ∧ copyPtrOk s.unit d d.dst (·.dstr) = true
    let a6 := a5 ∧ d.src.toNat % 64 = 0
    let a7 := a6 ∧ d.dst.toNat % 64 = 0
    (¬ a1 → r = .error e48) ∧ (a1 → l2ToWeights → r = .error (addrTrouble 0x31 d.src)) ∧ (a2 → ¬ options → r = .error e48) ∧
    (a3 → ¬ bounds → r = .error (addrTrouble 0x32 d.src)) ∧
    (a4 → copyPtrOk s.unit d d.dst (·.dstr) = false → r = .error (addrTrouble 0x32 d.dst)) ∧
    (a5 → d.src.toNat % 64 ≠ 0 → r = .error (addrTrouble 0x33 d.src)) ∧ (a6 → d.dst.toNat % 64 ≠ 0 → r = .error (addrTrouble 0x33 d.dst)) ∧
    (a7 → ∀ c, kind ≠ 1 → scratchCause s.unit align ra = some c → r = .error (addrTrouble c ra)) ∧
    (a7 → (kind = 1 ∨ scratchCause s.unit align ra = none) →
      (¬ free → r = .error ⟨0x1D, [slot, 0, 0]⟩) ∧ (free → r = .ok (if kind = 1 then 0 else ra.toNat % 2 ^ 21))))

/-- In each cycle of its span every copy in flight reads sector i of its source as it stands before the cycle, writes sector i to
its destination (a landing with its tag in the scratchpad, bytes in L2 or the weight buffer) or compares it, or raises 0x49 for a
bad block, and drops what it buffered when its data is complete; a fingerprint writes its 32-byte digest, and a compare its
8-byte result, in the cycle before it completes; a copy whose latency has elapsed leaves the engine. A link transfer reads its
sectors the same way. Nothing else of the core or the module changes. Of the accesses of one core in a cycle a checked read of a
granule that a copy arms raises 0x13; failing that, accesses of two instructions or engines in one bank raise 0x12; failing both,
a tag that differs raises 0x11; and nothing else is raised. They are faults of the cycle. Says of copySectorRead,
copySectorWrite, copyDataComplete, copyCompletion that exec answers a next state, and which, under conditions on the state and
the operands alone. -/
def Obligations.CopyEvents : Prop :=
(∀ (s : State), let now := s.cur.gn s.unit
    (∃ us, ∃ cs : List Copy,
      exec .copySectorRead s = .next (s.cur.link.transfers.foldl readTransfer { s.onMine (fun k => { k with copies := cs }) with uses := s.uses ++ us }) ∧
      cs.length = s.mine.copies.length ∧ ∀ (j : Nat) (c : Copy), s.mine.copies[j]? = some c → ∃ c' : Copy, cs[j]? = some c' ∧ c'.desc = c.desc ∧ c'.start = c.start ∧
        (let d := copyDesc c.desc
         let x := now - (c.start + 1)
         c' = if c.reread = true ∨ now ≤ c.start then c
          else if d.exp then (if x < 17 * d.nb then (expStep s c d (x / 17) (x % 17)).2 else c)
          else if x < d.n then { c with buf := SMap.put c.buf x (s.old.copySector s.unit c.conf d c.kind x) } else c)) ∧
    (∀ x : Transfer, let i := now - x.start - 1
      let n := Nat.min 256 (64 * x.ngran - 256 * i)
      (x.core ≠ s.unit ∨ 64 * x.ngran ≤ x.data.length ∨ now ≤ x.start → readTransfer s x = s) ∧
      (x.core = s.unit → x.data.length < 64 * x.ngran → x.start < now → readTransfer s x =
        (s.touchBy 0x16 (x.src + 256 * i) n x.start (groupCopy x.start 0) true).onCur fun y =>
          (y.setTransfer x { x with data := x.data ++ Mem.read s.me.spad (x.src + 256 * i) n }).sendReady x.port x.peer)) ∧
    (let due := fun (c : Copy) => sectorDue c (copyDesc c.desc) (now - c.start)
     let out := fun (c : Copy) (i : Nat) => if (copyDesc c.desc).exp then
        ((SMap.get? c.plain (i / 16)).or (expandBlock (SMap.getD c.buf (i / 16) []))).map fun b => (b.drop (256 * (i % 16))).take 256
      else some (SMap.getD c.buf i [])
     let effect := fun (u : State) (c : Copy) => match due c with
      | none => u
      | some i => match out c i with
        | none => engineFault u ⟨0x49, [c.slot + 16 * (i / 16), 0, 0]⟩
        | some bs => if c.kind = 3 then u else
            (((copyDesc c.desc).units i).zip (chunks 64 bs)).foldl (fun t x => writeUnit t c (copyDesc c.desc) x.1 x.2) u
     ∃ cs : List Copy, exec .copySectorWrite s = .next ((s.mine.copies.foldl effect s).onMine fun k => { k with copies := cs }) ∧
      cs.length = s.mine.copies.length ∧ ∀ (j : Nat) (c : Copy), s.mine.copies[j]? = some c → ∃ c' : Copy, cs[j]? = some c' ∧
        c'.desc = c.desc ∧ c'.start = c.start ∧ (due c = none → c' = c) ∧
        ∀ i, due c = some i → (out c i = none → c' = c) ∧ ∀ bs, out c i = some bs →
          (c.kind = 3 → c'.cmp = if c.cmp = 0 then firstDiff (256 * i) (bs.take (bs.length / 2)) (bs.drop (bs.length / 2)) else c.cmp) ∧
          (c.kind ≠ 3 → c'.cmp = c.cmp) ∧
          ((copyDesc c.desc).exp = false → c'.buf = SMap.del c.buf i ∧ c'.plain = c.plain)) ∧
    (let f := fun (c : Copy) => if now = c.start + copyLD c.conf (copyDesc c.desc) then { c with buf := [], plain := [] } else c
     exec .copyDataComplete s = .next (s.onMine fun k => { k with copies := s.mine.copies.map f })) ∧
    (let fkey := (s.cur.ctx (s.cur.ctxOf s.unit)).fkey
     ∀ (i : Instr) (kind : Nat) (out : Copy → Bytes),
      (i = .copyDigestWrite ∧ kind = 2 ∧ out = (fun c => c.digest fkey) ∨ i = .copyResultWrite ∧ kind = 3 ∧ out = (fun c => natLe 8 c.cmp)) →
      exec i s = .next ((s.mine.copies.foldl (fun (u : State) c =>
        if c.kind = kind ∧ now + 1 = c.start + copyL c.conf (copyDesc c.desc) kind then
          (u.touchBy 0x0C c.raddr (out c).length c.start (groupCopy c.start c.slot) false).onMine fun k => { k with spad := Mem.write k.spad c.raddr (out c) }
        else u) s).onMine fun k => { k with copies := s.mine.copies })) ∧
    (let f := fun (c : Copy) => decide (now < c.start + copyL c.conf (copyDesc c.desc) c.kind)
     exec .copyCompletion s = .next (s.onMine fun k => { k with copies := k.copies.filter f })) ∧
    ∀ r ∈ bankReports s.old s.uses, r ∈ cycleFaults s) ∧
  ∀ (y : Sys) (l : List BankUse) (c : Nat), (∀ u ∈ l, u.core = c) →
    let rs := bankReports y l
    let early := fun (u : BankUse) (g : Nat) (p : Copy) => u.read = true ∧
      u.code ∈ ([0x01, 0x03, 0x04, 0x06, 0x07, 0x09, 0x0A, 0x0D, 0x0E, 0x0F, 0x10, 0x12, 0x16] : List Nat) ∧
      u.off / 64 ≤ g ∧ g ≤ (u.off + u.size - 1) / 64 ∧ p ∈ (y.core c).copies ∧ (copyDesc p.desc).chk = true ∧ p.kind ≠ 3 ∧
      spaceOf (copyDesc p.desc).dst = 1 ∧ p.start + 1 ≤ y.gn c ∧ y.gn c < p.start + copyLD p.conf (copyDesc p.desc) ∧
      ∃ j < (copyDesc p.desc).bytes / 64, (copyDesc p.desc).dstAt (64 * j) / 64 = g
    let meets := fun (u v : BankUse) => u.group ≠ v.group ∧ ∃ b, u.off / 65536 ≤ b ∧ b ≤ (u.off + u.size - 1) / 65536 ∧
      v.off / 65536 ≤ b ∧ b ≤ (v.off + v.size - 1) / 65536
    let wrong := fun (u : BankUse) (t : Nat × Nat) => u.tag = some t ∧ (y.core c).tag (t.1 / 64) ≠ t.2
    (∀ u ∈ l, (∃ g p, early u g p) → ∃ r ∈ rs, r.cause = 0x13 ∧ r.word = u.word.getD 0) ∧
    ((∀ u ∈ l, ∀ g p, ¬ early u g p) →
      ((∃ u ∈ l, ∃ v ∈ l, meets u v) → ∃ r ∈ rs, r.cause = 0x12) ∧
      ((∀ u ∈ l, ∀ v ∈ l, ¬ meets u v) → ∀ u ∈ l, ∀ t, wrong u t → ∃ r ∈ rs, r.cause = 0x11 ∧ r.word = u.word.getD 0)) ∧
    ∀ r ∈ rs,
      (∃ u ∈ l, ∃ g p, early u g p ∧ r = u.report y 0x13 [g / 1024 + 2 ^ 8 * u.code + 2 ^ 16 * 0x0B, g, p.slot]) ∨
      (∃ u ∈ l, ∃ v ∈ l, meets u v ∧ ∃ b, r = u.report y 0x12 [b + 2 ^ 8 * u.code + 2 ^ 16 * v.code, u.granuleIn b, 0xFF]) ∨
      ∃ u ∈ l, ∃ t, wrong u t ∧ r = u.report y 0x11 [t.2 + 2 ^ 16 * ((y.core c).tag (t.1 / 64) % 4096), t.1 / 64, 0]

/-- Under a true guard BARR raises 0x1F on a reference with a reserved bit or EXP 0, SACQ and SREL on a stage reference with a
reserved bit; otherwise each puts one operation of its core in its kernel, to count 24 cycles later, and changes nothing else.
BCHK raises 0x1F on a reserved bit and when the phase it names is not complete, a phase being complete while 1 to 2^31
completions have passed it, and otherwise does nothing. An arrival counts in the current or the next phase of its barrier when
its EXP agrees with the phase's, and faults otherwise; a phase whose arrivals reach EXP completes and the next phase's become
current, and more arrivals than EXP fault. A SACQ takes a free slot that is full exactly when it consumes, and an SREL of its
owner in the same mode gives it back filled or drained; any other raises 0x1F. The counting events take the due operations of a
running kernel, in order, and change nothing but that kernel. -/
def Obligations.BarriersAndStages : Prop :=
(
  ∀ (s : State), s.guardOn = true → ∀ a : BitVec 6,
    let v := (s.sv a).toNat
    let bad := s.raised ⟨0x1F, [v % 2 ^ 32, 0, 0]⟩
    let barrierBits := v / 2 ^ 7 % 2 = 0 ∧ v / 2 ^ 24 % 256 = 0
    let stageBits := v / 2 ^ 17 = 0 ∧ v / 2 ^ 14 % 4 = 0 ∧ v / 2 ^ 3 % 32 = 0
    let later := fun (op : Nat) => match s.me.kernel with
      | none => s
      | some q => match SMap.get? s.cur.kernels q with
        | none => s
        | some x =>
          let o : SyncOp := { count := s.now + 24, issue := s.now, core := s.unit, op := op, value := s.sv a }
          s.onCur fun y => { y with kernels := SMap.put y.kernels q { x with ops := x.ops ++ [o] } }
    let b := match s.me.kernel.bind s.cur.kern with
      | some x => SMap.getD x.barriers (v % 64) Barrier.reset
      | none => Barrier.reset
    let passed := ((b.done : Int) - (v / 2 ^ 32 : Nat)) % 2 ^ 32
    exec (.barr a) s = .next (if barrierBits ∧ v / 2 ^ 8 % 2 ^ 16 ≠ 0 then (later 0).consumed else bad) ∧
    exec (.sacq a) s = .next (if stageBits then (later 2).consumed else bad) ∧
    exec (.srel a) s = .next (if stageBits then (later 3).consumed else bad) ∧
    exec (.bchk a) s = .next (if barrierBits ∧ 1 ≤ passed ∧ passed ≤ 2 ^ 31 then s.consumed else bad)) ∧
  (
  (∀ (b : Barrier) (p e : Nat) (remote : Bool), b.count p e remote =
    if p = b.done ∧ (b.exp = none ∨ b.exp = some e) then some { b with exp := some e, arr := b.arr + 1, remote := b.remote || remote }
    else if p ≠ b.done ∧ p = (b.done + 1) % 2 ^ 32 ∧ (b.expn = none ∨ b.expn = some e) then
      some { b with expn := some e, arrn := b.arrn + 1, remoten := b.remoten || remote }
    else none) ∧
  (∀ (b : Barrier) (e : Nat), b.exp = some e →
    (e < b.arr → b.finish = none) ∧ (b.arr < e → b.finish = some b) ∧
    (b.arr = e → b.finish = some { done := (b.done + 1) % 2 ^ 32, arr := b.arrn, exp := b.expn, arrn := 0, expn := none, remote := b.remoten,
                                   remoten := false, last := b.lastn, lastn := none })) ∧
  (∀ (r : RingSlot) (self mode : Nat),
    r.count 2 self mode = (if r.owner = none ∧ r.full = (mode == 1) then some { r with owner := some self, mode := mode } else none) ∧
    r.count 3 self mode = (if r.owner = some self ∧ r.mode = mode then some { full := mode == 0, owner := none, mode := r.mode } else none)) ∧
  (∀ (s : State) (q : Nat) (x : Kernel), s.cur.kern q = some x →
    let due := fun kinds => s.cur.dueOps x kinds
    let left := fun (l : List SyncOp) => s.onCur fun y => y.setKern q { x with ops := x.ops.filter fun o => !l.contains o }
    (∀ o y, due [0, 4] = [o] → x.countOp (s.cur.core o.core).number o = some y → ∀ z, { y with ops := x.ops.filter fun p => !([o] : List SyncOp).contains p }.finish = .ok z →
      exec (.barrierArrivalCount q) s = .next (s.onCur fun w => w.setKern q z)) ∧
    (∀ o, due [0, 4] = [o] → x.countOp (s.cur.core o.core).number o = none → ∃ t, exec (.barrierArrivalCount q) s = .next t ∧
      ∃ r ∈ t.faults, r.cause = 0x1F ∧ r.coreNo = o.core) ∧
    (∀ o y, due [0, 4] = [o] → x.countOp (s.cur.core o.core).number o = some y → ∃ t, exec (.barrierArrivalCount q) s = .next t ∧
      ∀ b ∈ y.barriers, ∀ e l, b.2.exp = some e → e < b.2.arr → b.2.last = some l →
        ∃ r ∈ t.faults, r.cause = 0x1F ∧ r.coreNo = l.1 ∧ r.detail.headD 0 = l.2.toNat % 2 ^ 32) ∧
    (∀ o y, x.ops.filter (fun o => (o.op == 2 || o.op == 3) && o.count ≤ s.cur.kernelNow x) = [o] → x.countOp (s.cur.core o.core).number o = some y →
      exec (.stageOperationCount q) s = .next (s.onCur fun w => w.setKern q { y with ops := x.ops.filter fun p => !([o] : List SyncOp).contains p })) ∧
    (∀ o, x.ops.filter (fun o => (o.op == 2 || o.op == 3) && o.count ≤ s.cur.kernelNow x) = [o] → x.countOp (s.cur.core o.core).number o = none →
      exec (.stageOperationCount q) s = .next (syncFault (left [o]) o))))

/-- Under a true guard ENQ appends its 64-byte entry to its kernel's successors when the queue belongs to the context and fewer
than sixteen are listed (0x31), and GSIG raises a signal word of its queue to at least its value. DICTLD checks its header
(0x0A), its range (0x32) and every bundle, then writes exactly its entries of the cluster's dictionary. STEP sets STEPNO at its
step's cycle and raises 0x10 at another. HOLD raises 0x1E outside a step bundle, and its bar form 0x1F on a reserved bit. Says of
enq, gsig, dictld, step, holdOut, holdBar that exec answers a next state, and which, under conditions on the state and the
operands alone. That the 0x0A of a DICTLD header or range has detail 0 is log 81 (DEDUCED). That raises of one cycle wait for the
accesses of all their cores is log 164. -/
def Obligations.KernelWords : Prop :=
∀ (s : State), s.guardOn = true →
    (∀ i a, let ea := s.sv a
      match scratchCause s.unit 64 ea with
      | some c => exec (.enq i a) s = .next (s.raised (addrTrouble c ea))
      | none => exec (.enq i a) s = .next (match s.kernel with
        | none => s.raised (addrTrouble 0x31 ea)
        | some (q, x) => if 0 ≤ s.immS i ∧ (s.immS i).toNat ∈ (s.cur.ctx x.ctx).queues ∧ x.succ.length < 16 then
            ((s.touch 0x13 (ea.toNat % 2 ^ 21) 64 true false).onCur fun y => y.setKern q
              { x with succ := x.succ ++ [(16 * x.ctx + (s.immS i).toNat, Mem.read s.me.spad (ea.toNat % 2 ^ 21) 64)] }).consumed
          else s.raised (addrTrouble 0x31 ea))) ∧
    (∀ i a q x y, s.kernel = some (q, x) → s.cur.queue x.queue = some y → ∃ z : Queue,
      exec (.gsig i a) s = .next (s.onCur fun w => w.setQueue x.queue z).consumed ∧
      (∀ n, (SMap.getD z.sigs n 0).toNat = if n = i.toNat then Nat.max (SMap.getD y.sigs n 0).toNat (s.sv a).toNat else (SMap.getD y.sigs n 0).toNat) ∧
      z = { y with sigs := z.sigs, raises := z.raises }) ∧
    (∀ i a, let ea := wrap (sgn (s.sv a) + s.immS i)
      let off := ea.toNat % 2 ^ 21
      let h := leNat (Mem.read s.me.spad off 64)
      let first := h % 2 ^ 13
      let count := h / 2 ^ 16 % 2 ^ 13
      let u := s.touch 0x12 off (64 + 48 * count) true false
      let bundle := fun j => BitVec.ofNat 384 (leNat (Mem.read s.me.spad (off + 64 + 48 * j) 48))
      match scratchCause s.unit 64 ea with
      | some c => exec (.dictld i a) s = .next (s.raised (addrTrouble c ea))
      | none =>
        if h ≠ first + 2 ^ 16 * count ∨ first = 0 ∨ count = 0 ∨ 8192 < first + count then exec (.dictld i a) s = .next (s.raised (trouble 0x0A))
        else if 2 ^ 21 < off + 64 + 48 * count then exec (.dictld i a) s = .next (s.raised (addrTrouble 0x32 ea))
        else
          (∀ j < count, (∀ k < j, validateBundle (bundle k) = none) → ∀ w c, validateBundle (bundle j) = some (w, c) →
            exec (.dictld i a) s = .next (u.raised ⟨c, [first + j + 2 ^ 13 * w, 0, 0]⟩)) ∧
          ((∀ j < count, validateBundle (bundle j) = none) → ∃ m,
            exec (.dictld i a) s = .next (u.onCur fun y => y.setCluster (s.unit / 8) { y.cluster (s.unit / 8) with dict := m }).consumed ∧
            ∀ n, SMap.getD m n emptyBundleBits = if first ≤ n ∧ n < first + count then bundle (n - first)
              else SMap.getD (s.cur.cluster (s.unit / 8)).dict n emptyBundleBits)) ∧
    (∀ n, if n.toNat < nstepOf s.sections then
        exec (.step n) s = .next (if stepCycle s.sections n.toNat = s.rel then
            (s.onMine fun k => { k with csr := { k.csr with stepno := n.setWidth 64 } }).consumed
          else s.raised ⟨0x10, [(stepCycle s.sections n.toNat + 2 ^ 32 - s.rel % 2 ^ 32) % 2 ^ 32, 0, 0]⟩)
      else ∃ d, exec (.step n) s = .next ({ s with fresh := s.fresh + 1 }.raised ⟨0x10, [d, 0, 0]⟩)) ∧
    (let inStep := (stepAt s.sections s.rel).isSome = true
     exec .holdOut s = .next (if inStep then s.consumed else s.raised (trouble 0x1E)) ∧
     ∀ a, let v := (s.sv a).toNat
      exec (.holdBar a) s = .next (if ¬ inStep then s.raised (trouble 0x1E)
        else if v / 2 ^ 7 % 2 = 0 ∧ v / 2 ^ 24 % 256 = 0 then s.consumed else s.raised ⟨0x1F, [v % 2 ^ 32, 0, 0]⟩))

/-- Under a true guard each of the four raises 0x32 or 0x33 on its block's address, 0x17 with 64 accesses outstanding and 0x35 on
a block that Table 16.6 does not permit; otherwise one page request of its core, with its block and landing granule, joins the
requests for firmware, and OUTST.COUNT rises by one. Nothing else changes: no translation, frame or page. -/
def Obligations.PageRequestWords : Prop :=
∀ (s : State), s.guardOn = true → ∀ (i : BitVec 12) (a : BitVec 6) (op : Nat) (j : Instr),
    (j = .tlbinv i a ∧ op = 3 ∨ j = .pgrel i a ∧ op = 4 ∨ j = .pgacc i a ∧ op = 5 ∨ j = .pgattr i a ∧ op = 6) →
    let ea := wrap (sgn (s.sv a) + s.immS i)
    let off := ea.toNat % 2 ^ 21
    let bs := Mem.read s.me.spad off 64
    let va := fieldLe bs 0 8 % 2 ^ 61
    let arg := fieldLe bs 8 8
    let aux := fieldLe bs 16 8
    let sub := fieldLe bs 24 1
    let legal := (∀ k < 39, Mem.get s.me.spad (off + 25 + k) = 0) ∧ va < 2 ^ 54 ∧
      (op = 3 ∧ sub = 0 ∧ va % 4096 = 0 ∧ arg = 0 ∧ aux % 4096 = 0 ∧ 4096 ≤ aux ∧ aux ≤ 2 ^ 40 ∨
       op = 4 ∧ sub = 0 ∧ va % 4096 = 0 ∧ arg = 0 ∧ aux = 0 ∨ op = 5 ∧ sub = 0 ∧ va % 4096 = 0 ∧ codeOk aux = true ∨
       op = 6 ∧ sub = 0 ∧ va % 4096 = 0 ∧ codeOk arg = true ∧ aux = 0 ∨
       op = 6 ∧ sub = 1 ∧ va % 4096 = 0 ∧ arg % 2 ^ 61 % 4096 = 0 ∧ arg % 2 ^ 61 < 2 ^ 54 ∧ aux = 0 ∨ op = 6 ∧ sub = 2 ∧ arg = 0 ∧ aux = 0)
    match scratchCause s.unit 64 ea with
    | some c => exec j s = .next (s.raised (addrTrouble c ea))
    | none =>
      if 64 ≤ s.me.csr.outst.toNat + s.issue.sent then exec j s = .next (s.raised (trouble 0x17))
      else
        (¬ legal → exec j s = .next ((s.touch 0x14 off 64 true false).raised (addrTrouble 0x35 ea))) ∧
        (legal →
          let r : PageReq := { hub := s.cur.hub, req := none, core := s.unit, ctx := s.old.ctxOf s.unit, op := op, block := bs, lp := off,
                               tag := s.now % 4096, ranges := [], acks := [], waits := [], dropped := 0, started := false }
          exec j s = .next ((s.touch 0x14 off 64 true false).onCur fun y => { y with pageReqs := y.pageReqs ++ [r] }).countOut.consumed)

/-- Under a true guard, after their checks in order (0x32, 0x33, 0x51 for an illegal block, 0x50 for an unusable port, 0x55 for a
busy window, 0x51 for an unknown window, 0x17), LOPEN sets one landing window and sends its window-open flit, LSEND adds one
transfer and counts it, and LREJOIN adds one rejoin, sets its ports rejoining and counts it. LCHK raises 0x51 for no window, 0x55
for one not finished and 0x52 for a failed one, and otherwise frees the window. A failing word changes nothing. Of a landing, as
the window block's, the bytes that a timed write of the same cycle wrote stand. Says of lopen, lsend, lchk, lrejoin that exec
answers a next state, and which, under conditions on the state and the operands alone. LREJOIN's 0x50 before 0x17, with the peer
of the first port at fault, is log 40, and that LOPEN leaves what stands in bytes 33 to 35 and 44 to 47 unchecked log 144 (both
DEDUCED). -/
def Obligations.LinkWords : Prop :=
(∀ (k : Core) (g : Core → Core) (x : Nat),
      ((∀ w ∈ k.wrote, x < w.1 ∨ w.1 + w.2.1 ≤ x) → Mem.get (k.landing g).spad x = Mem.get (g k).spad x) ∧
      ((∃ w ∈ k.wrote, w.1 ≤ x ∧ x < w.1 + w.2.1) → Mem.get (k.landing g).spad x = Mem.get k.spad x)) ∧
  ∀ (s : State), s.guardOn = true →
    (∀ n, 15 < n.toNat → exec (.lchk n) s = .next (s.raised (trouble 0x01))) ∧
    (∀ n, n.toNat ≤ 15 → exec (.lchk n) s = .next (match SMap.get? s.me.wins n.toNat with
      | none => s.raised (linkTrouble 0x51 0 0 0 0)
      | some w => if w.state = 1 ∨ w.state = 2 ∨ w.state = 6 then s.raised (linkTrouble 0x55 w.port w.xfer w.peer w.step)
        else if w.state ≠ 3 then s.raised (linkTrouble 0x52 w.port w.xfer w.peer w.step)
        else (s.onMine fun k => { k with wins := SMap.del k.wins n.toNat }).consumed)) ∧
    ∀ (i : BitVec 12) (a : BitVec 6),
      let ea := wrap (sgn (s.sv a) + s.immS i)
      let off := ea.toNat % 2 ^ 21
      let bs := Mem.read s.me.spad off 64
      let u := s.touch 0x15 off 64 true false
      let f := fun o n => fieldLe bs o n
      let full := 64 ≤ s.me.csr.outst.toNat + s.issue.sent
      match scratchCause s.unit 64 ea with
      | some c => exec (.lopen i a) s = .next (s.raised (addrTrouble c ea)) ∧ exec (.lsend i a) s = .next (s.raised (addrTrouble c ea)) ∧
          exec (.lrejoin i a) s = .next (s.raised (addrTrouble c ea))
      | none =>
        (let w : LandWin := { block := bs, granule := off, tag := s.now % 4096, written := [] }
         let e := fun c => linkTrouble c (f 14 1) (f 16 3) (f 12 2) w.step
         let busy := match SMap.get? s.me.wins (f 15 1) with
           | some v => v.state ≠ 3 ∧ v.state ≠ 4 ∧ v.state ≠ 5
           | none => False
         (windowOk s bs = false → exec (.lopen i a) s = .next (u.raised (e 0x51))) ∧
         (windowOk s bs = true → (s.old.port (f 14 1)).usable = false → exec (.lopen i a) s = .next (u.raised (e 0x50))) ∧
         (windowOk s bs = true → (s.old.port (f 14 1)).usable = true → busy → exec (.lopen i a) s = .next (u.raised (e 0x55))) ∧
         (windowOk s bs = true → (s.old.port (f 14 1)).usable = true → ¬ busy → ∃ v : LandWin,
           (v = w.change 1 0 0 ∨ ∃ p, (s.old.port (f 14 1)).peerStep w.peer w.coll = some p ∧ v = w.change 6 0 p) ∧
           exec (.lopen i a) s = .next ((u.landMine fun k => k.putWin (f 15 1) v).onCur fun y =>
             y.sendFlit (f 14 1) (openFlit v (f 15 1) s.me.number false)).consumed)) ∧
        (let e := fun c => linkTrouble c (f 14 1) (f 16 3) (f 12 2) 0
         let legal := blockRange s.unit (BitVec.ofNat 64 (f 0 8)) (f 8 4) = true ∧ f 12 2 ≤ 319 ∧ f 12 2 ≠ s.old.trust.module ∧ f 14 1 ≤ 23 ∧
           f 15 1 ≤ 15 ∧ zeros bs 19 1 = true ∧ zeros bs 22 42 = true
         let known := ∃ k ∈ s.old.link.known, k.peer = f 12 2 ∧ k.dcore = f 20 2 ∧ k.win = f 15 1 ∧ k.xfer = f 16 3 ∧ k.ngran = f 8 4
         let port := (s.old.port (f 14 1)).usable
         (¬ legal → exec (.lsend i a) s = .next (u.raised (e 0x51))) ∧
         (legal → port = false → exec (.lsend i a) s = .next (u.raised (e 0x50))) ∧
         (legal → port = true → ¬ known → exec (.lsend i a) s = .next (u.raised (e 0x51))) ∧
         (legal → port = true → known → full → exec (.lsend i a) s = .next (u.raised (trouble 0x17))) ∧
         (legal → port = true → known → ¬ full →
           let x : Transfer := { core := s.unit, block := off, start := s.now, src := f 0 8 % 2 ^ 21, port := f 14 1, peer := f 12 2,
                                 dcore := f 20 2, win := f 15 1, xfer := f 16 3, ngran := f 8 4, data := [], sent := false, resends := 0 }
           exec (.lsend i a) s = .next (u.onCur fun y => { y with link := { y.link with transfers := y.link.transfers ++ [x] } }).countOut.consumed)) ∧
        (let mask := f 0 4
         let legal := mask ≠ 0 ∧ mask < 2 ^ 24 ∧ zeros bs 6 2 = true ∧ zeros bs 12 52 = true
         (¬ legal → exec (.lrejoin i a) s = .next (u.raised (linkTrouble 0x51 0 0 0 (f 8 4)))) ∧
         (∀ p < 24, legal → mask.testBit p = true → (s.old.port p).usable = false → (∀ j < p, mask.testBit j = true → (s.old.port j).usable = true) →
           exec (.lrejoin i a) s = .next (u.raised (linkTrouble 0x50 p 0 ((s.old.port p).peer.getD 0) (f 8 4)))) ∧
         (legal → (∀ p < 24, mask.testBit p = true → (s.old.port p).usable = true) → full → exec (.lrejoin i a) s = .next (u.raised (trouble 0x17))) ∧
         (legal → (∀ p < 24, mask.testBit p = true → (s.old.port p).usable = true) → ¬ full → ∃ y,
           exec (.lrejoin i a) s = .next (u.onCur fun _ => y).countOut.consumed ∧
           (∀ p < 24, mask.testBit p = true → (y.port p).state = .rejoining) ∧ (∀ p, (24 ≤ p ∨ mask.testBit p = false) → y.port p = s.cur.port p) ∧
           y.link.rejoins = s.cur.link.rejoins ++ [{ core := s.unit, block := off, start := s.now, coll := f 4 2, step := f 8 4,
                                                     waiting := maskPorts mask, refused := false }] ∧
           y = { s.cur with link := { s.cur.link with ports := y.link.ports, rejoins := y.link.rejoins } }))

/-- Each row-class command checks, at its tick, that it is its pseudo-channel's only row command of the tick and then the rules
of its own description, in the order that the model gives them (log 39). The first that does not hold raises its cause with its
code of Table 11.5b, the command changes nothing and the stack passes to the hold timeline. Otherwise exactly the banks,
occupation, split, queue or activation record that it names change on its pseudo-channel. RDL and WRL raise the first rule of
R240, R243 and R244 that does not hold, in the model's order (log 39). Otherwise RDL reads its 64 bytes of HBM, to land in its
line after 40 ticks and the burst, or as uncorrectable, and WRL takes its line, to be in its column after 8 ticks and the burst;
each records its command on its bank and pseudo-channel only. SEAM raises 0x27 for a second one of its tick and 0x29 unless every
pseudo-channel is quiet and no engine runs; the last word of a timeline hands the stack to the idle timeline. Which of several
broken rules is reported, that is the order of the lists of rules and of SEAM's checks, is the model's own, log 39 (DESIGN
CHOICE): the rules R238 to R250 give no order. PREA beside a REFPB is log 169, and a column command in the tick of its bank's PRE
log 170 (both DESIGN CHOICE). -/
def Obligations.RowAndColumnCommands : Prop :=
(
  ∀ (s : State) (i : Instr) (p : BitVec 6) (d : Pch),
    let w := s.wtick
    let c := fun (p : BitVec 6) => s.stack.pch p.toNat
    (rowEffect s w (c p) i = some (p, d)) →
    exec i s = .next (match firstBroken (((c p).rowCmd != some w, 0x27, 38) :: rowRules (c p) w i) with
      | some (cause, code) => s.broke cause code p.toNat s.stack.word
      | none => s.commanded p.toNat fun _ => { d with rowCmd := some w })) ∧
  (
  ∀ (s : State), let w := s.wtick
    exec .mnop s = .next (s.onStack fun x => { x with seam := none }) ∧
    (∀ (pch b : BitVec 6) (col : BitVec 4) (cl : BitVec 5) (line : BitVec 17), let p := pch.toNat
      let c := s.stack.pch p
      let row := match (c.bank b.toNat).mode with
        | .opened r => r
        | _ => 0
      let pa := addressOf { stack := s.unit, pch := p, bank := b.toNat, row := row, byte := 64 * col.toNat }
      let cols := fun read => (c.cols.filter fun x => decide (w < x.1 + 22)) ++ [(w, b.toNat / 4, read)]
      let t := s.stack.tick + 40 + tBLR c.split
      let done := w + 8 + (tBLW c.split).getD 0
      (match firstBroken (columnRules c w b.toNat true) with
        | some (cause, code) => exec (.rdl pch b col cl line) s = .next (s.broke cause code p s.stack.word)
        | none => ∃ l : LineLand, exec (.rdl pch b col cl line) s = .next ((s.commanded p fun c =>
              { c.setBank b.toNat { c.bank b.toNat with rdl := some w } with
                colCmd := some w, cols := cols true, readEnd := Nat.max c.readEnd (w + 40 + tBLR c.split) }).onStack
                  fun x => { x with lands := x.lands ++ [l] }) ∧
            l.cluster = cl.toNat ∧ l.line = line.toNat ∧ l.tick = t ∧ l.cycle = (t - 1) / 2 ∧ l.pa = pa ∧
            l.bytes = if s.cur.poisoned pa = true then none else some (Mem.read s.cur.hbm pa 64)) ∧
      (match firstBroken (columnRules c w b.toNat false) with
        | some (cause, code) => exec (.wrl pch b col cl line) s = .next (s.broke cause code p s.stack.word)
        | none => exec (.wrl pch b col cl line) s = .next ((s.commanded p fun c =>
              { c.setBank b.toNat { c.bank b.toNat with wrlEnd := some done } with
                colCmd := some w, cols := cols false, writeEnd := Nat.max c.writeEnd done }).onStack
                  fun x => { x with writes := x.writes ++ [{ pa := pa, done := done, bytes := s.lineOf cl.toNat line.toNat }] }))) ∧
    (∀ n, let x := s.stack
      let quiet := ∀ c ∈ x.pchs, (∀ b ∈ c.2.banks, b.2.opened = false ∧ b.2.inRefresh w = false ∧ b.2.pre ≠ some w) ∧ c.2.readEnd ≤ w ∧ c.2.writeEnd ≤ w ∧
        c.2.idleAt w = true ∧ c.2.lturn = none ∧ c.2.noIssue = true ∧ c.2.nbFlag = false
      (x.seamCmd = some w → exec (.seam n) s = .next (s.broke 0x27 38 0 x.word)) ∧
      let still := ∀ e ∈ x.engines, e.endTick < x.tick
      (x.seamCmd ≠ some w → ¬ (quiet ∧ still) → ∃ p, exec (.seam n) s = .next (s.broke 0x29 43 p x.word)) ∧
      (x.seamCmd ≠ some w → quiet → still → exec (.seam n) s = .next (s.onStack fun _ =>
        let y := { x with seam := some n.toNat, seams := x.seams + 1, seamCmd := some w }
        if x.pos = x.prog.length then y.takenBy .idle (w + 1) else y))))

/-- NBLD raises the first rule that does not hold, or 0x42 at the first word of its line that may not be loaded, and otherwise
writes exactly the sixteen words of its store line. An engine command raises 0x27 beside another of its tick, 0x2B while an
engine runs, the window rules, and 0x4C for a gather list that leaves its form; otherwise its engine runs for 119 ticks and 8 per
unit, with its output lines, or a fault to raise at the end, and occupies its pseudo-channel. While an issue steps on the
pseudo-channel in turn, a word whose row leaves the compute frame of the base row, or whose step passes 31, raises 0x4A and ends
the issue. Otherwise NBCAST loads the broadcast registers from the lowest bank, NMAC adds sixteen exact products a bank with one
rounding each, NACC sums the lanes exactly, NWB fills a write-back slot, NCLR clears a latch, NLOOP goes back while its counter
is below its count, and NEND ends the issue; units of other banks and memory do not change. The order of the rules (NBLD's code
40 before 39 among them) is log 39 (DESIGN CHOICE), and that the engine's 0x70 is kept to the end of its window log 41 (DEDUCED). -/
def Obligations.NearBankCommandsAndWords : Prop :=
(
  ∀ (s : State), let w := s.wtick
    (∀ (pch : BitVec 6) (wg : BitVec 4) (cl : BitVec 5) (line : BitVec 17), let p := pch.toNat
      let c := s.stack.pch p
      let word := fun j => (BitVec.ofNat 32 (leNat (s.lineOf cl.toNat line.toNat) / 2 ^ (32 * j)) : Word32)
      match firstBroken [(c.rowCmd != some w, 0x27, 38), (c.idleAt w, 0x27, 37), (c.noIssue, 0x28, 40)] with
      | some (cause, code) => exec (.nbld pch wg cl line) s = .next (s.broke cause code p s.stack.word)
      | none =>
        (∀ j < 16, decodeNb (word j) = none → (∀ k < j, decodeNb (word k) ≠ none) →
          exec (.nbld pch wg cl line) s = .next (s.broke 0x42 0 p (16 * wg.toNat + j))) ∧
        ((∀ j < 16, decodeNb (word j) ≠ none) → ∃ m,
          exec (.nbld pch wg cl line) s = .next (s.commanded p fun c => { c with rowCmd := some w, store := m }) ∧
          ∀ n, SMap.getD m n nbEndWord = if 16 * wg.toNat ≤ n ∧ n < 16 * wg.toNat + 16 then word (n - 16 * wg.toNat)
            else SMap.getD c.store n nbEndWord)) ∧
    (∀ (desc : BitVec 12) (i : Instr) (eng : Nat), (i = .bgath desc ∧ eng = 1 ∨ i = .bred desc ∧ eng = 2 ∨ i = .bconv desc ∧ eng = 3) →
      let d := engineDesc (s.stack.descs.getD desc.toNat [])
      let x := s.stack
      let lineAt := fun i => s.lineOf (l2Loc d.a).1 ((l2Loc d.a).2 + i)
      let list := gatherList d lineAt
      let addrs := if eng = 1 then list.map fun e => unitAddr s.unit d.pch (hbmLoc e) 0
        else (List.range d.units).map (unitAddr s.unit d.pch (hbmLoc d.h))
      match firstBroken ([(x.engCmd != some w, 0x27, 38), (x.engines.all fun e => decide (e.endTick < x.tick), 0x2B, 46)] ++ openRules (x.pch d.pch) w ++
          [(eng != 1 || list.all hbmLocOk, 0x4C, 0)]) with
      | some (cause, code) => exec i s = .next (s.broke cause code d.pch (if cause = 0x4C then desc.toNat else x.word))
      | none => ∃ r : EngineRun, exec i s = .next ((s.commanded d.pch fun c => { c with busy := some (w + 120 + 8 * d.units, .engine) }).onStack
            fun x => { x with engines := x.engines ++ [r], engCmd := some w }) ∧
          r.endTick = x.tick + 119 + 8 * d.units ∧ r.cycle = r.endTick / 2 ∧ r.pch = d.pch ∧ r.desc = desc.toNat ∧
          (match addrs.find? fun a => s.cur.poisoned a with
           | some a => r.out = [] ∧ r.fault = some (0x70, (placeOf a).row)
           | none => let o := engineOut d lineAt (addrs.map fun a => Mem.read s.cur.hbm a 64)
             r.out.map (·.2.2) = o.1 ∧ r.fault = (if o.2 then some (0x49, desc.toNat) else none) ∧
             ∀ j < o.1.length, ((r.out.map fun l => (l.1, l.2.1))[j]? = some ((l2Loc d.d).1, (l2Loc d.d).2 + j))))) ∧
  (
  ∀ (s : State) (r : NbRun),
    let k := s.unit / 64
    let p := s.unit % 64
    let c := (s.cur.stk k).pch p
    c.cur = some r →
    let fails := fun i => exec i s = .next (nbFault s k p r.pc 0x4A)
    let goes := fun (i : Instr) (pc loopc : Nat) (ended : Bool) (us : SMap NbUnit) => exec i s = .next (s.onStk k fun y => y.setPch p
      { c with units := us, loopc := loopc, cur := some { r with pc := pc, n := r.n + 1, ended := ended } })
    let mine := fun b => 16 * r.issue.lg ≤ b ∧ b < 16 * r.issue.lg + 16
    let unit := fun (us : SMap NbUnit) (b : Nat) => SMap.getD us b NbUnit.reset
    let every := fun (us : SMap NbUnit) (f : Nat → NbUnit → NbUnit → Prop) =>
      ∀ b, if mine b then f b (unit c.units b) (unit us b) else unit us b = unit c.units b
    let row := fun (x : BitVec 14) => r.issue.g0 + x.toNat
    let inFrame := fun (x : BitVec 14) => row x / 128 = r.issue.g0 / 128
    let data := fun (b : Nat) (x : BitVec 14) (n : Nat) =>
      leNat (Mem.read s.cur.hbm (addressOf { stack := k, pch := p, bank := b, row := row x, byte := 32 * n }) 32)
    (∀ x y, let n := y.toNat + c.loopc
      (¬ inFrame x ∨ 31 < n → fails (.nbcast x y) ∧ ∀ l, fails (.nmac x y l)) ∧
      (inFrame x → n ≤ 31 →
        (∃ us, goes (.nbcast x y) (r.pc + 1) c.loopc false us ∧
          every us fun _ u v => v = { u with bc := BitVec.ofNat 256 (data (16 * r.issue.lg) x n) }) ∧
        ∀ l, ∃ us, goes (.nmac x y l) (r.pc + 1) c.loopc false us ∧ every us fun b u v => v.bc = u.bc ∧ v.slots = u.slots ∧
          (∀ m, m ≠ l.toNat → v.latch m = u.latch m) ∧ ∀ j < 16, ((v.latch l.toNat).extractLsb' (32 * j) 32).toNat =
            nmacLane ((u.latch l.toNat).extractLsb' (32 * j) 32).toNat (data b x n / 2 ^ (16 * j) % 2 ^ 16)
              ((u.bc.extractLsb' (16 * j) 16).toNat) % 2 ^ 32)) ∧
    (∀ l, ∃ us, goes (.nacc l) (r.pc + 1) c.loopc false us ∧ every us fun _ u v => v.bc = u.bc ∧ v.slots = u.slots ∧
      (∀ m, m ≠ l.toNat → v.latch m = u.latch m) ∧
      v.latch l.toNat = BitVec.ofNat 512 (roundVal 0 0 false 0 (((List.range 16).map fun j =>
        decodeF 0 ((u.latch l.toNat).extractLsb' (32 * j) 32).toNat).foldl ExactSum.addVal ExactSum.zero).value.1).1) ∧
    (∀ x l, (¬ inFrame x → fails (.nwb x l)) ∧ (inFrame x → ∃ us, goes (.nwb x l) (r.pc + 1) c.loopc false us ∧
      every us fun _ u v => v.bc = u.bc ∧ v.lat = u.lat ∧ ∀ m, SMap.get? v.slots m =
        if m = l.toNat then some (row x, l.toNat, natLe 64 (u.latch l.toNat).toNat) else SMap.get? u.slots m)) ∧
    (∀ l, ∃ us, goes (.nclr l) (r.pc + 1) c.loopc false us ∧ every us fun _ u v => v.bc = u.bc ∧ v.slots = u.slots ∧
      ∀ m, v.latch m = if m = l.toNat then 0 else u.latch m) ∧
    (∀ x y, goes (.nloop x y) (if c.loopc + 1 < x.toNat then y.toNat else r.pc + 1) (if c.loopc + 1 < x.toNat then c.loopc + 1 else 0) false c.units) ∧
    goes .nend r.pc c.loopc true c.units)

/-- RDL_LINE_LAND writes exactly the lines due in its cycle; WRL_DATA_WRITTEN the columns whose bursts have ended, clearing their
poison. REFRESH_END, LTURN_COMPLETE and SERVICE_WINDOW_END end what has ended on their pseudo-channel. A refresh rise raises 0x26
for a bank at nine. An issue starts, unless sixteen started within 16 ticks (0x23), and ends, with 0x4B past the end of the
store; a commit writes every slot to its row. An engine writes its lines and raises its fault. Says of rdlLineLand,
wrlDataWritten, refreshEnd, lturnComplete, serviceWindowEnd, engineOutputWrite, refreshDebtTick, nearBankIssueStart,
nearBankIssueEnd, nbfenceCommitEnd that exec answers a next state, and which, under conditions on the state and the operands
alone. That an engine raises 0x70 at the end of its window is log 41 (DEDUCED). An idle timeline's windows before a kernel's
start are log 44, a die that restarts with the last of its stacks log 174, and the MAC of a column that no entry lists log 45. -/
def Obligations.StackEvents : Prop :=
∀ (s : State), let w := s.tickNow
    (∀ l bs, s.stack.lands = [l] → l.bytes = some bs → l.cycle = s.cur.relCycle s.unit →
      exec .rdlLineLand s = .next ((s.onStack fun x => { x with lands := [] }).onCur fun y => y.writeLine s.unit l.cluster l.line bs)) ∧
    (∀ l, s.stack.lands = [l] → l.bytes = none → l.tick / 2 = s.cur.relCycle s.unit →
      exec .rdlLineLand s = .next (stackFault (s.onStack fun x => { x with lands := [] }) 0x70 [s.unit, (placeOf l.pa).row, 0] l.tick)) ∧
    let sealed := fun (m : Mem) (ps : List Nat) (ks : SMap Bytes) (fs : List (Nat × Bytes)) =>
      (∀ a, (∀ f ∈ fs, a < f.1 ∨ f.1 + f.2.length ≤ a) → Mem.get m a = Mem.get s.cur.hbm a) ∧
      (∀ u, u ∈ ps ↔ u ∈ s.cur.poison ∧ ∀ f ∈ fs, 64 * u < f.1 ∨ f.1 + f.2.length < 64 * u + 64) ∧
      (s.cur.trust.conf = false → ks = s.cur.macs) ∧
      ∀ f, fs = [f] → Mem.read m f.1 f.2.length = f.2 ∧ (s.cur.trust.conf = true → ∀ u,
        SMap.get? ks u = if 64 * u < f.1 + f.2.length ∧ f.1 < 64 * u + 64 then some (({ s.cur with hbm := m } : Sys).columnMac (64 * u)) else SMap.get? s.cur.macs u)
    let t := s.onStack fun x => { x with writes := x.writes.filter fun f => decide (w < f.done) }
    (∃ m ps ks, exec .wrlDataWritten s = .next { t with cur := { t.cur with hbm := m, poison := ps, macs := ks } } ∧
      sealed m ps ks ((s.stack.writes.filter fun f => decide (f.done ≤ w)).map fun f => (f.pa, f.bytes))) ∧
    (∀ pch : BitVec 6, let p := pch.toNat
      let c := s.stack.pch p
      (∃ d, exec (.refreshEnd pch) s = .next (s.onPch p fun _ => d) ∧
        d = { c with banks := d.banks, busy := (match c.busy with
          | some (e, .refab) => if e ≤ w then none else c.busy
          | b => b) } ∧
        ∀ b k, SMap.get? c.banks b = some k → (∀ x ∈ c.banks, x.1 = b → x.2 = k) → k.mode ≠ .precharged → d.bank b = (match k.mode with
          | .refreshing e => if e ≤ w then { k with mode := .precharged } else k
          | _ => k)) ∧
      exec (.lturnComplete pch) s = .next (s.onPch p fun c => { c with
        split := (c.lturn.map (·.2)).getD c.split, lturn := none }) ∧
      (∃ d, exec (.serviceWindowEnd pch) s = .next (s.onPch p fun _ => d) ∧ d = { c with busy := none, acts := [], cols := [], banks := d.banks } ∧
        ∀ b, d.bank b = { Bank.reset with debt := (c.bank b).debt }) ∧
      (∀ i rest, c.queue = i :: rest → exec (.nearBankIssueStart pch) s = .next (
        let recent := s.stack.starts.filter fun t => decide (w < t + 16)
        if 16 ≤ recent.length then stackFault (s.onPch p fun c => { c with queue := rest }) 0x23 [stackDetail s.unit p 41, i.word, s.timelineTick s.unit] w
        else (s.onPch p fun c => { c with
            queue := rest, loopc := 0, cur := some { issue := i, s := w, pc := i.start, n := 0, ended := false } }).onStack
              fun x => { x with starts := recent ++ [w] })) ∧
      (∀ r, c.cur = some r → exec (.nearBankIssueEnd pch) s = .next (
        (if r.ended then s.onPch p fun c => { c with cur := none } else nbFault s s.unit p (Nat.min r.pc 255) 0x4B).onStack fun x =>
          if x.driver ≠ .compiled ∧ (x.pch p).queue = [] ∧ SMap.has x.delayed p = true then
            { x with delayed := SMap.put x.delayed p (Nat.max (x.taken + 8 * p) ((x.pch p).readyAt w)) }
          else x)) ∧
      (∃ m ps ks d, exec (.nbfenceCommitEnd pch) s = .next { s.onPch p (fun _ => d) with cur :=
          { (s.onPch p fun _ => d).cur with hbm := m, poison := ps, macs := ks } } ∧
        d = { c with busy := none, units := d.units } ∧ (∀ u ∈ d.units, u.2.lat = [] ∧ u.2.slots = []) ∧
        sealed m ps ks (c.commits s.unit p))) ∧
    (∀ e, (s.stack.engines.find? fun e => e.cycle == s.cur.relCycle s.unit) = some e →
      let t := (s.onCur fun y => e.out.foldl (fun y l => y.writeLine s.unit l.1 l.2.1 l.2.2) y).onStack fun x =>
        { x with engines := x.engines.erase e }
      exec .engineOutputWrite s = .next (match e.fault with
        | none => t
        | some (c, v) => stackFault t c [if c = 0x70 then s.unit else stackDetail s.unit e.pch 0, v, 0] e.endTick)) ∧
    (let n := s.stack.rises + 1
     let t := s.onStack fun x => { x with rises := n }
     let nine := fun p => (9 ≤ n ∧ (s.stack.pch p).banks.length < 64) ∨ ∃ b ∈ (s.stack.pch p).banks, (9 : Int) ≤ b.2.debt + n
     ((∀ p < 64, ¬ nine p) → exec .refreshDebtTick s = .next t) ∧
     (∀ p < 64, nine p → (∀ j < p, ¬ nine j) →
       exec .refreshDebtTick s = .next (stackFault t 0x26 [stackDetail s.unit p 36, s.stack.pos, 7332 * n] (7332 * n))))

/-- An access arrives two ticks after its issue or later, once what it was ordered after has performed and the earlier accesses
of its core to its pseudo-channel have arrived. A space-5 access leaves as a request through a usable port, else lands with
status 3; a space-6 access lands with status 4 in confidential mode and an atomic that PCIe does not carry with status 1. A slot
begins the oldest access that it may serve, or holds a compressed read for 68 slots, or does nothing. A host request becomes
accesses of at most 64 bytes in ascending order, and is unsupported where the form has no memory; in confidential mode it is
answered as unsupported, discarded, or a read with ones and poison (which path it came by is free, log 145). Says of serviceSlot,
serviceRequestArrival, hostMemoryRequest that exec answers a next state, and which, under conditions on the state and the
operands alone. The age between a core's access and a host's or peer's is log 47, the route to a peer log 31 (DESIGN CHOICE), and
the slot at which a compressed read performs log 49; host requests to addresses without memory are log 159. -/
def Obligations.ServiceArrivalsAndSlots : Prop :=
∀ (s : State),
    (∀ id, (∀ a, s.cur.access id = some a → ¬ s.mayReach a) → exec (.serviceRequestArrival id) s = .next s) ∧
    (∀ id a, s.cur.access id = some a → s.mayReach a →
      let space := a.ea.toNat / 2 ^ 61
      let t := s.keeps { a with arrived := some s.tickNow }
      let usable := fun p => (s.cur.port p).state ∈ [PortState.keyed, .retrying, .answeringHold, .rejoining]
      (space = 5 → ∀ p, s.cur.routeTo (a.ea.toNat / 2 ^ 45 % 2 ^ 9) = some p → usable p →
        exec (.serviceRequestArrival id) s = .next (t.onCur fun y =>
          let y := y.sendFlit p { flitOf kindRequest a.id with data := requestBytes a }
          { y with link := { y.link with remotes := y.link.remotes ++ [{ id := a.id, port := p }] } })) ∧
      (space = 5 → (∀ p, s.cur.routeTo (a.ea.toNat / 2 ^ 45 % 2 ^ 9) = some p → ¬ usable p) →
        exec (.serviceRequestArrival id) s = .next (t.landed a 0 3)) ∧
      (space = 6 → s.cur.trust.conf = true → exec (.serviceRequestArrival id) s = .next (t.landed a 0 4)) ∧
      (space = 6 → s.cur.trust.conf = false → a.kind ∈ [AccessKind.amin, .amax, .aand, .aor, .axor] →
        exec (.serviceRequestArrival id) s = .next (t.landed a 0 1)) ∧
      (space = 6 → s.cur.trust.conf = false → a.kind ∈ [AccessKind.load, .store, .aadd, .axchg, .acas] →
        exec (.serviceRequestArrival id) s = .next t) ∧
      (space ≠ 5 → space ≠ 6 → exec (.serviceRequestArrival id) s = .next t)) ∧
    (∀ (pch : BitVec 6) (i : Nat), let p := pch.toNat
      let c := s.stack.pch p
      let n := match c.busy with
        | some (_, .window _ n) => n
        | _ => 68
      let performs := fun (t : State) (id : Nat) => { t with todo := .ev s.unit (.serviceAccessPerform id) :: t.todo }
      (∀ id t, c.conv = some (id, t) → exec (.serviceSlot pch i) s = .next (
        if t ≤ s.tickNow then performs (s.onPch p fun c => { c with conv := none }) id else s)) ∧
      (c.conv = none → (∀ a, ¬ s.serves p i n a) → exec (.serviceSlot pch i) s = .next s) ∧
      (c.conv = none → ∀ a, s.serves p i n a → (∀ b, s.serves p i n b → b ≠ a → ageLt a.age b.age = true) →
        exec (.serviceSlot pch i) s = .next (
          if a.cmp = true ∧ a.kind = .load then s.onPch p fun c => { c with conv := some (a.id, s.tickNow + 536) } else performs s a.id))) ∧
    (∀ w addr len data,
      (s.cur.trust.conf = true → let t := { s with fresh := s.fresh + 1 }
        let answers := fun r => t.onCur fun y => { y with hostOut := y.hostOut ++ [r] }
        exec (.hostMemoryRequest w addr len data) s = .next (if Config.viaPcie s.fresh = true then answers (.unsupported addr)
          else if w then t else answers (.data addr (List.replicate len 0xFF) true))) ∧
      let held := fun a => (inHbm a = true ∨ inTier a = true) ∧ s.cur.hasMemory a = true
      let reaches := len = 0 ∨ (held addr ∧ held (addr + len - 1))
      (s.cur.trust.conf = false → ¬ reaches → exec (.hostMemoryRequest w addr len data) s =
        .next (s.onCur fun y => { y with hostOut := y.hostOut ++ [.unsupported addr] })) ∧
      (s.cur.trust.conf = false → reaches → ∃ l : List Access, exec (.hostMemoryRequest w addr len data) s =
          .next (s.onCur fun y => { y with accesses := y.accesses ++ l, nextId := y.nextId + l.length }) ∧
        l.length = (if len = 0 then 0 else (addr + len - 1) / 64 - addr / 64 + 1) ∧
        ∀ (j : Nat) (b : Access), l[j]? = some b →
          b.id = s.cur.nextId + j ∧ b.core = none ∧ b.peer = none ∧ b.arrived = none ∧ b.result = none ∧ b.hub = s.cur.hub ∧
          b.kind = (if w then .store else .load) ∧ b.pa = (if j = 0 then addr else 64 * (addr / 64 + j)) ∧
          b.pa + b.size = Nat.min (addr + len) (64 * (addr / 64 + j + 1)) ∧
          b.bytes = (if w then (data.drop (b.pa - addr)).take b.size else []) ∧ ∀ k < j, s.cur.nextId + k ∈ b.after))

/-- An access performs once: on an uncorrectable unit it keeps status 2 and no memory changes; a load keeps its extended value, a
store writes exactly its bytes, an atomic keeps the old value and writes what its operation gives, and an atomic on a compressed
page keeps status 1. Performed, it lands: its granule, its tag and OUTST, and nothing else; a host's read is answered with its
bytes. An access to the capacity tier performs and lands there at once; a completion from the host lands a space-6 access with
status 0 or 4. A write-back of a block with one pending store writes exactly the block's coded units, each encoded again, the
store's own with its bytes; an uncorrectable unit stays, and a store to it keeps status 2. Says of serviceAccessPerform,
compressedBlockWriteback, hostAccessCompletion, capacityTierAccessCompletion that exec answers a next state, and which, under
conditions on the state and the operands alone. Landing at a later moment is log 46, unit u of a compressed page at 4,288u log
48, the free value of a corrupt unit log 51, the code of a re-encoding log 52, and a store to a poisoned unit, which gives status
2, log 53. -/
def Obligations.ServiceAccessesPerform : Prop :=
∀ (s : State) (id : Nat),
    (s.cur.access id = none → exec (.serviceAccessPerform id) s = .next s ∧ exec (.capacityTierAccessCompletion id) s = .next s ∧
      ∀ e d, exec (.hostAccessCompletion id e d) s = .next s) ∧
    (∀ a, s.cur.access id = some a →
      let ended := fun (v : Word) (st : Nat) (bs : Bytes) =>
        { a with result := some (v, st), bytes := if a.core = none ∧ a.kind = .load then bs else a.bytes }
      let kept := fun (t : State) (v : Word) (st : Nat) (bs : Bytes) => t.keeps (ended v st bs)
      let writes := fun (bs : Bytes) => s.onCur fun y => { y.hbmWrite a.pa bs with hbm := Mem.write y.hbm a.pa bs }
      let old := leNat (Mem.read s.cur.hbm a.pa a.size)
      let bad := inHbm a.pa = true ∧ ∃ u, a.pa < 64 * u + 64 ∧ 64 * u < a.pa + a.size ∧ s.cur.poisoned (64 * u) = true
      (∀ v st, a.result = some (v, st) → exec (.serviceAccessPerform id) s = .next (s.landed a v st)) ∧
      (a.result = none → inTier a.pa = false → a.cmp = false →
        (bad → exec (.serviceAccessPerform id) s = .next (kept s 0 2 [])) ∧
        (¬ bad → a.kind = .load → exec (.serviceAccessPerform id) s = .next (kept s (loaded a.width a.size old) 0
          (Mem.read s.cur.hbm a.pa a.size))) ∧
        (¬ bad → a.kind = .store → exec (.serviceAccessPerform id) s = .next
          (kept (writes (if a.bytes = [] then natLe a.size a.data.toNat else a.bytes)) 0 0 [])) ∧
        (¬ bad → a.kind ≠ .load → a.kind ≠ .store → a.size = 8 → exec (.serviceAccessPerform id) s = .next
          (kept (writes (natLe 8 (swapped a.kind (BitVec.ofNat 64 old) a.data a.data2).toNat)) (BitVec.ofNat 64 old) 0 []))) ∧
      (a.result = none → a.cmp = true →
        (a.kind ≠ .load → exec (.serviceAccessPerform id) s = .next (kept s 0 1 [])) ∧
        (let broken := inHbm a.coded.1 = true ∧ ∃ u, a.coded.1 < 64 * u + 64 ∧ 64 * u < a.coded.1 + 4288 ∧ s.cur.poisoned (64 * u) = true
         (a.kind = .load → broken → exec (.serviceAccessPerform id) s = .next (kept s 0 2 [])) ∧
         (a.kind = .load → ¬ broken → inTier a.coded.1 = false →
          (∀ u, expandBlock (Mem.read s.cur.hbm a.coded.1 4288) = some u → let bs := (u.drop a.coded.2).take a.size
            exec (.serviceAccessPerform id) s = .next (kept s (loaded a.width a.size (leNat bs)) 0 bs)) ∧
          (expandBlock (Mem.read s.cur.hbm a.coded.1 4288) = none → ∃ v,
            exec (.serviceAccessPerform id) s = .next (kept { s with fresh := s.fresh + 1 } v 0 (natLe a.size v.toNat)))))) ∧
      (let y := s.cur
       let w := leNat (Mem.read y.tier a.pa a.size)
       let tiered := fun (bs : Bytes) => s.onCur fun y => { y with tier := Mem.write y.tier a.pa bs }
       ((a.ea.toNat / 2 ^ 61 ≠ 0 ∨ inTier a.pa = false ∨ y.hasMemory a.pa = false) → exec (.capacityTierAccessCompletion id) s = .next s) ∧
       (a.ea.toNat / 2 ^ 61 = 0 → inTier a.pa = true → y.hasMemory a.pa = true →
         (a.kind = .load → exec (.capacityTierAccessCompletion id) s = .next (s.landed (ended (loaded a.width a.size w) 0
           (Mem.read y.tier a.pa a.size)) (loaded a.width a.size w) 0)) ∧
         (a.kind = .store → a.bytes = [] → exec (.capacityTierAccessCompletion id) s = .next
           ((tiered (natLe a.size a.data.toNat)).landed a 0 0)) ∧
         (a.kind ≠ .load → a.kind ≠ .store → a.size = 8 → exec (.capacityTierAccessCompletion id) s = .next
           ((tiered (natLe 8 (swapped a.kind (BitVec.ofNat 64 w) a.data a.data2).toNat)).landed a (BitVec.ofNat 64 w) 0)))) ∧
      (∀ e d, exec (.hostAccessCompletion id e d) s = .next (
        if a.ea.toNat / 2 ^ 61 = 6 then
          s.landed a (if a.kind = .load then loaded a.width a.size (d.toNat % 2 ^ (8 * a.size)) else d) (if e then 4 else 0)
        else s))) ∧
    (∀ (block : Nat) (a : Access), a.id = id →
      (s.cur.accesses.filter fun a => a.cmp && a.kind == .store && a.arrived.isSome && a.result.isNone && a.pa / 65536 == block) = [a] →
      let size := ((SMap.get? s.cur.frames a.base).map (·.size)).getD 65536
      let first := (a.pa - a.base) / 65536 * 16
      let at_ := fun j => a.base + 4288 * (first + j)
      let broken := fun at_ => inHbm at_ = true ∧ ∃ u, at_ < 64 * u + 64 ∧ 64 * u < at_ + 4288 ∧ s.cur.poisoned (64 * u) = true
      a.base % 64 = 0 → a.base + size ≤ 384 * 2 ^ 30 → a.coded.2 + (if a.bytes = [] then a.size else a.bytes.length) ≤ 4096 →
      ∃ st m p k, let t := s.keeps { a with result := some (0, st) }
        exec (.compressedBlockWriteback block) s =
          .next { t with fresh := s.fresh + 16, cur := { t.cur with hbm := m, poison := p, macs := k } } ∧
        (broken a.coded.1 → st = 2) ∧ (¬ broken a.coded.1 → st = 0) ∧ (∀ u ∈ p, u ∈ s.cur.poison) ∧
        (∀ x, (∀ j < 16, 4096 * (first + j) < size → x < at_ j ∨ at_ j + 4288 ≤ x) → Mem.get m x = Mem.get s.cur.hbm x) ∧
        ∀ j < 16, 4096 * (first + j) < size → 
          (broken (at_ j) ∨ expandBlock (Mem.read s.cur.hbm (at_ j) 4288) = none → Mem.read m (at_ j) 4288 = Mem.read s.cur.hbm (at_ j) 4288) ∧
          (∀ e, ¬ broken (at_ j) → expandBlock (Mem.read s.cur.hbm (at_ j) 4288) = some e →
            Mem.read m (at_ j) 4288 = recoded (s.fresh + j) (if a.coded.1 = at_ j then patchUnit e a else e)))

/-- A QTAIL value from QTAIL to QHEAD + CAP is taken, another counts in QERR, and in confidential mode the write, like one to any
other host register, is ignored. A waiting head that breaks R307 finishes with status 2; a valid one is ready once its WAITQ
condition holds, but a valid replay joins its graph's list. A ready marker finishes with status 0. A stage-patch entry finishes
with status 5 when a patch is staged, with 2 when its patch breaks the limits, else stages it. A replay at the front of its
graph's list whose WAITQ condition holds takes a free slot with the patch applied, and is ready then. Finishing publishes the
signals still raised, writes the record and steps QHEAD. Says of qtailWrite, hostRegisterWrite, queueHeadValidation,
stagePatchEntry, markerEntry, graphReplayStart that exec answers a next state, and which, under conditions on the state and the
operands alone. That markers and patches wait for WAITQ is log 66, a VARMASK above 15 refused log 67, and a staged patch judged
before a patch's limits log 68 (all DEDUCED). -/
def Obligations.QueueHeads : Prop :=
∀ (s : State),
    (∀ o v, exec (.hostRegisterWrite o v) s = .next s) ∧
    ∀ (qi : Nat) (q : Queue), s.cur.queue qi = some q →
      let set := fun (t : State) (z : Queue) => t.onCur fun y => { y with queues := SMap.put y.queues qi z }
      let setGraph := fun (t : State) (h : Nat) (g : Graph) => t.onCur fun y => { y with graphs := SMap.put y.graphs h g }
      let ends := fun (t : State) (status : Nat) => Host.Outcome.next (t.onCur fun y => y.finishHead qi status 0 0 [])
      let e := q.entry
      let ready := q.state = .waiting ∧ q.valid = true ∧ q.ready ≠ none
      let waited := fieldLe e 24 2 = 0xFFFF ∨ ∃ w, s.cur.queue (16 * (qi / 16) + fieldLe e 24 2) = some w ∧ fieldLe e 32 8 ≤ w.head
      (∀ v : BitVec 64,
        (s.cur.trust.conf = true → exec (.qtailWrite qi v) s = .next s) ∧
        (s.cur.trust.conf = false → v.toNat < q.tail ∨ q.head + q.cap < v.toNat →
          exec (.qtailWrite qi v) s = .next (set s { q with err := if q.err = 2 ^ 64 - 1 then q.err else q.err + 1 })) ∧
        (s.cur.trust.conf = false → q.tail ≤ v.toNat → v.toNat ≤ q.head + q.cap →
          exec (.qtailWrite qi v) s = .next (set s { q with
            tail := v.toNat, state := if q.state = .idle ∧ q.head < v.toNat then .waiting else q.state }))) ∧
      (q.state ≠ .waiting ∨ q.tail ≤ q.head → exec (.queueHeadValidation qi) s = .next s) ∧
      (q.state = .waiting → q.head < q.tail → q.valid = false →
        let e := s.cur.ringEntry qi q.head q
        let known := fun (i : Nat) => (i = 1 ∧ ∃ o, SMap.get? s.cur.objs (fieldLe e 8 8) = some o ∧ o.ctx = qi / 16) ∨
          ((i = 2 ∨ i = 3) ∧ ∃ g, SMap.get? s.cur.graphs (fieldLe e 8 8) = some g ∧ g.ctx = qi / 16) ∨ (i = 4 ∧ fieldLe e 8 8 = 0)
        let wellFormed := fieldLe e 2 2 = 0 ∧ fieldLe e 26 6 = 0 ∧ fieldLe e 56 8 = 0 ∧ fieldLe e 1 1 ≤ 7 ∧ 1 ≤ fieldLe e 4 4 ∧
          fieldLe e 4 4 ≤ 15 ∧ known (fieldLe e 0 1) ∧
          (fieldLe e 24 2 = 0xFFFF ∨ (fieldLe e 24 2 < 16 ∧ s.cur.queue (16 * (qi / 16) + fieldLe e 24 2) ≠ none)) ∧
          (fieldLe e 40 8 = 0 ∨ s.cur.crecOk (qi / 16) (fieldLe e 40 8) = true)
        let due := fieldLe e 24 2 = 0xFFFF ∨ ∃ w, s.cur.queue (16 * (qi / 16) + fieldLe e 24 2) = some w ∧ fieldLe e 32 8 ≤ w.head
        (∀ r, wellFormed → (fieldLe e 0 1 ≠ 2 ∧ due ∧ r = some s.cur.wallc.toNat) ∨ ((fieldLe e 0 1 = 2 ∨ ¬ due) ∧ r = none) →
          let t := set s { q with valid := true, entry := e, ready := r }
          (fieldLe e 0 1 ≠ 2 → exec (.queueHeadValidation qi) s = .next t) ∧
          (fieldLe e 0 1 = 2 → ∀ g, SMap.get? s.cur.graphs (fieldLe e 8 8) = some g →
            exec (.queueHeadValidation qi) s = .next (setGraph t (fieldLe e 8 8) { g with waitList := g.waitList ++ [qi] }))) ∧
        (¬ wellFormed → exec (.queueHeadValidation qi) s = ends s 2)) ∧
      (q.state = .waiting → q.head < q.tail → q.valid = true →
        let due := q.ready = none ∧ fieldLe e 0 1 ≠ 2 ∧ waited
        (¬ due → exec (.queueHeadValidation qi) s = .next s) ∧
        (due → exec (.queueHeadValidation qi) s = .next (set s { q with ready := some s.cur.wallc.toNat }))) ∧
      (exec (.markerEntry qi) s = if ready ∧ fieldLe e 0 1 = 4 then ends s 0 else .next s) ∧
      (∀ g, SMap.get? s.cur.graphs (fieldLe e 8 8) = some g →
        (¬ (ready ∧ fieldLe e 0 1 = 3) → exec (.stagePatchEntry qi) s = .next s) ∧
        (ready → fieldLe e 0 1 = 3 →
          (g.patch ≠ none → exec (.stagePatchEntry qi) s = ends s 5) ∧
          (g.patch = none → s.cur.readPatch (qi / 16) (fieldLe e 16 8) g = none → exec (.stagePatchEntry qi) s = ends s 2) ∧
          (g.patch = none → ∀ bs, s.cur.readPatch (qi / 16) (fieldLe e 16 8) g = some bs →
            exec (.stagePatchEntry qi) s = ends (setGraph s (fieldLe e 8 8) { g with patch := some bs }) 0)) ∧
        (let starts := q.state = .waiting ∧ q.valid = true ∧ fieldLe e 0 1 = 2 ∧ waited ∧ g.slot = none
         (¬ (starts ∧ ∃ r, g.waitList = qi :: r) → exec (.graphReplayStart qi) s = .next s) ∧
         ∀ r, starts → g.waitList = qi :: r →
          exec (.graphReplayStart qi) s = .next (set (setGraph s (fieldLe e 8 8) { g with
            slot := some qi, waitList := r, patch := none, begun := [], bound := false, done := [], ended := none,
            params := (match g.patch with
              | some bs => applyPatch g.params bs
              | none => g.params) }) { q with state := .running, ready := some s.cur.wallc.toNat }))) ∧
      (q.head < q.tail → q.valid = true → ∀ (y : Sys) (st : Nat) (fc fb : Word) (fr : List Nat), y.queue qi = some q →
        let done := fun (z : Sys) => { z with queues := SMap.put z.queues qi { q with
          head := q.head + 1, valid := false, entry := [], ready := none, raises := [],
          pubs := q.raises.foldl publish q.pubs, state := if q.head + 1 < q.tail then .waiting else .idle } }
        let crec := fieldLe e 40 8
        (crec = 0 → y.finishHead qi st fc fb fr = done y) ∧
        (crec ≠ 0 → y.crecOk (qi / 16) crec = true → y.finishHead qi st fc fb fr = done (y.vaWrite (qi / 16) crec q.head
          (natLe 8 (q.head + 1) ++ natLe 2 st ++ natLe 2 (fieldLe e 0 1) ++ natLe 4 0 ++ natLe 8 fc.toNat ++ natLe 8 fb.toNat ++
            natLe 4 (fr.getD 0 0) ++ natLe 4 (fr.getD 1 0) ++ natLe 4 (fr.getD 2 0) ++ natLe 4 0 ++ natLe 8 (fieldLe e 48 8) ++
            natLe 8 y.wallc.toNat))) ∧
        (crec ≠ 0 → y.crecOk (qi / 16) crec = false → y.finishHead qi st fc fb fr = done (y.hkAdd (hkEntry 0 0 0 st crec))))

/-- A patch has 1 to 255 records, each at a multiple of 8 inside the parameter area, and applying one record replaces its eight
bytes alone. A raised signal word is published once every access it waits for has performed, and published words only rise.
Successors of a completed kernel are written in order to the tails of their queues, up to the first whose queue is full; those
from it on wait. Says of signalPublish, successorAppend that exec answers a next state, and which, under conditions on the state
and the operands alone. -/
def Obligations.PatchLimitsAndSignals : Prop :=
(∀ (y : Sys) (ctx arg : Nat) (g : Graph) (bs : Bytes), y.readPatch ctx arg g = some bs →
    ∃ h, y.vaRead ctx arg 16 = some h ∧ 1 ≤ fieldLe h 0 4 ∧ fieldLe h 0 4 ≤ 255 ∧ y.vaRead ctx arg (16 + 16 * fieldLe h 0 4) = some bs ∧
      ∀ i < fieldLe bs 0 4, fieldLe bs (16 + 16 * i) 8 % 8 = 0 ∧ fieldLe bs (16 + 16 * i) 8 + 8 ≤ g.params.length) ∧
  (∀ (ps bs : Bytes), fieldLe bs 0 4 = 1 → fieldLe bs 16 8 + 8 ≤ ps.length →
    (applyPatch ps bs).length = ps.length ∧
    ∀ j, (applyPatch ps bs)[j]? = if fieldLe bs 16 8 ≤ j ∧ j < fieldLe bs 16 8 + 8 then bs[24 + (j - fieldLe bs 16 8)]?.or (some 0) else ps[j]?) ∧
  (∀ (s : State) (k : Nat) (x : Kernel) (q : Queue), s.cur.kern k = some x → s.cur.queue x.queue = some q →
    (∀ n v a, q.raises = [{ kernel := k, word := n, value := v, after := a }] →
      ((∀ i ∈ a, s.cur.performed i = true) → exec (.signalPublish k n) s = .next (s.onCur fun y => { y with
        queues := SMap.put y.queues x.queue { q with
          raises := [], pubs := if (SMap.getD q.pubs n 0).toNat < v.toNat then SMap.put q.pubs n v else q.pubs } })) ∧
      ((∃ i ∈ a, s.cur.performed i = false) → exec (.signalPublish k n) s = .next s)) ∧
    (∀ n, (∀ r ∈ q.raises, r.kernel ≠ k ∨ r.word ≠ n) → exec (.signalPublish k n) s = .next s)) ∧
  (∀ (s : State) (k : Nat) (x : Kernel), s.cur.kern k = some x →
    (x.state ≠ .completed → exec (.successorAppend k) s = .next s) ∧
    (x.state = .completed → exec (.successorAppend k) s = .next (s.onCur fun y =>
      let r := y.appendSucc x.succ
      { r.1 with kernels := SMap.put r.1.kernels k { x with succ := r.2 } }))) ∧
  (∀ (y : Sys) (qi : Nat) (e : Bytes) (rest : List (Nat × Bytes)),
    y.appendSucc [] = (y, []) ∧ (y.queue qi = none → y.appendSucc ((qi, e) :: rest) = y.appendSucc rest) ∧
    ∀ q, y.queue qi = some q →
      (q.head + q.cap ≤ q.tail → y.appendSucc ((qi, e) :: rest) = (y, (qi, e) :: rest)) ∧
      (q.tail < q.head + q.cap → y.appendSucc ((qi, e) :: rest) =
        (let z := y.vaWrite (qi / 16) (q.ring.toNat + 64 * (q.tail % q.cap)) q.tail e
         { z with queues := SMap.put z.queues qi { q with
            tail := q.tail + 1, state := if q.state = QueueState.idle then .waiting else q.state } }.appendSucc rest)))

/-- With one launch offered and admission open: no present variant refuses the launch with 0x4D and status 3; none that fits, no
room in the envelope, an invalidation under way, or no frame for its save area leaves it waiting; else the lowest variant that
fits is taken, a region that cannot be placed refusing it with status 3, and a kernel in binding holds its clusters and its queue
runs. A kernel in binding whose dies have equal copies is bound: it holds the smallest multiple of 4096 at least 256 cycles
ahead, and each tile task its image, MPC and coordinate with every other register as R98 gives. Says of launchAdmission that exec
answers a next state, and which, under conditions on the state and the operands alone. That a launch waits for a save area while
its object's are in use is log 166, and that index positions past a core's section are zero log 69 (both the model's). A launch
in confidential mode that finds no frame mapped raises 0x35 (log 161), and launches wait while firmware invalidates translations
(log 160). A zeroed dictionary entry is the empty bundle (log 168). -/
def Obligations.LaunchAdmission : Prop :=
∀ (s : State),
    let y := s.cur
    ((∀ x ∈ y.kernels, x.2.state ≠ .binding) → (y.admissionOpen = false ∨ y.offers = []) → exec .launchAdmission s = .next s) ∧
    ((∀ x ∈ y.kernels, x.2.state ≠ .binding) → y.admissionOpen = true → ∀ o k, y.offers = [o] → o.back = none → SMap.get? y.objs o.obj = some k →
      let l := k.sections
      let dies := fun v => diesOfMask ((masksOf l).getD v 0)
      let present := fun (v : Nat) => v < 4 ∧ o.varmask.testBit v = true ∧ dies v ≠ [] ∧ ∀ d ∈ dies v, y.diePresent d = true
      let fits := fun v => present v ∧ (∀ r ∈ regionsOf l, y.needsRetired k.ctx (dies v) r = false) ∧
        (isLead l = true → ∀ d ∈ dies v, ∀ x ∈ y.bound, x.2.lead = true → d ∉ x.2.dies) ∧ ∀ r ∈ ranksOf l (dies v), (y.cluster r).owner = none
      let refused := fun (e : Trouble) => exec .launchAdmission s =
        .next (s.onCur fun y => y.finishLaunch o.qi o.launch 3 (BitVec.ofNat 64 e.cause) 0 e.detail)
      ((∀ v, ¬ present v) → refused (trouble 0x4D)) ∧
      ((∃ v, present v) → (∀ v, ¬ fits v) → exec .launchAdmission s = .next s) ∧
      ∀ v, fits v → (∀ w < v, ¬ fits w) →
        (y.tlbBusy = true ∨ y.envelope k.ctx l true = false → exec .launchAdmission s = .next s) ∧
        (y.tlbBusy = false → y.envelope k.ctx l true = true → y.areaFor o.obj s.fresh k = none → exec .launchAdmission s = .next s) ∧
        (y.tlbBusy = false → y.envelope k.ctx l true = true → ∀ z save, y.areaFor o.obj s.fresh k = some (z, save) →
          (∀ e, z.pinRegions k.ctx s.fresh (dies v) l = .error e → refused e) ∧
          ∀ p, z.pinRegions k.ctx s.fresh (dies v) l = .ok p → ∃ t x, exec .launchAdmission s = .next t ∧
            t.cur.kern p.sys.nextId = some x ∧ t.cur.nextId = p.sys.nextId + 1 ∧ x.state = .binding ∧ x.ctx = k.ctx ∧ x.queue = o.qi ∧
            x.obj = o.obj ∧ x.arg = BitVec.ofNat 64 o.arg ∧ x.variant = v ∧ x.dies = dies v ∧ x.pinned = p.pages ∧ x.save = save ∧
            (∀ r ∈ ranksOf l (dies v), (t.cur.cluster r).owner = some p.sys.nextId) ∧
            (o.launch = none → ∀ c, p.sys.queue o.qi = some c → t.cur.queue o.qi = some { c with state := .running }))) ∧
    (∀ q x, (y.kernels.find? fun x => x.2.state == .binding && !SMap.has y.saved x.1 && y.equal x.2.dies) = some (q, x) → x.dies.Nodup →
      let l := y.sections x
      let g := y.kernelNow x
      ∃ t z, exec .launchAdmission s = .next t ∧ t.cur.kern q = some z ∧ z.state = .bound ∧ z.readyAt = z.start ∧
        z.start % 4096 = 0 ∧ g + 256 ≤ z.start ∧ z.start < g + 256 + 4096 ∧
        (∀ i d, x.dies[i]? = some d → ∀ c ∈ clustersIn l i, (t.cur.cluster (20 * d + c)).owner = some q ∧ ∀ n < 8,
          ∀ bs, sectionData l 7 i c n = some bs →
            let k := t.cur.core (160 * d + 8 * c + n)
            k.task = .bound ∧ k.kernel = some q ∧ k.start = z.start ∧ k.index = imageOf bs ∧ k.ip = 0 ∧ k.idle = 0 ∧ k.s = [] ∧ k.p = [] ∧
              k.v = [] ∧ k.k = [] ∧ k.pending = [] ∧ k.csr.lc = 0 ∧ k.csr.rotv = 0 ∧ k.csr.rotp = 0 ∧ k.csr.outst = 0 ∧
              k.csr.fcause = 0 ∧ k.csr.fbix = 0 ∧ k.csr.seed = 0x9E3779B97F4A7C15 ∧ k.csr.qmod = 1 ∧ k.csr.qinv = BitVec.allOnes 64 ∧
              k.csr.mpc = BitVec.ofNat 64 (fieldLe ((sectionData l 8 i c n).getD []) 0 8) ∧
              k.csr.tcoord = BitVec.ofNat 64 ((8 * c + n) + i * 2 ^ 16 + x.variant * 2 ^ 32 + d * 2 ^ 34 + c * 2 ^ 36 + n * 2 ^ 41)) ∧
        ∀ k < 2 * x.dies.length, sectionData l 10 k 0 0 ≠ none →
          let n := 2 * x.dies.getD (k / 2) 0 + k % 2
          (t.cur.stk n).kernel = some q ∧ (t.cur.stk n).prog = timelineOf l k ∧ (t.cur.stk n).pos = 0)

/-- At its start a bound kernel becomes running; each tile task bound to it runs, and no other core changes; each stack of it
that has not begun starts its timeline at its first word. With a stack not yet handed back, its rows open for 92 ticks, or while
firmware rejoins a port, the start moves by 4096 cycles. A kernel is complete when every tile task is halted with nothing in
flight and every timeline has ended; then the signals of its queue are published, its successors appended, its tile tasks are
unbound, its pages unpinned, its entry finishes with status 0, and it is completed. Otherwise nothing changes. Says of
kernelStart, kernelCompletion that exec answers a next state, and which, under conditions on the state and the operands alone. -/
def Obligations.KernelStartAndCompletion : Prop :=
∀ (s : State) (q : Nat) (x : Kernel), s.cur.kern q = some x →
    (x.state ≠ .bound → exec (.kernelStart q) s = .next s) ∧
    let back := ∀ k ∈ s.cur.stacksOf q, (s.cur.stk k).driver ≠ .hold ∧ (s.cur.stk k).driver ≠ .selfRefresh ∧
      ∀ c ∈ (s.cur.stk k).pchs, ∀ b ∈ c.2.banks, b.2.opened = true → since (2 * s.cur.hub) 92 b.2.act = true
    (x.state = .bound → (¬ back ∨ s.cur.link.rejoining = true) → ∃ t z, exec (.kernelStart q) s = .next t ∧
      t.cur.kern q = some z ∧ z.state = .bound ∧ z.readyAt = x.readyAt + 4096 ∧ z.start = x.start + 4096) ∧
    (x.state = .bound → back → s.cur.link.rejoining = false → (∀ c ∈ s.cur.coresOf q, (s.cur.core c).abandoned = false) → s.cur.link.announces = [] →
      ∃ t, exec (.kernelStart q) s = .next t ∧
        t.cur.kern q = some { x with state := .running, holds := { Holds.none with
          shed := x.holds.shed, opPoint := x.holds.opPoint, preempt := x.holds.preempt } } ∧
        (∀ c, (s.cur.core c).kernel = some q → t.cur.core c = { s.cur.core c with
          task := if (s.cur.core c).task = .bound then .running else (s.cur.core c).task
          copies := (t.cur.core c).copies
          mx := (t.cur.core c).mx }) ∧
        (∀ c, (∀ e ∈ s.cur.cores, e.1 = c → e.2.kernel ≠ some q) → t.cur.core c = s.cur.core c) ∧
        (∀ k, (s.cur.stk k).kernel = some q → (s.cur.stk k).prog ≠ [] → x.readyAt = x.start →
          (t.cur.stk k).pos = 0 ∧ (t.cur.stk k).tick = 0 ∧ (t.cur.stk k).driver = .compiled) ∧
        (∀ k, ((s.cur.stk k).kernel ≠ some q ∨ (s.cur.stk k).prog = []) → t.cur.stk k = s.cur.stk k) ∧
        t.cur.hbm = s.cur.hbm ∧ t.cur.tier = s.cur.tier ∧ t.cur.dies = s.cur.dies ∧ t.cur.clusters = s.cur.clusters ∧ t.cur.queues = s.cur.queues) ∧
    (s.cur.complete q x = true ↔ x.state = .running ∧
      (∀ c ∈ s.cur.coresOf q, let k := s.cur.core c
        (k.task = .halted ∨ k.task = .unbound) ∧ k.csr.outst = 0 ∧ k.pending = [] ∧ k.copies = [] ∧ k.mx.loads = [] ∧ k.mx.drain = none ∧
          k.mx.seq.done = true ∧ k.arrived = []) ∧
      ∀ n ∈ s.cur.stacksOf q, let k := s.cur.stk n
        k.driver = .idle ∧ k.pos = k.prog.length ∧ k.lands = [] ∧ k.engines = []) ∧
    (s.cur.complete q x = false → exec (.kernelCompletion q) s = .next s) ∧
    (s.cur.complete q x = true → ∃ t z, exec (.kernelCompletion q) s = .next t ∧ t.cur.kern q = some z ∧
      z = { x with state := .completed, status := 0, cause := 0, pinned := [], saving := none, stop := none, succ := (s.cur.appendSucc x.succ).2 } ∧
      (∀ c, (s.cur.core c).kernel = some q → (t.cur.core c).task = .unbound ∧ (t.cur.core c).kernel = none) ∧
      (∀ c, (∀ e ∈ s.cur.cores, e.1 = c → e.2.kernel ≠ some q) → t.cur.core c = s.cur.core c) ∧
      ∀ b, x.launch = none → s.cur.queue x.queue = some b → b.head < b.tail → ∃ w, t.cur.queue x.queue = some w ∧
        w.head = b.head + 1 ∧ w.pubs = b.raises.foldl publish b.pubs ∧ w.raises = [] ∧
        (x.succ = [] → w.state = if b.head + 1 < b.tail then .waiting else .idle))

/-- At a step point with nothing to wait for and no HOLD word nothing changes; a failed seam check stops the kernel with 0x29, or
without a fault when firmware holds it to hibernate; else it is held there when a HOLD or SACQ is not satisfied, a duty hold is
due or firmware holds it. A HOLD is satisfied when OUTST is 0, or its phase complete. A held kernel is released, the stacks
handed back first, once no reason remains: a lead kernel with its dies, a follower 4096·k cycles later. A HOLD.OUT that waits
HOLDLIM stops the kernel with 0x15; a duty hold ends at its time; an operating point changes once no die runs. Says of
stepPointHold, holdRelease, holdTimeout, dutyHoldExpiry, operatingPointChange that exec answers a next state, and which, under
conditions on the state and the operands alone. That HOLDLIM counts for each core's HOLD from when it first waited is log 74
(DEDUCED). -/
def Obligations.StepPointsAndHolds : Prop :=
∀ (s : State) (q : Nat) (x : Kernel), s.cur.kern q = some x →
    let y := s.cur
    let g := y.kernelNow x
    let w := y.wallc.toNat
    let put := fun (z : Kernel) => s.onCur fun y => { y with kernels := SMap.put y.kernels q z }
    (∀ c, y.satisfied x (c, .out) = true ↔ (y.core c).csr.outst = 0) ∧
    (x.state ≠ .running → exec (.stepPointHold q) s = .next s) ∧
    (x.state = .running → y.haltDue q x = false → stepAt (y.sections x) (g - x.start) = none → exec (.stepPointHold q) s = .next s) ∧
    (x.state = .running → y.haltDue q x = true → exec (.stepPointHold q) s = .next (s.onCur fun y => y.powerStop q x)) ∧
    (∀ n, x.state = .running → y.haltDue q x = false → stepAt (y.sections x) (g - x.start) = some n →
      let d := if x.readyAt = g ∨ x.holds.shed = true then 0 else y.dutyTicks q x n
      let waiting := x.holds.shed = false ∧ ∃ v ∈ y.waits q, y.satisfied x v = false
      let hold := waiting ∨ x.holds.shed = true ∨ d ≠ 0 ∨ x.holds.opPoint = true ∨ x.holds.preempt = true
      let holds := ∃ v ∈ y.waits q, v.2.isHold = true
      (¬ hold → ¬ holds → exec (.stepPointHold q) s = .next s) ∧
      (x.holds.shed = true → y.seamFails q x n ≠ none → exec (.stepPointHold q) s = .next (s.onCur fun y => y.powerStop q x)) ∧
      (hold ∨ holds → x.holds.shed = false → ∀ k, y.seamFails q x n = some k → ∃ r, exec (.stepPointHold q) s = .next (s.onCur fun y => y.stopAt .fault (some r) false [q] x.dies) ∧
        r.rank = 2 ∧ r.cause = 0x29 ∧ r.die = k / 2 ∧ r.cluster = 0 ∧ r.core = 0 ∧ r.kernel = some q) ∧
      (holds → ¬ hold → y.seamFails q x n = none → exec (.stepPointHold q) s = .next s) ∧
      (hold → y.seamFails q x n = none → (x.holds.shed = true → x.lead = false) → (∀ o ∈ x.ops, o.op ≠ 4) → ∃ t z, exec (.stepPointHold q) s = .next t ∧ t.cur.kern q = some z ∧
        z.state = .held ∧ z.holds.step = some n ∧ (z.holds.waiting = true ↔ waiting) ∧ z.holds.duty = (if d = 0 then none else some (w + d)) ∧
        (∀ c, (y.core c).kernel = some q → (t.cur.core c).task = if (y.core c).task = .running then .held else (y.core c).task) ∧
        (∀ e, (t.cur.die e).gnomon = (y.die e).gnomon) ∧
        (∀ e, (t.cur.die e).run = if x.lead = true ∧ e ∈ x.dies then .held else (y.die e).run))) ∧
    (let none_ := x.state = .held ∧ x.holds.duty = none ∧ x.holds.opPoint = false ∧ x.holds.shed = false ∧ x.holds.preempt = false ∧
       x.saving = none ∧ (x.holds.waiting = false ∨ ∀ v ∈ y.waits q, y.satisfied x v = true)
     let back := ∀ k ∈ y.stacksOf q, (y.stk k).driver ≠ .hold ∧ (y.stk k).driver ≠ .selfRefresh ∧
       ∀ c ∈ (y.stk k).pchs, ∀ b ∈ c.2.banks, b.2.opened = true → since (2 * y.hub) 92 b.2.act = true
     let n := x.start + stepCycle (y.sections x) (x.holds.step.getD 0)
     (¬ none_ → exec (.holdRelease q) s = .next s) ∧
     (none_ → x.holds.due = false → exec (.holdRelease q) s = .next (put { x with holds := { x.holds with due := true } })) ∧
     (none_ → x.holds.due = true → ¬ back → exec (.holdRelease q) s = .next s) ∧
     (none_ → x.holds.due = true → back → x.lead = true → ∃ t, exec (.holdRelease q) s = .next t ∧ ∀ d ∈ x.dies, (t.cur.die d).run = .running) ∧
     (none_ → x.holds.due = true → back → x.lead = false →
       ((g - n) % 4096 ≠ 0 ∨ g < n → exec (.holdRelease q) s = .next s) ∧
       ((g - n) % 4096 = 0 → n ≤ g → (∀ c ∈ y.coresOf q, (y.core c).abandoned = false) → ∃ t z, exec (.holdRelease q) s = .next t ∧
         t.cur.kern q = some z ∧ z.state = .running ∧ z.holds = Holds.none ∧ z.start = x.start + (g - n) ∧
         ∀ c, (y.core c).kernel = some q → (t.cur.core c).start = (y.core c).start + (g - n) ∧
           (t.cur.core c).task = if (y.core c).task = .held then .running else (y.core c).task))) ∧
    (x.state ≠ .held ∨ x.holds.waiting = false → exec (.holdTimeout q) s = .next s) ∧
    (∀ c, x.state = .held → x.holds.waiting = true → x.lead = true → x.dies ≠ [] → (∀ d ∈ x.dies, d < 4) → y.unsatisfied q x = [(c, .out)] →
      (SMap.getD x.holds.since c w + 100 * holdlimOf (y.sections x) ≤ w → ∃ t z r, exec (.holdTimeout q) s = .next t ∧ t.cur.kern q = some z ∧
        z = { x with state := .stopped, stop := some {
          kind := .fault, boundary := g, hub := y.hub, inval := none, report := some r, more := false, collateral := false } } ∧
        r.cause = 0x15 ∧ r.detail = [0, 0, 0] ∧ r.coreNo = c) ∧
      (w < SMap.getD x.holds.since c w + 100 * holdlimOf (y.sections x) → exec (.holdTimeout q) s = .next (put x))) ∧
    (∀ e, x.holds.duty = some e → exec (.dutyHoldExpiry q) s =
      .next (if e ≤ w then put { x with holds := { x.holds with duty := none } } else s)) ∧
    (∀ num den, exec (.operatingPointChange num 0) s = .next s ∧ exec (.operatingPointChange 0 den) s = .next s ∧
      (num ≠ 0 → den ≠ 0 → x.lead = true → x.state = .running → (∃ d ∈ x.dies, d < 4 ∧ (y.die d).run = .running) →
        ∃ t, exec (.operatingPointChange num den) s = .next t ∧ t.cur.opNext = some (num, den) ∧ t.cur.opNum = y.opNum ∧ t.cur.opDen = y.opDen ∧
          t.cur.kern q = some { x with holds := { x.holds with opPoint := true } }) ∧
      (num ≠ 0 → den ≠ 0 → (∀ x ∈ y.kernels, x.2.lead = false) →
        (∀ c ∈ y.cores, c.2.abandoned = false ∧ c.2.mx.prior = [] ∧ c.2.mx.seq.pair = none) → ∃ t, exec (.operatingPointChange num den) s = .next t ∧
        t.cur.opNum = num ∧ t.cur.opDen = den ∧ t.cur.opNext = none ∧ ∀ d < 4, (y.die d).run = .running → (t.cur.die d).run = .running))

/-- When a cycle ends with a fault of a running kernel, the module is again as at the boundary before the cycle, nothing of the
cycle having taken effect, and the kernel stops there on all of its dies: every tile task of it is stopped with the same FCAUSE,
the cause, word, core, cluster, die, KIND and first detail word of the report, and with FBIX its own position; the other kernels
of the dies stop as collateral and keep theirs. Of two faults of one die the first by R290 is reported, with MORE. A TRAP of the
cycle before stops its kernel in the same way at this boundary. -/
def Obligations.TakingAnException : Prop :=
(∀ (s : State) (r r' : Report) (l : List Report) (q : Nat) (x : Kernel), s.cur.power.powered = true → s.issue.active = false →
    s.todo = [] → s.phase = 18 → (cycleFaults s).filter (fun r => !r.late) = l →
    (l = [r] ∨ (r.before r' ∧ r'.die = r.die ∧ (l = [r, r'] ∨ l = [r', r]))) →
    s.old.kern q = some x → x.state = .running → r.kernel = some q → r.die ∈ x.dies → (∀ d ∈ x.dies, d < 4) →
    ∃ t, step s = .next t ∧ s.old.stoppedFor t.cur .fault r (l.length == 2) q x ∧ t.faults = [] ∧ t.todo = [] ∧ t.phase = 4 ∧
      t.inputs = s.inputs ∧ t.fresh = s.fresh) ∧
  (∀ (s : State) (r : Report) (q : Nat) (x : Kernel), s.cur.power.powered = true → s.issue.active = false →
    s.todo = [] → s.phase = 1 → s.faults = [r] → r.late = true → r.rank = 1 → r.cause = 0 →
    s.cur.kern q = some x → x.state = .running → r.kernel = some q → r.die ∈ x.dies → (∀ d ∈ x.dies, d < 4) →
    ∃ t, step s = .next t ∧ s.cur.stoppedFor t.cur .trap r false q x ∧ t.faults = [] ∧ t.phase = 2)

/-- A forced pre-emption stops a held kernel, or a running one at the boundary it names, at most 8 cycles ahead; a step-point
pre-emption marks the kernel to be held. After a stop the save of a kernel begins unless firmware can resolve its fault or the
stop was collateral, and so does that of one held for pre-emption. In a power fail, accesses still out after 100 µs land with
status 3 and LOST is set. A fault is judged and resolved in its turn, not in a power fail, and leaves the kernel free to go on;
one resolved by copying a page that others share first has the translations of the page dropped by every die and waits for the
accesses through them, and pages are copied only when memory work may fall (R414). Says of forcedPreemption, stepPointPreemption,
firmwareStopHandling, saveOutstandingTimeout, faultResolution that exec answers a next state, and which, under conditions on the
state and the operands alone. That at the 100 µs limit every access of the kernel goes, and OUTST falls to 0 whatever was
outstanding, is log 86 (DEDUCED; R297 names LDG and atomics only). Firmware's own invalidations are log 177. -/
def Obligations.StopsAndPreemption : Prop :=
∀ (s : State) (q : Nat) (x : Kernel), s.cur.kern q = some x →
    let y := s.cur
    let g := y.kernelNow x
    let put := fun (z : Kernel) => s.onCur fun y => { y with kernels := SMap.put y.kernels q z }
    let active := x.state = .running ∨ x.state = .held
    let failing := y.power.hib ≠ none ∨ y.power.shed = true
    (∀ n,
      (¬ active → exec (.forcedPreemption q n) s = .next s) ∧
      (active → x.state = .held ∨ g = n → exec (.forcedPreemption q n) s = .next (s.onCur fun y => y.stopAt .preempt none false [q] x.dies)) ∧
      (x.state = .running → g < n → n ≤ g + 8 → exec (.forcedPreemption q n) s = .next { s with
        inputs := s.inputs ++ [{ time := y.hub + 1, unit_ := 0, event := .forcedPreemption q n }] }) ∧
      (x.state = .running → n < g ∨ g + 8 < n → exec (.forcedPreemption q n) s = .next s)) ∧
    exec (.stepPointPreemption q) s = .next (put (if active then { x with holds := { x.holds with preempt := true } } else x)) ∧
    (let resolvable := ¬ failing ∧ ∃ t r z, x.stop = some t ∧ t.report = some r ∧ y.resolveFault x.ctx s.fresh r = some z
     let stopped := x.state = .stopped ∧ (∃ t, x.stop = some t ∧ (t.collateral = false ∨ failing)) ∧ ¬ resolvable
     let held := x.state = .held ∧ (x.holds.preempt = true ∨ x.holds.shed = true)
     let undecided := ∃ t, x.stop = some t ∧ (t.inval ≠ none ∨ (¬ failing ∧ s.faultQueued t.hub = true ∧
       ∃ r, t.report = some r ∧ (r.cause = 0x30 ∨ r.cause = 0x31)))
     (x.saving = none → stopped ∨ held → ¬ undecided →
       exec (.firmwareStopHandling q) s = .next (put { x with saving := some y.wallc.toNat })) ∧
     (x.saving ≠ none ∨ (¬ stopped ∧ ¬ held) ∨ undecided → exec (.firmwareStopHandling q) s = .next s)) ∧
    (∀ h, s.faultQueued h = true ↔ (∃ b ∈ y.pageReqs, b.hub ≤ h) ∨ y.faultWaits h = true ∨
      ∃ i ∈ s.inputs, servedByFirmware i.event = true ∧ i.time ≤ h) ∧
    (∀ t r, x.stop = some t → t.report = some r →
      let page := y.pageAt x.ctx ((r.detail.getD 0 0 + 2 ^ 32 * r.detail.getD 1 0) % 2 ^ 54)
      let ranges := y.copyRanges x.ctx r
      let waits := failing ∨ (∃ p, page = some p ∧ y.invalidating x.ctx p = true) ∨ s.faultQueued t.hub = true
      let done := fun (z : Sys) => exec (.faultResolution q) s = .next { s with
        fresh := s.fresh + 2
        cur := { z with kernels := SMap.put z.kernels q { x with stop := some {
          kind := .fault, boundary := t.boundary, hub := t.hub, inval := none, report := none, more := false, collateral := true } } } }
      (∀ p, page = some p → ranges = if r.cause = 0x31 ∧ codeDD p.code = true ∧ 1 < ((SMap.get? y.frames (p.tier.getD p.pa)).map (·.refc)).getD 1
        then [(x.ctx, p.va, pageSize p.code)] else []) ∧
      (t.inval = none → waits ∨ y.resolveFault x.ctx s.fresh r = none → exec (.faultResolution q) s = .next s) ∧
      (∀ z l, t.inval = none → ¬ waits → y.resolveFault x.ctx s.fresh r = some (z, l) →
        (ranges = [] → (∀ m ∈ l, y.worksOn m.1 m.2 = true) → done z) ∧
        (ranges = [] → (∃ m ∈ l, y.worksOn m.1 m.2 = false) → exec (.faultResolution q) s = .next { s with fresh := s.fresh + 2 }) ∧
        (ranges ≠ [] → exec (.faultResolution q) s = .next (s.onCur fun y => { y with
          nextId := y.nextId + 1
          invals := y.invals ++ [{ no := y.nextId, ranges := ranges, acks := if y.trust.form = 1 then [0] else [0, 1, 2, 3], waits := [] }]
          kernels := SMap.put y.kernels q { x with stop := some { t with inval := some y.nextId } } }))) ∧
      ∀ v i, t.inval = some v → (y.invals.find? fun w => w.no == v) = some i →
        let ended := i.acks = [] ∧ ∀ n ∈ i.waits, y.performed n = true
        (¬ ended → exec (.faultResolution q) s = .next s) ∧
        (ended → ∀ z l, { y with invals := y.invals.filter fun w => w.no != v }.resolveFault x.ctx s.fresh r = some (z, l) →
          (∀ m ∈ l, y.worksOn m.1 m.2 = true) → done z)) ∧
    (∀ r p, y.pageAt x.ctx ((r.detail.getD 0 0 + 2 ^ 32 * r.detail.getD 1 0) % 2 ^ 54) = some p → r.detail.getD 2 0 = 0 → r.cause = 0x30 →
      p.state ≠ .retired → y.resolveFault x.ctx s.fresh r =
        some (y.loadTlb r.die s.fresh { ctx := x.ctx, va := p.va, pa := p.pa, code := p.code, locked := 0 }, [])) ∧
    (let mine := fun (a : Access) => a.core.any fun c => (y.core c).kernel == some q
     (x.saving = none → exec (.saveOutstandingTimeout q) s = .next s) ∧
     (∀ w, x.saving = some w → ¬ failing ∨ y.wallc.toNat < w + 10000 ∨ (∀ c ∈ y.coresOf q, (y.core c).csr.outst = 0) →
       exec (.saveOutstandingTimeout q) s = .next s) ∧
     (∀ w, x.saving = some w → failing → w + 10000 ≤ y.wallc.toNat → (∃ c ∈ y.coresOf q, (y.core c).csr.outst ≠ 0) →
       ∃ t, exec (.saveOutstandingTimeout q) s = .next t ∧ t.cur.kern q = some { x with lost := true } ∧
         (∀ a, a ∈ t.cur.accesses ↔ a ∈ y.accesses ∧ mine a = false) ∧
         (∀ c, (y.core c).kernel = some q → (t.cur.core c).csr.outst = 0 ∧ (t.cur.core c).s = (y.core c).s) ∧
         (∀ a c lp, y.accesses.filter mine = [a] → a.core = some c → a.lp = some lp →
           (∀ r ∈ y.pageReqs, r.core ≠ c) → (∀ t ∈ y.link.transfers, t.core ≠ c) → (∀ t ∈ y.link.rejoins, t.core ≠ c) →
           ∀ i < 64, (¬ ∃ w ∈ (y.core c).wrote, w.1 ≤ lp / 64 * 64 + i ∧ lp / 64 * 64 + i < w.1 + w.2.1) →
             Mem.get (t.cur.core c).spad (lp / 64 * 64 + i) = if i = 8 then 3 else 0)))

/-- A save completes once nothing is outstanding and firmware has the stacks, all their work at its end: the records are kept
with their boundary and stop, each running task recorded as saved, the tile tasks are unbound, and the kernel is saved; one
stopped by a fault or a trap outside a power fail ends with STATUS 1. A restore waits for VALID; a refused header ends it with
cause 0x40, a kernel saved after a fault, or given one while it binds, ends with its report; else it takes clusters under the
variant that admission gives, then loads what the save area in memory holds with every time moved to g, the first later cycle
that differs from the boundary by a multiple of 4096. A resume marks the kernels of its dies, and once their stacks are back
every tile task runs on from where it stopped, its dies advancing again. Says of saveCompletion, restore, resume that exec
answers a next state, and which, under conditions on the state and the operands alone. The end of a kernel saved after a fault is
log 87, of one whose area is refused log 147 (both DEDUCED), and the bytes and typed parts of the area are log 19 (DESIGN
CHOICE). -/
def Obligations.SavesAndReturns : Prop :=
∀ (s : State) (q : Nat) (x : Kernel), s.cur.kern q = some x →
    let y := s.cur
    let failing := y.power.hib ≠ none ∨ y.power.shed = true
    let quiet := (∀ c ∈ y.coresOf q, (y.core c).csr.outst = 0) ∧ ∀ k ∈ y.stacksOf q, (y.stk k).driver ≠ .compiled ∧ (y.stk k).writes = [] ∧
      ∀ c ∈ (y.stk k).pchs, c.2.stepping = false ∧ c.2.lturn = none ∧ ∀ b, c.2.busy = some b → b.2 ≠ .commit ∧ b.2 ≠ .engine
    let whole := ∀ c, (y.core c).kernel ≠ some q → (y.core c).abandoned = false
    let saved := fun (k : Core) =>
      { k with task := if k.task ∈ [TaskState.running, .held, .stopped] then TaskState.saved else k.task, wrote := [] }
    (x.saving = none ∨ ¬ quiet → exec (.saveCompletion q) s = .next s) ∧
    (x.saving ≠ none → quiet → whole →
      let ends := ¬ failing ∧ ∃ t, x.stop = some t ∧ (t.kind = .fault ∨ t.kind = .trap)
      ∃ t z, exec (.saveCompletion q) s = .next t ∧ t.cur.kern q = some z ∧
        (∀ c, (y.core c).kernel = some q → (t.cur.core c).task = .unbound ∧ (t.cur.core c).kernel = none) ∧
        (ends → z.state = .ended ∧ z.status = 1 ∧ SMap.get? t.cur.saved q = none) ∧
        (¬ ends → z = { x with state := .saved, saving := none, lost := false, holds := Holds.none } ∧
          ∃ r, SMap.get? t.cur.saved q = some r ∧ r.valid = true ∧ r.lost = x.lost ∧ r.stop = x.stop ∧ r.retained = [] ∧
            r.boundary = (match x.holds.step with
              | some k => if x.lead then y.kernelNow x else x.start + stepCycle (y.sections x) k
              | none => (x.stop.map (·.boundary)).getD (y.kernelNow x)) ∧
            ∀ c k, y.coresOf q = [c] → y.core c = k → k.kernel = some q → r.cores = [(160 * x.dies.findIdx (· == c / 160) + c % 160, saved k)])) ∧
    (∀ r, SMap.get? y.saved q = some r →
      let header := y.areaOf x 4096
      let valid := (areaNat header 0xC 4).testBit 0 = true
      let free := y.admissionOpen = true
      let ended := fun (cause : Nat) => ∃ t z, exec (.restore q) s = .next t ∧ t.cur.kern q = some z ∧ z.state = .ended ∧ z.status = 1 ∧
        z.cause = cause ∧ SMap.get? t.cur.saved q = none
      (¬ valid ∨ (x.state = .saved ∧ ¬ free) → exec (.restore q) s = .next s) ∧
      (x.state = .saved → valid → free → areaOk header = false → ended 0x40) ∧
      (valid → x.state = .binding ∨ (x.state = .saved ∧ free ∧ areaOk header = true) → ∀ e, (r.stop.bind (·.report)) = some e →
        ended (((r.cores.head?.map (·.2)).getD Core.reset).csr.fcause.toNat % 256)) ∧
      (x.state = .saved → valid → free → areaOk header = true → (r.stop.bind (·.report)) = none → ∀ o v,
        y.firstAction false y.offers = some (o, .grant v) → o.back = some q →
          let dies := diesOfMask ((masksOf (y.sections x)).getD v 0)
          ∃ t z, exec (.restore q) s = .next t ∧ t.cur.kern q = some z ∧ z.state = .binding ∧ z.variant = v ∧ z.dies = dies ∧
            ∀ c ∈ ranksOf (y.sections x) dies, (t.cur.cluster c).owner = some q) ∧
      (x.state = .binding → valid → (r.stop.bind (·.report)) = none → y.tlbBusy = false → (∀ d ∈ x.dies, (y.die d).gnomon = (y.die (x.dies.headD 0)).gnomon ∧ (y.die d).run = .running) →
        x.dies.Nodup →
        let a := y.areaOf x (saveNeed (y.sections x))
        ∃ t z g, exec (.restore q) s = .next t ∧ t.cur.kern q = some z ∧ z.state = .bound ∧ SMap.get? t.cur.saved q = none ∧
          y.kernelNow x < g ∧ r.boundary ≤ g ∧ (g - r.boundary) % 4096 = 0 ∧ (y.kernelNow x + 4096 < g → g = r.boundary) ∧
          z.start = ((r.boundary : Int) - areaInt a 0x18 8).toNat + (g - r.boundary) ∧ z.readyAt = Nat.max g z.start ∧
          ∀ i d c n k m, x.dies[i]? = some d → c ∈ clustersIn (y.sections x) i → n < 8 → r.cores[m]? = some (160 * i + 8 * c + n, k) →
            (∀ j < m, (r.cores[j]?).map (·.1) ≠ some (160 * i + 8 * c + n)) → areaNat a 6 2 = 2 →
            let w := t.cur.core (160 * d + 8 * c + n)
            let o := 4096 + m * 2 ^ 22
            w.kernel = some q ∧ (∀ j, 0 < j → j < 64 → w.sreg j = BitVec.ofNat 64 (areaNat a (o + 0x100 + 8 * j) 8)) ∧
              (∀ j < 64, SMap.getD w.v j 0 = BitVec.ofNat 4096 (areaNat a (o + 0x28000 + 512 * j) 512)) ∧
              (∀ j, 0 < j → j < 16 → SMap.getD w.k j 0 = BitVec.ofNat 512 (areaNat a (o + 0x340 + 64 * j) 64)) ∧
              (d ∉ r.retained → ∀ j < 0x200000, Mem.get w.spad j = Mem.get a (o + 0x200000 + j)) ∧
              (d ∉ r.retained → ∀ j < 0x100000, Mem.get w.mx.acc j = Mem.get a (o + 0x100000 + j)) ∧
              ((headPiece r.boundary (partnerOf r (160 * i + 8 * c + n, k)) k).stands a o = true →
                w.ip = k.ip ∧ w.idle = k.idle ∧ w.start = k.start + (g - r.boundary)) ∧
              ((∀ p ∈ fullPieces r.boundary k, p.off = 0x40000 → p.stands a o = true) → ∀ j : Nat, w.pending[j]? =
                (k.pending[j]?).map fun (p : Pending) => { p with land := p.land + (g - r.boundary), issue := p.issue + (g - r.boundary) }) ∧
              w.task = (match areaNat a o 8 % 8 with | 0 => .bound | 2 => .halted | _ => .running))) ∧
    (let ds := y.reach x.dies
     let may := x.state = .stopped ∧ ¬ failing ∧ ∀ k ∈ y.kernels, k.2.placed = true → (∃ d ∈ k.2.dies, d ∈ ds) → k.2.state = .stopped →
       k.2.saving = none ∧ ∃ t, k.2.stop = some t ∧ t.collateral = true
     let back := ∀ k ∈ y.kernels, k.2.placed = true → (∃ d ∈ k.2.dies, d ∈ ds) → k.2.state = .stopped → ∀ n ∈ y.stacksOf k.1, (y.stk n).driver ≠ .hold ∧
       (y.stk n).driver ≠ .selfRefresh ∧ ∀ c ∈ (y.stk n).pchs, ∀ b ∈ c.2.banks, b.2.opened = true → since (2 * y.hub) 92 b.2.act = true
     (¬ may → exec (.resume q) s = .next s) ∧
     (may → x.holds.due = true → ¬ back → exec (.resume q) s = .next s) ∧
     (may → x.holds.due = false → (∃ d ∈ x.dies, d < 4) → ∃ t, exec (.resume q) s = .next t ∧
       t = { s with cur := { y with kernels := t.cur.kernels } } ∧ t.cur.kern q = some { x with holds := { x.holds with due := true } }) ∧
     (may → x.holds.due = true → back → (∀ d ∈ x.dies, d < 4) → x.dies ≠ [] → (∀ c, (y.core c).abandoned = false) →
       ∃ t, exec (.resume q) s = .next t ∧
         t.cur.kern q = some { x with
           state := if x.holds.step = none then .running else .held
           stop := none
           holds := { x.holds with due := false }
           readyAt := y.kernelNow x } ∧
         (∀ d ∈ x.dies, (y.die d).run = .stopped → t.cur.die d = { y.die d with run := .running, equalise := 0 }) ∧
         (∀ c, (y.core c).kernel = some q → t.cur.core c = { y.core c with
           task := if (y.core c).task = .stopped then (if x.holds.step = none then .running else .held) else (y.core c).task
           copies := (t.cur.core c).copies
           mx := { (y.core c).mx with seq := (t.cur.core c).mx.seq } })))

/-- Firmware takes requests and page faults in the order in which they came, and turns away with status 3 what a power-fail
sequence finds not begun. A TLBINV over a locked page answers REASON 2; else each die drops its entries, and when all have and
the accesses translated through them have performed it answers with the number dropped; a PGREL and a host command drop theirs
first in the same way. PGREL and PGACC of a page that is not being released or offered answer REASON 4, a page that is not mapped
1; QUERY answers the attribute code and the reference count. A scrub that nothing reaches frees its frame with zeros. A withdrawn
offer is scrubbed. Layer groups of a stack retire in the order 3, 2, 1, 0; a retirement waits while the group holds what may not
move, drops its translations, and once their accesses have performed moves its pages and is offline. Says of pageRequestPerform,
tlbinvDieAck, scrubCompletion, layerGroupRetire, layerGroupReturn, hostOfferWithdrawal that exec answers a next state, and which,
under conditions on the state and the operands alone. VALUE of TLBINV as the die-TLB entries removed is log 62, a retirement that
waits for offered and scrubbing frames log 146, the status of pinned pages log 117, a releasing page that comes back log 175, and
firmware's own invalidations log 177 (all DEDUCED). -/
def Obligations.PageEvents : Prop :=
∀ (s : State),
    let y := s.cur
    let hit := fun (c a n : Nat) (e : TlbEntry) => e.ctx == c && decide (e.va < a + n) && decide (a < e.va + pageSize e.code)
    let without := fun (x : Die) (c a n : Nat) => { x with
      tlb := x.tlb.filter fun e => !hit c a n e, coreTlbs := x.coreTlbs.map fun k => (k.1, k.2.filter fun e => !hit c a n e) }
    let used := fun (d c a n : Nat) (ids : List Nat) => ∀ b ∈ y.accesses, b.result = none → b.ctx = c → b.ea.toNat / 2 ^ 61 = 0 →
      (∃ m, b.core = some m ∧ m / 160 = d) → (∃ e ∈ (y.die d).tlb, hit c a n e = true ∧ e.va ≤ b.ea.toNat % 2 ^ 54 ∧
        b.ea.toNat % 2 ^ 54 < e.va + pageSize e.code) → b.id ∈ ids
    (y.pageReqs = [] → exec .pageRequestPerform s = .next s ∧ (y.invals = [] → ∀ d, exec (.tlbinvDieAck d) s = .next s)) ∧
    (∀ v d c a n, y.pageReqs = [] → y.invals = [v] → v.ranges = [(c, a, n)] →
      (d ∉ v.acks → exec (.tlbinvDieAck d) s = .next s) ∧
      (d ∈ v.acks → ∃ ids, exec (.tlbinvDieAck d) s = .next (s.onCur fun y =>
          { y.setDie d (without (y.die d) c a n) with invals := [{ v with acks := v.acks.erase d, waits := v.waits ++ ids }] }) ∧ used d c a n ids)) ∧
    (∀ r rest, y.pageReqs = r :: rest →
      let va := fieldLe r.block 0 8 % 2 ^ 61
      let arg := fieldLe r.block 8 8
      let aux := fieldLe r.block 16 8
      let sub := fieldLe r.block 24 1
      let stepped := { s with fresh := s.fresh + 1 }
      let ends := fun (y : Sys) (reason value : Nat) => stepped.onCur fun _ =>
        { y with pageReqs := rest }.landAnswer r.core r.lp r.tag
          (BitVec.ofNat 64 (if reason = 0 then 256 * value else reason)) (if reason = 0 then 0 else 4)
      let first := fun (z : PageReq) (t : State) => t.onCur fun y => { y with pageReqs := z :: rest }
      let locked := ∃ d ∈ y.dies, ∃ e ∈ d.2.tlb, e.locked ≠ 0 ∧ e.ctx = r.ctx ∧ e.va < va + aux ∧ va < e.va + pageSize e.code
      let page := y.pageAt r.ctx va
      let earlier := y.faultWaits r.hub = true ∨ ∃ i ∈ s.inputs, servedByFirmware i.event = true ∧ i.time < r.hub
      let open_ := r.started = false ∧ y.power.hib = none ∧ ¬ earlier
      let done := r.started = true ∧ r.acks = [] ∧ ∀ i ∈ r.waits, y.performed i = true
      let now := open_ ∧ r.req = none
      let begins := fun (l : List (Nat × Nat × Nat)) => exec .pageRequestPerform s = .next (first
        { r with started := true, ranges := l, acks := if y.trust.form = 1 then [0] else [0, 1, 2, 3] } stepped)
      (r.started = false → y.power.hib ≠ none →
        (r.req = none → exec .pageRequestPerform s = .next (stepped.onCur fun _ => { y with pageReqs := rest }.landAnswer r.core r.lp r.tag 0 3)) ∧
        ∀ h, r.req = some h → exec .pageRequestPerform s = .next ((stepped.onCur fun _ => { y with pageReqs := rest }).replies r.op h 5 [])) ∧
      (r.started = false → y.power.hib = none → earlier → exec .pageRequestPerform s = .next stepped) ∧
      (r.started = true → ¬ done → exec .pageRequestPerform s = .next stepped) ∧
      (now → r.op = 3 → locked → exec .pageRequestPerform s = .next (ends y 2 0)) ∧
      (now → r.op = 3 → ¬ locked → begins [(r.ctx, va, aux)]) ∧
      (done → r.req = none → r.op = 3 → exec .pageRequestPerform s = .next (ends y 0 r.dropped)) ∧
      (∀ d c a n, r.started = true → d ∈ r.acks → r.ranges = [(c, a, n)] → y.invals = [] →
        ∃ ids, exec (.tlbinvDieAck d) s = .next (first
            { r with acks := r.acks.erase d, waits := r.waits ++ ids, dropped := r.dropped + ((y.die d).tlb.filter (hit c a n)).length }
            (s.onCur fun y => y.setDie d (without (y.die d) c a n))) ∧ used d c a n ids) ∧
      (∀ d, r.started = false ∨ d ∉ r.acks → y.invals = [] → exec (.tlbinvDieAck d) s = .next s) ∧
      (now → r.op = 4 ∨ (r.op = 6 ∧ sub ≠ 1) → page = none → exec .pageRequestPerform s = .next (ends y 1 0)) ∧
      (∀ p, now → page = some p → p.state = .retired → r.op = 4 ∨ (r.op = 6 ∧ sub ≠ 1) → exec .pageRequestPerform s = .next (ends y 7 0)) ∧
      (∀ p, now → page = some p → p.state ≠ .retired → p.va ≠ va → r.op = 4 ∨ (r.op = 6 ∧ sub = 0) → exec .pageRequestPerform s = .next (ends y 5 0)) ∧
      (∀ p, now → page = some p → p.va = va → p.state ≠ .retired → r.op = 4 → p.state ≠ .releasing → exec .pageRequestPerform s = .next (ends y 4 0)) ∧
      (∀ p, page = some p → p.va = va → r.op = 4 → p.state = .releasing → y.lockedIn r.ctx va (pageSize p.code) = false → r.req = none →
        (now → begins [(r.ctx, va, pageSize p.code)]) ∧
        (done → ∃ t, exec .pageRequestPerform s = .next t ∧ (t.cur.ctx r.ctx).pages = (y.ctx r.ctx).pages.filter (fun q => q.va != va) ∧
          ∀ f, SMap.get? y.frames p.pa = some f → f.refc ≤ 1 → SMap.get? t.cur.frames p.pa = some { f with refc := 0, state := .scrubbing })) ∧
      (now → r.op = 5 → (∀ f ∈ y.frames, f.2.state = .offered → f.2.owner = r.ctx → f.2.handle.toNat ≠ arg) →
        exec .pageRequestPerform s = .next (ends y 4 0)) ∧
      (∀ f, now → r.op = 5 → y.frames = [f] → f.2.state = .offered → f.2.owner = r.ctx → f.2.handle.toNat = arg →
        let code : BitVec 16 := ((BitVec.ofNat 16 aux) &&& 0x7FBF) ||| 0x8000
        pageSize code = f.2.size → va % f.2.size = 0 → y.overlaps r.ctx va f.2.size = false → codeOk aux = true →
        codeRefused code f.1 = false → y.mayRegister (if codeDclass code ≠ 0 then f.2.size else 0) = true →
        ∃ t, exec .pageRequestPerform s = .next t ∧ (t.cur.ctx r.ctx).pages = (y.ctx r.ctx).pages ++
          [{ va := va, pa := f.1, code := code, state := .mapped, rtag := none, tier := none }] ∧
          t.cur.frames = [(f.1, { f.2 with refc := 1, state := .mapped, code := code })]) ∧
      (∀ p, now → page = some p → p.state ≠ .retired → r.op = 6 → sub = 2 → exec .pageRequestPerform s =
        .next (ends y 0 (p.code.toNat + 2 ^ 16 * (((SMap.get? y.frames p.pa).map (·.refc)).getD 1 % 2 ^ 40)))) ∧
      (∀ h v z l, open_ → r.req = some h → requestEffect y r s.fresh = (0, v, z) → y.requestRanges r = l → l ≠ [] → begins l) ∧
      ∀ h reason v z, r.req = some h → requestEffect y r s.fresh = (reason, v, z) →
        (done ∧ y.moveWorks z r = true) ∨ (open_ ∧ (reason ≠ 0 ∨ y.requestRanges r = [])) → exec .pageRequestPerform s =
          .next ((stepped.onCur fun _ => { z with pageReqs := rest }).replies r.op h (if r.op = 0x22 ∧ reason ≠ 0 then 256 + reason else reason) [])) ∧
    (∀ (n : Nat) (f : Frame), SMap.get? s.cur.frames n = some f →
      let reached := ∃ a ∈ s.cur.accesses, a.result = none ∧ (a.ea.toNat / 2 ^ 61 = 0 ∨ a.ea.toNat / 2 ^ 61 = 7) ∧ n ≤ a.pa ∧ a.pa < n + f.size
      let reached := reached ∨ s.cur.writesTo n f.size = true ∨ s.cur.worksOn n f.size = false ∨
        ∃ v ∈ s.cur.invals, s.cur.invalDone v.no = false ∧ ∃ r ∈ v.ranges, r.1 = f.owner
      (f.state ≠ .scrubbing ∨ reached → exec (.scrubCompletion n) s = .next s) ∧
      (f.state = .scrubbing → ¬ reached → ∃ t, exec (.scrubCompletion n) s = .next t ∧ t.cur.frames = SMap.del s.cur.frames n ∧
        ∀ a, Mem.get t.cur.hbm a = (if inTier n = false ∧ n ≤ a ∧ a < n + f.size then 0 else Mem.get s.cur.hbm a) ∧
          Mem.get t.cur.tier a = if inTier n = true ∧ n ≤ a ∧ a < n + f.size then 0 else Mem.get s.cur.tier a) ∧
      exec (.hostOfferWithdrawal n) s = .next (if f.state = .offered then
        s.onCur fun y => { y with frames := SMap.put y.frames n { f with state := .scrubbing } } else s)) ∧
    (∀ k g : Nat,
      let within := fun (a : Nat) => inHbm a = true ∧ a / stackBytes = k ∧ a % stackBytes / 2 ^ 27 % 4 = g
      let holds := (∃ f ∈ y.frames, within f.1 ∧ (f.2.state = .offered ∨ f.2.state = .scrubbing)) ∨
        (∃ x ∈ y.ctxs, ∃ p ∈ x.2.pages, p.state ≠ .retired ∧ within p.pa ∧
          (codePin p.code = true ∨ codeCC p.code = true ∨ y.lockedIn x.1 p.va (pageSize p.code) = true)) ∨
        ∃ r ∈ y.retiring, r.stack = k ∧ g < r.group
      let others := y.retiring.filter fun r => !(r.stack == k && r.group == g)
      let put := fun (l : List Retiring) => s.onCur fun y => { y with retiring := l }
      let told := fun (added : Bool) => (List.range 96).map fun i => HostReply.extent (k * stackBytes + (4 * i + g) * 2 ^ 27) added
      ((∀ r ∈ y.retiring, ¬ (r.stack = k ∧ r.group = g)) →
        let may := y.trust.form = 3 ∧ k < 8 ∧ g < 4 ∧ (k, g) ∉ y.retired ∧
          ∀ j < 4, g < j → (k, j) ∈ y.retired ∨ ∃ r ∈ y.retiring, r.stack = k ∧ r.group = j
        (may → exec (.layerGroupRetire k g) s = .next (put (y.retiring ++ [{ stack := k, group := g, inval := none }]))) ∧
        (¬ may → exec (.layerGroupRetire k g) s = .next s)) ∧
      (∀ w, (y.retiring.find? fun r => r.stack == k && r.group == g) = some { stack := k, group := g, inval := w } →
        let kept := y.invals.filter fun v => w ≠ some v.no
        (holds → exec (.layerGroupRetire k g) s = .next (s.onCur fun y =>
          { y with invals := kept, retiring := others ++ [{ stack := k, group := g, inval := none }] })) ∧
        (¬ holds → w = none → ∃ l, exec (.layerGroupRetire k g) s = .next (s.onCur fun y => { y with
            nextId := y.nextId + 1
            invals := y.invals ++ [{ no := y.nextId, ranges := l, waits := []
                                     acks := if l = [] then [] else if y.trust.form = 1 then [0] else [0, 1, 2, 3] }]
            retiring := others ++ [{ stack := k, group := g, inval := some y.nextId }] }) ∧
          ∀ x ∈ y.ctxs, ∀ p ∈ x.2.pages, p.state ≠ .retired → within p.pa → (x.1, p.va, pageSize p.code) ∈ l) ∧
        (∀ v, ¬ holds → w = some v →
          (y.invalDone v = false → exec (.layerGroupRetire k g) s = .next s) ∧
          (y.invalDone v = true → (∀ f ∈ y.frames, ¬ within f.1) → (∀ x ∈ y.ctxs, ∀ p ∈ x.2.pages, p.state = .retired ∨ ¬ within p.pa) →
            exec (.layerGroupRetire k g) s = .next { s with
              fresh := s.fresh + 1
              cur := { y with invals := kept, retiring := others, retired := (k, g) :: y.retired, hostOut := y.hostOut ++ told false } }))) ∧
      (∀ v i, (y.invals.find? fun w => w.no == v) = some i →
        (y.invalDone v = true ↔ i.acks = [] ∧ ∀ n ∈ i.waits, y.performed n = true)) ∧
      ((∀ x ∈ y.ctxs, ∀ p ∈ x.2.pages, p.state = .retired → ¬ within p.pa) →
        ((k, g) ∈ y.retired → ∃ t, exec (.layerGroupReturn k g) s = .next t ∧ t = { s with
            fresh := s.fresh + 1
            cur := { y with retired := y.retired.filter (· ≠ (k, g)), hostOut := y.hostOut ++ told true, hbm := t.cur.hbm,
                            poison := t.cur.poison, macs := t.cur.macs } } ∧
          ∀ a, Mem.get t.cur.hbm a = if a / stackBytes = k ∧ a % stackBytes / 2 ^ 27 % 4 = g then 0 else Mem.get y.hbm a) ∧
        ((k, g) ∉ y.retired → (∀ r ∈ y.retiring, ¬ (r.stack = k ∧ r.group = g)) →
          exec (.layerGroupReturn k g) s = .next { s with fresh := s.fresh + 1 }))) ∧
    (∀ n c t p, (y.ctx c).pages = [p] → p.state = .retired → p.tier = some t → inTier p.pa = false → inTier t = true → y.isFree p.pa (pageSize p.code) = true →
      y.worksOn p.pa (pageSize p.code) = true →
      let z := comeBack n y (c, p)
      let refc := ((SMap.get? y.frames t).map (·.refc)).getD 1
      (z.ctx c).pages = [{ p with
        tier := none, code := if codeRlg p.code = 0 then p.code &&& 0x8FFF else p.code,
        state := if y.releasePending c p.va = true then .releasing else if 1 < refc then .shared else .mapped }] ∧
        Mem.read z.hbm p.pa (pageSize p.code) = Mem.read y.tier t (pageSize p.code)) ∧
    (∀ n (c : Nat × Frame) p b, (y.ctx c.2.owner).pages = [p] → p.state ≠ .retired → p.pa = c.1 → inTier c.1 = false → inTier b = false →
      y.freeFrame c.2.size (if codeRlg p.code = 0 then none else some (codeRlg p.code - 1)) n = some b → b ≠ c.1 →
      y.worksOn c.1 c.2.size = true → y.worksOn b c.2.size = true →
      let z := evacuate n y c
      (z.ctx c.2.owner).pages = [{ p with pa := b }] ∧ Mem.read z.hbm b c.2.size = Mem.read y.hbm c.1 c.2.size ∧
        SMap.get? z.frames b = some c.2)

/-- A flit is accepted only by a port with keys, a data flit only with the SEQ expected. It steps the SEQ expected and takes what
the peer has acknowledged, in SEQ order, out of the replay buffer; a port that retries is keyed again when nothing is left to
send or receive again. A data flit for a window that takes it counts its granules there, and the last, with the right CSUM,
finishes the window and is acknowledged, with a wrong one fails it; for no window it is refused once, and while this module holds
it is dropped. Window-open, acknowledgement, checksum failure, refusal, hold, rejoin, rejoin answer, and space-5 request and
answer flits act as R367 to R377 say. A NAK acknowledges the flits before the one it names, which is sent again; the NAKs of
flits that were behind it count no retry; a flit that fails is asked for with a NAK; eight consecutive failed retries, or a
failed authentication of the flit expected, fault the port. Says of flitTransferData, flitWindowOpen, flitAcknowledgement,
flitChecksumFailure, flitHold, flitRejoin, flitRejoinAnswer, flitSpace5Request, flitSpace5Answer, flitRefusal, flitNak,
uncorrectableFlit that exec answers a next state, and which, under conditions on the state and the operands alone. The
acknowledgement that comes with each flit is log 55, a NAK that acknowledges the flits before it log 56, and the fault at the
ninth NAK log 57 (all DEDUCED); window-open flits sent again are log 154, data for the windows of saved kernels log 155 and hold
flits of 32 collectives log 156. -/
def Obligations.Flits : Prop :=
∀ (s : State),
    let p := s.unit
    let x := s.cur.port p
    let acked := fun (x : Port) (upto : Nat) =>
      let nak := x.nak.filter fun n => decide (upto ≤ n)
      { x with
        replay := x.replay.filter fun f => decide (upto ≤ f.seq)
        acks := x.acks.filter fun f => decide (upto ≤ f.seq)
        nak := nak
        retries := if x.nak.isSome && nak.isNone then 0 else x.retries
        state := if x.state = .retrying ∧ nak = none ∧ x.asked = none then .keyed else x.state }
    let came := x.asked = some x.rxSeq
    let x' := acked { x with
        rxSeq := x.rxSeq + 1, asked := if came then none else x.asked, rxRetries := if came then 0 else x.rxRetries }
      (((x.replay[Config.pick s.fresh % (x.replay.length + 1)]?).map (·.seq)).getD x.txSeq)
    let a := { s with fresh := s.fresh + 1 }.onCur fun y => y.setPort p x'
    let z' := { x' with resent := [] }
    let b := a.onCur fun y => y.setPort p z'
    let link := fun (t : State) (f : LinkState → LinkState) => t.onCur fun y => { y with link := f y.link }
    let again := fun (z : Port) => if z.state = .keyed then PortState.retrying else z.state
    let asks := fun (failed : Bool) => (let r := if x.asked = some x.rxSeq then (if failed then x.rxRetries + 1 else x.rxRetries) else 0
      if 8 ≤ r then { x with state := .faulted }
      else { x with state := again x, asked := some x.rxSeq, rxRetries := r, naks := x.naks ++ [x.rxSeq] } : Port)
    let sent := fun (t : State) (f : SentFlit) => t.onCur fun y => y.sendFlit p f
    let up := x.state ∈ [PortState.keyed, .retrying, .answeringHold, .rejoining]
    let settled := fun (x : Transfer) (v : Word) (st : Nat) => a.onCur fun y => { y with link := { y.link with
        known := y.link.known.filter fun k => !(k.peer == x.peer && k.dcore == x.dcore && k.win == x.win && k.xfer == x.xfer)
        transfers := y.link.transfers.filter fun z => z != x } }.landAnswer x.core x.block x.start v st
    let mine := fun (xfer : Nat) => s.cur.link.transfers.find? fun z => z.port == p && z.xfer == xfer
    let taker := fun (f : Flit) => s.cur.winPlace f.dcore.toNat fun k =>
      (SMap.get? k.wins f.win.toNat).any fun w => w.xfer == f.xfer.toNat && [1, 2, 4, 6].contains w.state
    let fresh := fun (f : Flit) => s.cur.link.incoming.all fun x =>
      !(x.port == p && x.xfer == f.xfer.toNat && x.dcore == f.dcore.toNat && x.win == f.win.toNat)
    (¬ up → (∀ f, exec (.flitTransferData f) s = .next s) ∧ (∀ w, exec (.flitWindowOpen w) s = .next s) ∧
      (∀ n, exec (.flitAcknowledgement n) s = .next s ∧ exec (.flitChecksumFailure n) s = .next s ∧ exec (.flitRefusal n) s = .next s) ∧
      (∀ l, exec (.flitHold l) s = .next s) ∧ (∀ n i, exec (.flitRejoin n i) s = .next s) ∧ (∀ ok, exec (.flitRejoinAnswer ok) s = .next s) ∧
      (∀ r, exec (.flitSpace5Request r) s = .next s) ∧ ∀ i st v, exec (.flitSpace5Answer i st v) s = .next s) ∧
    (up → (∀ f : Flit,
        (f.seq.toNat < x.rxSeq → exec (.flitTransferData f) s = .next s) ∧
        (x.rxSeq < f.seq.toNat → exec (.flitTransferData f) s = .next (s.onCur fun y => y.setPort p (asks false))) ∧
        (f.seq.toNat = x.rxSeq → x.ownHold = true → exec (.flitTransferData f) s = .next b)) ∧
    (∀ f : Flit, f.seq.toNat = x.rxSeq → x.ownHold = false → fresh f = true → taker f = none → ∃ l, exec (.flitTransferData f) s =
      .next (sent (link b fun k => { k with incoming := l }) (flitOf kindRefusal f.xfer.toNat))) ∧
    (∀ (f : Flit) at_ w, f.seq.toNat = x.rxSeq → x.ownHold = false → fresh f = true → taker f = some at_ →
      (s.cur.coreAt at_).wins = [(f.win.toNat, w)] → w.block.length = 64 →
      let n := ((List.range 3).filter fun j => f.goff.toNat + j < w.ngran).length
      let text := (List.range w.ngran).flatMap fun j =>
        if f.goff.toNat ≤ j ∧ j < f.goff.toNat + 3 then (f.data.drop (64 * (j - f.goff.toNat))).take 64 else List.replicate 64 0
      ∃ t v, exec (.flitTransferData f) s = .next t ∧ SMap.get? (t.cur.coreAt at_).wins f.win.toNat = some v ∧ v.rcvd = n ∧ v.ngran = w.ngran ∧
        v.state = (if f.last = false then (if w.state = 6 then 6 else 2) else if crc32c text = f.csum then 3 else 4) ∧
        (f.last = true → (t.cur.port p).acks = x'.acks ++ [z'.formed (flitOf (if crc32c text = f.csum then kindAck else kindBad) f.xfer.toNat)]) ∧
        ∀ c, at_ = .core c → (f.last = false → ∀ d, d ≠ c → t.cur.core d = s.cur.core d) ∧ t.cur.hbm = s.cur.hbm ∧ t.cur.tier = s.cur.tier) ∧
    (∀ w : WindowOpen,
      let k : KnownWin := { port := p, peer := w.sender, dcore := w.dcore.toNat, win := w.win.toNat, xfer := w.xfer.toNat, ngran := w.ngran.toNat }
      let t := link (a.onCur fun y => y.setPort p { x' with opens := x.opens ++ [w], resent := x.resent.erase w }) fun l => { l with
        known := (l.known.filter fun x => !(x.peer == k.peer && x.dcore == k.dcore && x.win == k.win)) ++ [k] }
      let counts := w ∉ x.resent ∧ w.reopen = false ∧ w.bar.toNat / 2 ^ 6 % 2 = 1 ∧ w.bar.toNat / 2 ^ 32 ≠ 0
      (¬ counts → exec (.flitWindowOpen w) s = .next t) ∧
      (counts → ∀ c, s.cur.coreNumbered k.dcore (fun _ => true) = some c → exec (.flitWindowOpen w) s = .next (contribute t c (w.bar - 0x100000000))) ∧
      (counts → s.cur.coreNumbered k.dcore (fun _ => true) = none → exec (.flitWindowOpen w) s = .next (
        if (s.cur.link.announces.filter fun x => x.core == k.dcore).length < 64 then link t fun l => { l with announces := l.announces ++
            [{ core := k.dcore, num := w.bar.toNat % 2 ^ 6, phase := w.bar.toNat / 2 ^ 32 - 1, exp := w.bar.toNat / 2 ^ 8 % 2 ^ 16 }] }
        else t))) ∧
    (∀ n : BitVec 24, mine n.toNat = none → exec (.flitAcknowledgement n) s = .next a ∧ exec (.flitChecksumFailure n) s = .next a ∧
      exec (.flitRefusal n) s = .next a) ∧
    (∀ (n : BitVec 24) z, mine n.toNat = some z →
      exec (.flitAcknowledgement n) s = .next (settled z (BitVec.ofNat 64 z.xfer) 0) ∧
      exec (.flitRefusal n) s = .next (settled z 0 4) ∧
      exec (.flitChecksumFailure n) s = .next (if z.resends < 3 then a.onCur fun y =>
          { y with link := { y.link with
              transfers := y.link.transfers.map fun w => if w == z then { z with resends := z.resends + 1 } else w } }.sendTransfer z
        else settled z 0 2)) ∧
    (∀ l, ∃ t, exec (.flitHold l) s = .next t ∧ t.cur.link = (b.onCur fun y => y.setPort p { z' with
        state := .answeringHold, peerHold := some (x.peerHold.getD [] ++ l) }).cur.link ∧
      ∀ c n w, SMap.rising (s.cur.core c).wins = true → SMap.get? (s.cur.core c).wins n = some w →
        SMap.get? (t.cur.core c).wins n = some (
          let step := (l.find? fun c => c.1 == w.coll).map (·.2)
          if x.peer = some w.peer ∧ (w.state = 1 ∨ w.state = 2 ∨ (w.state = 6 ∧ step ≠ none)) then w.change 6 w.rcvd (step.getD 0) else w)) ∧
    (∀ coll step, let own := SMap.getD s.cur.link.colls coll 0
      (own ≠ step → own ≠ step + 1 → exec (.flitRejoin coll step) s = .next (sent b { flitOf kindRejoined 0 with data := [0] })) ∧
      (own = step ∨ own = step + 1 → ∃ t, exec (.flitRejoin coll step) s = .next t ∧ (t.cur.port p).state = .keyed ∧
        (t.cur.port p).peerHold = none ∧ (t.cur.port p).ownHold = false ∧
        ∀ c n w, SMap.rising (s.cur.core c).wins = true → SMap.get? (s.cur.core c).wins n = some w →
          SMap.get? (t.cur.core c).wins n = some (if x.peer = some w.peer ∧ w.state = 6 then w.change 1 w.rcvd 0 else w))) ∧
    (let z := b.onCur fun y =>
       let y := y.setPort p { z' with joins := x.joins.drop 1 }
       if x.joins.length ≤ 1 then y.release p else y
     (∀ ok, (∀ r ∈ s.cur.link.rejoins, p ∈ r.waiting → x.joins.head? ≠ some r.coll) → exec (.flitRejoinAnswer ok) s =
       .next (if ok then z else { z.onCur fun y => match x.joins.head? with
         | some n => y.refuseRejoin (s.fresh + 1) p n
         | none => y with fresh := s.fresh + 2 })) ∧
     (∀ (y : Sys) (free n q c i : Nat) (r : Saved) (k : Core) (w : LandWin), (∀ v ∈ y.kernels, v.2.placed = false) → y.saved = [(q, r)] →
       r.cores = [(c, k)] → k.wins = [(i, w)] → (r.stop.bind (·.report)) = none →
       (w.coll ≠ n → y.refuseRejoin free p n = y) ∧
       (w.coll = n → ∃ v u e, SMap.get? (y.refuseRejoin free p n).saved q = some v ∧ v.stop = some u ∧ u.report = some e ∧ e.cause = 0x54 ∧
         e.detail = [p, (y.port p).peer.getD 0, w.step])) ∧
     ∀ r, s.cur.link.rejoins = [r] → r.waiting = [p] → x.joins.head? = some r.coll →
       (r.refused = false → exec (.flitRejoinAnswer true) s =
         .next ((link z fun k => { k with rejoins := [] }).onCur fun y => y.landAnswer r.core r.block r.start 0 0)) ∧
       ∃ e : Report, e.rank = 3 ∧ e.kernel = (s.cur.core r.core).kernel ∧ e.cause = 0x54 ∧ e.detail = [p, x.peer.getD 0, r.step] ∧ e.coreNo = r.core ∧
         exec (.flitRejoinAnswer false) s = .next (((link z fun k => { k with rejoins := [] }).onCur fun y =>
           y.landAnswer r.core r.block r.start 0 4).onCur fun y =>
             match e.kernel with
             | some q => y.reportNow e q
             | none => y)) ∧
    (∀ (y : Sys) (e : Report) (q : Nat) (k : Kernel), y.kern q = some k →
      y.reportNow e q = if k.stop = none then y.stopAt .fault (some e) false [q] k.dies else y.stopAgain e [q]) ∧
    (∀ r : PeerRequest, let refuse := sent b { flitOf kindAnswer r.id with data := natLe 1 4 ++ natLe 8 0 }
      (s.cur.link.exportWin = none → exec (.flitSpace5Request r) s = .next refuse) ∧
      ∀ e, s.cur.link.exportWin = some e →
        (e.size < r.offset + r.size → exec (.flitSpace5Request r) s = .next refuse) ∧
        (r.offset + r.size ≤ e.size → ∀ g, ((s.cur.ctx e.ctx).pages.find? fun p => p.state != .retired && decide (p.va ≤ e.base + r.offset) &&
            decide (e.base + r.offset < p.va + pageSize p.code)) = some g →
          (r.kind ≠ .load → storeOk g.code = false → exec (.flitSpace5Request r) s = .next refuse) ∧
          (r.kind = .load ∨ storeOk g.code = true → ∃ d : Access, exec (.flitSpace5Request r) s = .next (b.onCur fun y => { y with
              accesses := y.accesses ++ [d], nextId := y.nextId + 1 }) ∧
            d.id = s.cur.nextId ∧ d.peer = some p ∧ d.core = none ∧ d.tag = r.id ∧ d.kind = r.kind ∧ d.size = r.size ∧ d.data = r.data ∧
              d.data2 = r.data2 ∧ d.pa = g.pa + (e.base + r.offset - g.va) ∧ d.arrived = none ∧ d.result = none))) ∧
    (∀ id st v, let t := link b fun k => { k with remotes := k.remotes.filter fun r => r.id != id }
      (s.cur.access id = none → exec (.flitSpace5Answer id st v) s = .next t) ∧
      ∀ b, s.cur.access id = some b → exec (.flitSpace5Answer id st v) s =
        .next (t.landed b (if b.kind = .load then loaded b.width b.size (v.toNat % 2 ^ (8 * b.size)) else v) st.toNat))) ∧
    ((∀ n : BitVec 64, exec (.flitNak n) s = .next (if up then s.onCur fun y => y.setPort p
         (let z : Port := acked x n.toNat
          let retried := fun (r ahead : Nat) => if 8 < r then { z with state := .faulted }
            else { z with state := again z, nak := some n.toNat, retries := r, nakAhead := ahead, nakAt := x.txSeq }
          if z.nak ≠ some n.toNat then retried 1 (x.txSeq - (n.toNat + 1))
          else if x.nakAhead ≠ 0 then { z with nakAhead := x.nakAhead - 1 } else retried (z.retries + 1) (x.txSeq - x.nakAt))
       else s)) ∧
     ∀ n why, exec (.uncorrectableFlit n why) s = .next (
       let faulted := s.onCur fun y => y.setPort p { x with state := .faulted }
       match why with
       | .duplicate => s
       | .authentication => if x.state = .up ∨ (up ∧ n.toNat = x.rxSeq) then faulted else s
       | _ => if x.state = .up then faulted else if up then s.onCur fun y => y.setPort p (asks (n.toNat = x.rxSeq)) else s))

/-- A port that is down or faulted trains; one trained with at most 320 modules is up, and keying with a chain that is accepted
sets both counters to 0 and the keys of R408, as after a rekey; a chain that is refused leaves the port down. A space-5 access
takes the lowest keyed port cabled to its module, else the port with fewest hops. A rekey sends the kept acknowledgements and
window-open flits again, or fails and leaves the port down; it and a loss of signal settle what was not accepted with status 3.
Uncorrectable die-link, SRAM and Gnomon errors stop the kernels of their dies with 0x71, 0x72 and 0x73, and take over the report
of kernels that stopped at the same boundary, with MORE; a failed cluster joins the mask. Says of portTrainingStart, portTrained,
portKeyed, portFaultRekey, portLossOfSignal, dieLinkUncorrectable, sramUncorrectableError, gnomonSyncLost, clusterFailure,
hostLinkStateChange that exec answers a next state, and which, under conditions on the state and the operands alone. Routes are
log 31 and the key's info string log 59 (both DESIGN CHOICE); windows lost with a port are log 58, the boundary and kernels of a
machine check logs 60 and 65, and window-open flits sent again after a rekey log 154 (all DEDUCED). -/
def Obligations.Ports : Prop :=
∀ (s : State),
    let p := s.unit
    let x := s.cur.port p
    let made := fun (z : Port) => (Host.Outcome.next (s.onCur fun y => y.setPort p z) : Out)
    let key := fun (d : Nat) (secrets : Bytes) => hkdf secrets [] (ascii "N9 port" ++ natLe 1 p ++ natLe 1 d) 36
    let d := if s.cur.trust.module < x.peer.getD 0 then 0 else 1
    let keyed := fun (secrets : Bytes) => { x with
      state := .keyed, txKey := (key d secrets).take 32, txSalt := (key d secrets).drop 32, rxKey := (key (1 - d) secrets).take 32,
      rxSalt := (key (1 - d) secrets).drop 32, txSeq := 0, rxSeq := 0, replay := [], nak := none, retries := 0,
      nakAhead := 0, nakAt := 0, asked := none, rxRetries := 0, held := [], ownHold := false, peerHold := none, acks := [],
      opens := [], resent := x.resent ++ x.opens }
    let down := { x with
      state := .down, replay := [], nak := none, retries := 0, nakAhead := 0, nakAt := 0, asked := none, rxRetries := 0, held := [],
      ownHold := false, peerHold := none, acks := [], joins := [], opens := [], resent := [] }
    let lost := fun (t : State) => (∀ r ∈ t.cur.link.remotes, r.port ≠ p) ∧
      (∀ r ∈ t.cur.link.incoming, r.port ≠ p) ∧
      ∀ c n w, SMap.rising (s.cur.core c).wins = true → SMap.get? (s.cur.core c).wins n = some w →
        SMap.get? (t.cur.core c).wins n = some (if w.port = p ∧ (w.state = 2 ∨ (w.state = 6 ∧ w.written ≠ [])) then
          { w with written := [] }.change 5 w.rcvd 0 else w)
    let lands3 := fun (t : State) => ∀ z : Transfer, (s.cur.core z.core).wrote = [] → (s.cur.core z.core).wins = [] → s.cur.link.remotes = [] →
      (s.cur.link.transfers.filter fun x => x.port == p) = [z] → ∀ i < 64,
        Mem.get (t.cur.core z.core).spad (z.block / 64 * 64 + i) = if i = 8 then 3 else 0
    (∀ (y : Sys) (m : Nat), SMap.rising y.link.ports = true →
      (∀ q, (y.link.ports.find? fun q => q.2.state == .keyed && q.2.peer == some m) = some q → y.routeTo m = some q.1) ∧
      ((∀ q ∈ y.link.ports, q.2.usable = true → q.2.peer ≠ some m) → ∀ n, y.routeTo m = some n → (y.port n).usable = true ∧
        ∀ q ∈ y.link.ports, q.2.usable = true → Config.hops n m < Config.hops q.1 m ∨ (Config.hops n m = Config.hops q.1 m ∧ n ≤ q.1))) ∧
    let gone := fun (z : Port) (o : Out) => ∃ t, o = .next t ∧ lost t ∧ t.cur.port p = z ∧ (∀ z ∈ t.cur.link.transfers, z.port ≠ p) ∧ lands3 t
    let rekeyed := fun (sec : Bytes) (o : Out) => ∃ t, o = .next t ∧ lost t ∧
      (∀ z ∈ t.cur.link.transfers, z.port = p → z ∈ s.cur.link.transfers ∧ z.sent = true) ∧
      ((∀ z ∈ s.cur.link.transfers, z.sent = false) → lands3 t) ∧
      let n := t.cur.port p
      n.state = .keyed ∧ n.rxSeq = 0 ∧ n.txKey = (keyed sec).txKey ∧ n.rxKey = (keyed sec).rxKey ∧ n.opens = [] ∧ n.resent = x.resent ++ x.opens ∧
      ∀ i : Nat, n.replay[i]? = ((x.acks ++ (x.replay ++ x.held).filter fun f => f.kind == kindOpen)[i]?).map fun (f : SentFlit) =>
        { f with seq := i, image := n.encipher { f with seq := i } }
    exec .portTrainingStart s = (if x.state = .down ∨ x.state = .faulted then made { x with state := .training } else .next s) ∧
    (∀ m n,
      (n ≤ 320 → m ≤ 319 → x.peer = none ∨ x.peer = some m → exec (.portTrained m n) s = made { x with state := .up, peer := some m }) ∧
      (n ≤ 320 → m ≤ 319 → x.peer ≠ none → x.peer ≠ some m → gone { down with state := .up, peer := some m } (exec (.portTrained m n) s)) ∧
      (320 < n ∨ 319 < m → gone down (exec (.portTrained m n) s))) ∧
    (∀ sec ok fw,
      (x.state ≠ .up → exec (.portKeyed sec ok fw) s = .next s) ∧
      (x.state = .up → ok = false ∨ Config.policyRefuses fw = true → gone down (exec (.portKeyed sec ok fw) s)) ∧
      (x.state = .up → ok = true → Config.policyRefuses fw = false → rekeyed sec (exec (.portKeyed sec ok fw) s))) ∧
    (∀ sec, (Config.rekeyFails sec = true → gone down (exec (.portFaultRekey sec) s)) ∧
      (Config.rekeyFails sec = false → rekeyed sec (exec (.portFaultRekey sec) s))) ∧
    gone down (exec .portLossOfSignal s) ∧
    (∀ l, exec (.hostLinkStateChange l) s = .next (s.onCur fun y => { y with link := { y.link with host := l } })) ∧
    (let on := fun (ds : List Nat) => (s.cur.kernels.filter fun x => (x.2.state == .running || x.2.state == .held) && x.2.dies.any ds.contains).map (·.1)
     let check := fun (t : State) (cause die : Nat) (detail : List Nat) (qs ds : List Nat) (o : Out) => ∃ r : Report,
       r.rank = 0 ∧ r.cause = cause ∧ r.die = die ∧ r.cluster = 0 ∧ r.core = 0 ∧ r.detail = detail ∧
         r.kernel = qs.head? ∧
         let here := t.cur.kernels.filter fun x => x.2.dies.any ds.contains && x.2.stop.any fun u => u.hub == t.cur.hub && u.report.isSome
         o = .next (t.onCur fun y => (y.stopAgain r (here.map (·.1))).stopAt .fault (some r) false qs ds)
     (∀ (y : Sys) (r e : Report) (q : Nat) (k : Kernel) (u : Stop), y.kern q = some k → k.stop = some u → u.report = some e → r.before e →
       (y.stopAgain r [q]).kern q = some { k with stop := some { u with kind := .fault, report := some r, more := true, collateral := false } }) ∧
     (∀ e, check s 0x73 e [e, 0, 0] (on [e]) [e] (exec (.gnomonSyncLost e) s)) ∧
     (∀ e st ad, check s 0x72 e [st, ad, 0] (on [e]) [e] (exec (.sramUncorrectableError e st ad) s)) ∧
     ∀ e f, let both := (on [e]).filter (on [f]).contains
       ∃ t, check t 0x71 (Nat.min e f) [e + 4 * f, 0, 0] (if both = [] then on [e, f] else both) [e, f] (exec (.dieLinkUncorrectable e f) s) ∧
         t = { s with cur := { s.cur with cores := t.cur.cores } } ∧
         ∀ c, t.cur.core c = { s.cur.core c with pending := (s.cur.core c).pending.map fun (p : Pending) => match p.dest with
           | .die d v _ => if (d = e ∧ c / 160 = f) ∨ (d = f ∧ c / 160 = e) then { p with dest := .die d v false } else p
           | _ => p }) ∧
    (∀ r, ∃ t, exec (.clusterFailure r) s = .next t ∧ t = { s with cur := { s.cur with failed := t.cur.failed, trust := t.cur.trust } } ∧
      (∀ i < 80, t.cur.failed.getLsbD i = (s.cur.failed.getLsbD i || i == r)) ∧ t.cur.trust.cdseq = s.cur.trust.cdseq + 1 ∧
      t.cur.trust.log = s.cur.trust.log ++ (natLe 2 0xFF ++ natLe 2 0 ++ natLe 4 10 ++ natLe 10 t.cur.failed.toNat))

/-- On an N9-M a supply report sets supply, granted power and reserve, a thermal sample the limit of R418. There, but in a
replay, a failure begins the sequence with REASON 1, 110 °C or HIBERNATE-NOW with REASON 2, a sag with none: kernels with a step
point at most 32,768 cycles away are marked to be held there, the cores of held ones get FCAUSE KIND 4, page requests not begun
land status 3, and the sequence notes its start and the selections. A running sequence goes on, a sag's is taken over with REASON
3. Once every kernel is saved a sag sheds the dies, which 10 ms of good supply undo. Ageing drops pages from the tail of the
drain order. Says of stackHandoverToHold, stackHandBack, supplyReport, thermalSample, powerFailWarning, supplySag, unshed,
drainBudgetAgeing that exec answers a next state, and which, under conditions on the state and the operands alone. The first
boundary after W + 2 µs is log 89, the end of self-refresh log 143, and a replay that goes on through a failure of the supply log
176 (all DEDUCED). -/
def Obligations.SupplyAndPowerFail : Prop :=
∀ (s : State),
    let y := s.cur
    let w := y.wallc.toNat
    let powered := fun (p : PowerState) => s.onCur fun y => { y with power := p }
    let begun := fun (reason : Nat) (r : Option Req) (t : State) => ∃ l, t.cur.power.hib = some
        ({ w := w, step := 1, since := w, reason := reason, chosen := l, request := r, drained := 0, slot := 0, serial := 0 } : Hibernation) ∧
      (∀ r ∈ t.cur.pageReqs, r.started = true) ∧ t.cur.link.incoming = [] ∧
      ((∀ x ∈ y.kernels, x.2.state ≠ .binding ∧ (x.2.state = .held → x.2.lead = false)) →
        ∀ q x, y.kern q = some x → t.cur.kern q = some { x with holds := { x.holds with
            shed := x.holds.shed || l.any fun c => c.1 == q && c.2.1 } } ∧
          (x.state = .held → ∀ c, (y.core c).kernel = some q → (t.cur.core c).csr.fcause = fcauseWord .powerFail none false))
    (∀ (x : Kernel), let g := y.kernelNow x
      (x.state = .held → y.ownChoice x = (true, g)) ∧
      (x.state ≠ .held → ∀ c, y.nextStep x = some c → c ≤ g + 32768 → y.ownChoice x = (true, c)) ∧
      (x.state ≠ .held → (∀ c, y.nextStep x = some c → g + 32768 < c) → y.ownChoice x = (false, g + 1880 * y.opNum / y.opDen + 1))) ∧
    (y.trust.form ≠ 3 → exec .powerFailWarning s = .next s ∧ exec .supplySag s = .next s) ∧
    (y.trust.form = 3 →
      (∀ h, y.power.hib = some h → exec .powerFailWarning s = .next (
        if h.reason = 0 then powered { y.power with hib := some { h with reason := 3, request := none } } else s)) ∧
      (y.power.hib = none → y.power.shed = true → 
        let h : Hibernation :=
          { w := w, step := 1, reason := 3, chosen := [], request := none, drained := 0, slot := 0, serial := 0, since := w }
        exec .powerFailWarning s = .next (powered { y.power with hib := some h })) ∧
      (y.power.hib = none → y.power.shed = false → y.power.waiting = true ∨ y.power.manifest = .replaying → exec .powerFailWarning s = .next s ∧ exec .supplySag s = .next s) ∧
      (y.power.hib = none → y.power.shed = true → exec .supplySag s = .next s) ∧
      (y.power.hib = none → y.power.shed = false → y.power.waiting = false → y.power.manifest ≠ .replaying →
        (∃ t, exec .powerFailWarning s = .next t ∧ begun 1 none t) ∧ ∃ t, exec .supplySag s = .next t ∧ begun 0 none t) ∧
      ∀ h, y.power.hib = some h →
        (h.reason ≠ 0 ∨ (∃ x ∈ y.kernels, x.2.admitted = true) → exec .supplySag s = .next s) ∧
        (h.reason = 0 → (∀ x ∈ y.kernels, x.2.admitted = false) → ∃ t, exec .supplySag s = .next t ∧ t.cur.power = { y.power with shed := true, hib := none } ∧
          (∀ d < 4, (t.cur.die d).run = .shed) ∧ ∀ k < 8, (t.cur.stk k).driver = .selfRefresh)) ∧
    (let since := ∃ g, y.power.good = some g ∧ g + 1000000 ≤ w
     (y.power.shed = false ∨ y.power.hib ≠ none ∨ ¬ since → exec .unshed s = .next s) ∧
     (y.power.shed = true → y.power.hib = none → since → ∃ t, exec .unshed s = .next t ∧
       t.cur.power = { y.power with shed := false, forced := false } ∧ (∀ d < 4, t.cur.die d = { y.die d with run := .running }) ∧
       (∀ k < 8, (t.cur.stk k).driver = .hold) ∧ t.cur.hbm = y.hbm ∧ t.cur.cores = y.cores ∧ t.cur.kernels = y.kernels)) ∧
    (∀ sup granted reserve,
      let good := sup = .normal ∨ sup = .limited
      let t := powered { y.power with
        supply := sup, granted := granted, reserve := reserve,
        good := if good then some (y.power.good.getD w) else none }
      (y.trust.form ≠ 3 → exec (.supplyReport sup granted reserve) s = .next s) ∧
      (y.trust.form = 3 →
        (sup = .sag → exec (.supplyReport sup granted reserve) s = exec .supplySag t) ∧
        (sup = .fail → exec (.supplyReport sup granted reserve) s = exec .powerFailWarning t) ∧
        (good → exec (.supplyReport sup granted reserve) s = .next (t.onCur Sys.checkEnvelope)))) ∧
    (y.power.hib ≠ none ∨ y.power.shed = true ∨ y.beyondDuty = false ∨ y.trust.form ≠ 3 → y.checkEnvelope = y) ∧
    (∀ (d : Nat) (θ : Int), d < 4 →
      let z := y.setDie d { y.die d with theta := θ }
      let hot := Max.max (Max.max (z.die 0).theta (z.die 1).theta) (Max.max (z.die 2).theta (z.die 3).theta)
      let t := s.onCur fun y => { z with power := { y.power with limit := (if hot ≤ 90 then 1900 else 1900 - 100 * (hot - 90)).toNat } }
      (θ < 110 → exec (.thermalSample d θ) s = .next (t.onCur Sys.checkEnvelope)) ∧
      (110 ≤ θ → y.trust.form = 3 → y.power.hib = none → y.power.shed = false → y.power.waiting = false → y.power.manifest ≠ .replaying →
        ∃ u, exec (.thermalSample d θ) s = .next u ∧ begun 2 none u) ∧
      (110 ≤ θ → y.trust.form = 3 → y.power.hib = none → y.power.shed = true →
        ∃ u h, exec (.thermalSample d θ) s = .next u ∧ u.cur.power.hib = some h ∧ h.reason = 2) ∧
      (110 ≤ θ → y.trust.form ≠ 3 → ∃ u, exec (.thermalSample d θ) s = .next u ∧ ∃ l, u.todo = .ev 0 .packageReset :: l)) ∧
    (let fits := fun (k : Nat) => reserveCarries (y.controlBytes + ((y.drainPages.take k).map fun p => pageSize p.2.code).sum) y.power.reserve = true
     ∃ k, k ≤ y.drainPages.length ∧ (fits k ∨ k = 0) ∧ (∀ j, k < j → j ≤ y.drainPages.length → ¬ fits j) ∧
       exec .drainBudgetAgeing s = .next (powered { y.power with
         dropped := (y.drainPages.drop k).map fun p => (p.1, p.2.va), aged := w })) ∧
    (∃ t, exec .stackHandoverToHold s = .next t ∧ (t.stack).driver = .hold ∧ t.stack.pos = s.stack.pos ∧ t.stack.prog = s.stack.prog ∧
      t.cur.hbm = y.hbm ∧ 2 * y.hub ≤ t.stack.taken ∧
      (∀ c ∈ s.stack.pchs, ∀ b ∈ c.2.banks, b.2.isOpen = true → b.2.closeAt (2 * y.hub) + 1 ≤ t.stack.taken) ∧
      ∀ p b r, (p, b, r) ∈ t.stack.reopen ↔ ∃ c, (p, c) ∈ s.stack.pchs ∧ ∃ k, (b, k) ∈ c.banks ∧ k.mode = .opened r) ∧
    (s.stack.driver = .selfRefresh → ∃ t, exec .stackHandBack s = .next t ∧ t.stack.driver = .idle ∧ t.cur.hbm = y.hbm) ∧
    (s.stack.driver ≠ .selfRefresh → ∃ t, exec .stackHandBack s = .next t ∧ t.cur.hbm = y.hbm ∧
      (s.stack.prog.length ≤ s.stack.pos → t.stack.driver = .idle ∧ 2 * y.hub ≤ t.stack.taken) ∧
      (s.stack.pos < s.stack.prog.length → t.stack.driver = .compiled ∧ t.stack.reopen = [] ∧
        (s.stack.reopen = [] → ∀ p b, (t.stack.pch p).bank b = (s.stack.pch p).bank b) ∧
        ∀ p b r, s.stack.reopen = [(p, b, r)] → let k := (t.stack.pch p).bank b
          k.mode = .opened r ∧ k.act = some ((s.stack.pch p).reopenAt b (2 * y.hub)) ∧ k.debt = ((s.stack.pch p).bank b).debt))

/-- Once every kernel is saved the slot that does not hold the newest manifest becomes draining with the next SERIAL, the digest
log goes into its page and the stacks pass to the drain timeline; at 96 GB/s the drain then writes each region's bytes to the
drain area, and the seal sets the slot's STATE to sealed, the listed kernels hibernated, and answers HIBERNATE-NOW, waits,
warm-starts, or leaves the module without power. An exhausted reserve leaves it without power at once. A replay, its regions read
at 192 GB/s, brings everything back and rejoins the ports; once every rejoin is answered the slot is consumed and RESUME
answered. One that fails starts again. Says of drainCompletion, manifestSeal, reserveExhausted, replayCompletion that exec
answers a next state, and which, under conditions on the state and the operands alone. A replay that waits for training ports is
log 105 (DEDUCED), and the one page of the digest log log 152 (DESIGN CHOICE). -/
def Obligations.DrainSealAndReplay : Prop :=
∀ (s : State),
    let y := s.cur
    (y.power.hib = none → exec .drainCompletion s = .next s ∧ exec .manifestSeal s = .next s) ∧
    (∀ h, y.power.hib = some h →
      let ready := h.reason ≠ 0 ∧ (∀ x ∈ y.kernels, x.2.admitted = false) ∧ y.pageReqs = []
      (¬ ready ∨ 5 < h.step → exec .drainCompletion s = .next s) ∧
      let log := y.trust.log
      let at0 := y.pageAt 0 (((y.ctx 0).own.head?).getD 0)
      let page := fun (p : Page) => at0 = some p ∧ p.va = ((y.ctx 0).own.head?).getD 0 ∧ p.state ≠ .retired ∧ codeCmp p.code = false ∧
        inTier p.pa = false ∧ log.length ≤ 2 ^ 21 ∧ log.length ≤ pageSize p.code
      (ready → h.step < 5 → ∃ t n k, exec .drainCompletion s = .next t ∧ n < 2 ∧
        k = Nat.max (leNat (Mem.read y.tier (0x2BC00000000 + 8) 8)) (leNat (Mem.read y.tier (0x2BC01000000 + 8) 8)) + 1 ∧
        t.cur.power = { y.power with hib := some { h with step := 5, slot := n, serial := k, since := y.wallc.toNat }, manifest := .draining } ∧
        (∀ e < 8, (t.cur.stk e).driver = .drain) ∧
        (at0 = none ∨ (∃ p, page p) → Mem.read t.cur.tier (0x2BC00000000 + n * 0x1000000) 16 = [1, 0] ++ List.replicate 6 0 ++ natLe 8 k ∧
          ∀ a, a < 0x2BC00000000 + n * 0x1000000 ∨ 0x2BC00000000 + n * 0x1000000 + 64 ≤ a → Mem.get t.cur.tier a = Mem.get y.tier a) ∧
        (at0 = none → t.cur.hbm = y.hbm) ∧
        ∀ p, page p → ∀ a, Mem.get t.cur.hbm a = if p.pa ≤ a ∧ a < p.pa + log.length then log.getD (a - p.pa) 0 else Mem.get y.hbm a) ∧
      let due := h.since + ((y.regions.map fun r => pageSize r.2.2.1.code).sum + 959) / 960 ≤ y.wallc.toNat ∧ y.allWork = true
      (ready → h.step = 5 → ¬ due → exec .drainCompletion s = .next s) ∧
      (ready → h.step = 5 → due → ∃ t, exec .drainCompletion s = .next t ∧ t.cur.hbm = y.hbm ∧
        t.cur.power = { y.power with hib := some { h with step := 6, since := y.wallc.toNat, drained := (y.regions.map fun r => pageSize r.2.2.1.code).sum } } ∧
        (∀ a < 0x2BC02000000, Mem.get t.cur.tier a = Mem.get y.tier a) ∧
        ∀ r, y.regions = [r] → inTier r.2.2.1.pa = false →
          Mem.read t.cur.tier (0x2BC02000000 + r.2.2.2) (pageSize r.2.2.1.code) = Mem.read y.hbm r.2.2.1.pa (pageSize r.2.2.1.code)) ∧
      (h.step ≠ 6 → exec .manifestSeal s = .next s) ∧
      (h.step = 6 → ∃ t, exec .manifestSeal s = .next t ∧ t.cur.power.hib = none ∧ t.cur.power.manifest = .sealed ∧
        Mem.read t.cur.tier (0x2BC00000000 + h.slot * 0x1000000) 16 = [2, 0] ++ List.replicate 6 0 ++ natLe 8 h.serial ∧
        (∀ q x, y.kern q = some x → t.cur.kern q = some (if x.state = .saved then { x with state := .hibernated } else x)) ∧
        (∀ r, h.request = some r → t.cur.power.waiting = true ∧ ∃ b, t.cur.trust.out = y.trust.out ++ [{ session := r.session, bytes := b }] ∧
          b.take 4 = natLe 2 0x0A ++ natLe 2 0 ∧ b.drop (b.length - 8) = natLe 8 h.serial) ∧
        (h.request = none → t.cur.trust.out = y.trust.out ∧
          (h.reason = 2 → t.cur.power.waiting = true) ∧
          (h.reason ≠ 2 → y.power.supply = .normal ∨ y.power.supply = .limited → t.todo = [.ev 1 .start]) ∧
          (h.reason ≠ 2 → y.power.supply = .sag ∨ y.power.supply = .fail → t.cur.power.powered = false)))) ∧
    (exec .reserveExhausted s = .next (if y.power.hib ≠ none ∨ y.power.shed = true ∨ y.power.manifest = .replaying then
      s.onCur fun y => { y with power := { y.power with powered := false, hib := none } } else s)) ∧
    (let waits := y.power.manifest ≠ .replaying ∨ ∃ p ∈ y.link.ports, p.2.state = .training ∨ p.2.state = .up
     (waits ∨ y.newestSlot = none → exec .replayCompletion s = .next s) ∧
     ∀ n, ¬ waits → y.newestSlot = some n →
       (y.power.joining = true → (∃ p ∈ y.link.ports, p.2.state = .rejoining) → exec .replayCompletion s = .next s) ∧
       (y.power.joining = true → (∀ p ∈ y.link.ports, p.2.state ≠ .rejoining) → exec .replayCompletion s = .next { s with cur := y.consumeSlot n }) ∧
       let come := y.power.began + (fieldLe (Mem.read y.tier (0x2BC00000000 + n * 0x1000000 + 64) 256) 0x98 8 + 1919) / 1920 ≤ y.wallc.toNat
       (y.power.joining = false → ¬ come → exec .replayCompletion s = .next s) ∧
       (y.power.joining = false → come → y.replay n = none → exec .replayCompletion s = .next { s with todo := [.ev 1 .start] }) ∧
       (y.power.joining = false → come → ∀ z, y.replay n = some z → exec .replayCompletion s = .next { s with cur := z })) ∧
    (∀ n z, y.replay n = some z → z.power = { y.power with joining := true } ∧ z.tier = y.tier) ∧
    (∀ n, n < 2 → let z := y.consumeSlot n
      z.power.manifest ≠ .replaying ∧ z.power.joining = false ∧ Mem.read z.tier (0x2BC00000000 + n * 0x1000000) 2 = [4, 0] ∧
      (y.trust.resume = none → z.trust.out = y.trust.out) ∧
      ∀ r, y.trust.resume = some r → z.trust.resume = none ∧ ∃ b, z.trust.out = y.trust.out ++ [{ session := r.session, bytes := b }] ∧
        b.take 4 = natLe 2 0x0B ++ natLe 2 0) ∧
    (∀ r z, y.readBack r = some z → sha256 (Mem.read y.tier (0x2BC02000000 + fieldLe r 24 8) (fieldLe r 16 8)) = r.drop 32 ∧
      (SMap.has y.ctxs (fieldLe r 0 2) = false → z = y) ∧
      (SMap.has y.ctxs (fieldLe r 0 2) = true → ∃ p ∈ (y.ctx (fieldLe r 0 2)).pages, p.va = fieldLe r 8 8 ∧
        z = { y with hbm := (Mem.write y.hbm p.pa (Mem.read y.tier (0x2BC02000000 + fieldLe r 24 8) (fieldLe r 16 8)) : Mem),
                     poison := z.poison, macs := z.macs } ∧ ∀ u ∈ z.poison, u ∈ y.poison))

/-- After a package reset every register, store and memory of the module has its reset value but the tier, the vault, the
failed-cluster mask and the security processor's store. A die core reset, taken once no kernel occupies the die, clears its
cores, core TLBs and dictionaries, an uncore reset also its L2, die TLB and stacks; HBM stays. While a kernel runs there, it is
first stopped as by a forced pre-emption. HBM and its units are left in self-refresh. A start measures the image, completes
interrupted fuse pairs and trains every port; a step that fails or a refused image leaves the recovery image. The counter rises
to the SVN bit by bit, the first bit of a pair before the second. Says of packageReset, dieCoreReset, dieUncoreReset, start that
exec answers a next state, and which, under conditions on the state and the operands alone. Values at reset that the manual does
not give are log 1, the Gnomon copy that an uncore reset keeps log 94, a reset that waits for a bound kernel log 103, and one
fuse bit a hub cycle log 151. -/
def Obligations.ResetsAndStart : Prop :=
(∀ s : State, let y := s.cur
    (∃ t, exec .packageReset s = .next t ∧ t.todo = [.ev 0 .start] ∧ t.faults = [] ∧ t.issue.active = false ∧ t.cur = { Sys.reset with
      tier := y.tier, vaults := y.vaults.map Vault.restarted, failed := y.failed, trust := { TrustState.reset with
        conf := y.trust.conf, form := y.trust.form, fuses := y.trust.fuses, svn := y.trust.svn, image := y.trust.image,
        module := y.trust.module, scrubbing := y.trust.scrubbing, out := y.trust.out }, hostOut := y.hostOut }) ∧
    (∀ (d : Nat) (e : Bool), let i : Instr := if e then .dieUncoreReset d else .dieCoreReset d
      let j : Event := if e then .dieUncoreReset d else .dieCoreReset d
      let on := y.kernels.filter fun x => x.2.placed && x.2.dies.contains d
      let again := fun (t : State) => { t with inputs := t.inputs ++ [{ time := y.hub + 1, unit_ := 0, event := j }] }
      let between := ∃ k, (k = 2 * d ∨ k = 2 * d + 1) ∧ (y.stk k).driver = .compiled ∧ (y.stk k).seam = none ∧ (y.stk k).pos ≠ 0
      (on = [] → (∀ x ∈ y.kernels, x.2.state = .binding → d ∉ x.2.dies) → ∃ t, exec i s = .next t ∧
        (∀ c, t.cur.core c = if c / 160 = d then Core.reset else y.core c) ∧
        (∀ r, t.cur.cluster r = if r / 20 = d then (if e then Cluster.reset else { y.cluster r with dict := [] }) else y.cluster r) ∧
        (∀ f, t.cur.die f = if f = d then { y.die d with coreTlbs := [], tlb := if e then [] else (y.die d).tlb } else y.die f) ∧
        (∀ k, t.cur.stk k = if e = true ∧ k / 2 = d then { Stack.reset with driver := .selfRefresh } else y.stk k) ∧
        t.cur.hbm = y.hbm ∧ t.cur.tier = y.tier ∧ t.cur.kernels = y.kernels ∧ t.cur.hub = y.hub) ∧
      (on ≠ [] → (∃ x ∈ on, x.2.state = .bound) ∨ between → exec i s = .next (again s)) ∧
      (on ≠ [] → (∀ x ∈ on, x.2.state ≠ .bound) → ¬ between → (∃ x ∈ on, x.2.state = .running ∨ x.2.state = .held) →
        exec i s = .next (again (s.onCur fun y => y.stopAt .preempt none false (on.map (·.1)) (on.flatMap (·.2.dies)))))) ∧
    (y.trust.scrubbing = none → ∃ t, exec .start s = .next t ∧ t.fresh = s.fresh + 2 ∧ t.old = t.cur ∧ t.phase = 0 ∧ t.todo = [] ∧ t.faults = [] ∧
      t.cur.cores = [] ∧ t.cur.clusters = [] ∧ t.cur.stks = [] ∧ t.cur.hbm = [] ∧ t.cur.kernels = [] ∧ t.cur.failed = y.failed ∧
      t.cur.power.powered = true ∧ t.cur.hub = (if s.unit = 1 then y.hub else 0) ∧ t.cur.wallc = (if s.unit = 1 then y.wallc else 0) ∧
      (y.trust.form ≠ 3 → t.cur.power.granted = Config.boardLimit) ∧
      let f := y.trust.fuses.map fun p => if p.1 || p.2 then (true, true) else p
      let n := (f.takeWhile fun p => p.1 || p.2).length
      (let refused := Config.startFails s.fresh 1 = true ∨ Config.imageRefused Config.fusedKeyHash y.trust.image = true ∨ y.trust.svn < n ∨
         64 < y.trust.svn ∨ Config.startFails s.fresh 3 = true
       t.cur.trust.fuses = f ∧ (refused → t.cur.trust.recovery = true ∧ t.cur.tier = y.tier ∧ t.cur.link = LinkState.reset) ∧
       (¬ refused → t.cur.trust.recovery = false ∧ t.cur.trust.fwmeas = sha256 y.trust.image ∧
         (y.trust.form = 1 → t.cur.link = LinkState.reset) ∧
         (y.trust.form ≠ 1 → t.cur.link.host = .up ∧ ∀ p < 24, t.cur.port p = { Port.reset with state := .training }))))) ∧
  (∀ (t : TrustState), t.recovery = false → t.fwmeas ≠ [] →
    ((∀ i < t.svn, ∀ p, t.fuses[i]? = some p → p = (true, true)) → t.blowBit = t) ∧
    ∀ i p, i < t.svn → t.fuses[i]? = some p → p ≠ (true, true) → (∀ j < i, ∀ r, t.fuses[j]? = some r → r = (true, true)) →
      t.blowBit = { t with fuses := t.fuses.set i (true, p.1) }) ∧
  (let y := State.reset.cur
   (∀ c, y.core c = Core.reset) ∧ Core.reset.csr.qmod = 1 ∧ Core.reset.csr.qinv = 0xFFFFFFFFFFFFFFFF ∧ Core.reset.csr.seed = 0x9E3779B97F4A7C15 ∧
   Core.reset.csr.lc = 0 ∧ Core.reset.csr.rotv = 0 ∧ Core.reset.csr.rotp = 0 ∧ Core.reset.csr.outst = 0 ∧ Core.reset.csr.fcause = 0 ∧
   Core.reset.csr.fbix = 0 ∧ Core.reset.ip = 0 ∧ (∀ n, Core.reset.sreg n = 0) ∧ (∀ n, Core.reset.vreg n = 0) ∧ (∀ n, Core.reset.preg n = (n == 0)) ∧
   (∀ n, Core.reset.kreg n = if n = 0 then BitVec.allOnes 512 else 0) ∧ (∀ n, SMap.getD Core.reset.index n 0 = 0) ∧
   (∀ r n, SMap.getD (y.cluster r).dict n emptyBundleBits = emptyBundleBits) ∧ State.reset.todo = [.ev 0 .start])

/-- A request whose session is not open, or to an image that serves no verbs, has no effect. Any other request of Table 19.5 or
20.1 is answered with STATUS 1 when it is malformed, 2 when the mode or the form does not permit it, 5 during a sequence, 4 for
no such context and 3 from a session that is not the owner's, the first that applies, and nothing but the response changes. An
unknown verb is answered with 1. READ-SLOT over MCTP in confidential mode serves the status block and the header alone. The order
1, 2, 5, 4, 3 of the checks is the model's own, log 109 (DESIGN CHOICE); the silence of the recovery image is log 104 and
READ-SLOT's statuses log 119 (both DEDUCED). -/
def Obligations.VerbsTurnedAway : Prop :=
(∀ (s : State) (i : Instr) (r : VerbRow), verbRow s i = some r →
    (¬ s.heard r.req.session → exec i s = .next s) ∧
    (s.heard r.req.session → ∀ k : Nat, ∀ b, (s.barred r)[k]? = some b → b.1 → (∀ j < k, ∀ c, (s.barred r)[j]? = some c → ¬ c.1) →
      exec i s = .next (s.replies r.code r.req b.2 []))) ∧
  (∀ (s : State) (v : BitVec 16) (h : Req),
    (s.heard h.session → exec (.unknownVerbRequest v h) s = .next (s.replies v.toNat h 1 [])) ∧
    (¬ s.heard h.session → exec (.unknownVerbRequest v h) s = .next s)) ∧
  (∀ (s : State) (h : Req) (b : Bytes), s.unit = 1 → s.cur.trust.conf = true →
    let n := fieldLe b 0 1
    let off := fieldLe b 1 8
    let len := fieldLe b 9 4
    let bytes := Mem.read s.cur.tier (0x2BC00000000 + n * 0x1000000 + off) len
    let state := leNat (Mem.read s.cur.tier (0x2BC00000000 + n * 0x1000000) 1)
    exec (.readSlot h b) s = .next (
      if s.cur.trust.recovery = true ∨ s.cur.trust.scrubbing ≠ none then s
      else if h.reserved ≠ 0 ∨ h.len ≠ b.length ∨ b.length ≠ 13 ∨ 4032 < len ∨ 0x1000000 < off + len then s.replies 0x24 h 1 []
      else if s.cur.power.hib ≠ none ∨ s.cur.power.waiting = true ∨ s.cur.power.shed = true ∨ s.cur.power.manifest = .replaying ∨
        s.cur.trust.barred = true then s.replies 0x24 h 5 []
      else if 1 < n then s.replies 0x24 h 4 []
      else if 320 < off + len then s.replies 0x24 h 2 []
      else if state = 1 ∨ state = 2 ∨ state = 5 then s.replies 0x24 h 0 bytes else s.replies 0x24 h 4 []))

/-- A verb that no check turns away has the effect and the answer of Table 19.5: the module's identity, the log's length or the
signed report; a context with its queues and pages, or 6 when something is used up; chunks that assemble an object, checked at
the last; a frame offered, a page releasing, a context destroyed with its kernels, queues and pages (stated while no core has an
abandoned routine or a paired index to run again); an entry appended at QTAIL; a queue's counts and published signals; the
power-fail sequence; a warm start; a reset with scrub. Says of identify, configDigest, createContext, loadKernel, offerPage,
releaseRequest, reclaimForce, submit, queryQueue, hibernateNow, resumeVerb, attestSession, scrubReset, destroyContext that exec
answers a next state, and which, under conditions on the state and the operands alone. Chunks out of order are log 110, packed
rings log 111 (DESIGN CHOICE), the statuses of OFFER-PAGE and RELEASE-REQUEST logs 112 and 113, and the one-byte DATA of records
log 115 (DESIGN CHOICE). -/
def Obligations.VerbEffects : Prop :=
∀ (s : State) (h : Req) (b : Bytes),
    let y := s.cur
    let t := y.trust
    let c := h.ctx.toNat
    let conf := natLe 1 (if t.conf then 1 else 0)
    let count := (t.fuses.takeWhile fun p => p.1 || p.2).length
    let fixed := fun (n : Nat) (bs : Bytes) => (bs ++ List.replicate n 0).take n
    let script := Config.transcriptHash (((t.sessions.find? fun x => x.id == h.session).map (·.transcript)).getD 0)
    let report := b ++ fixed 32 script ++ t.cd ++ natLe 8 t.cdseq ++ natLe 8 count ++ conf ++ natLe 2 t.module ++ List.replicate 13 0
    let recorded := fun (u : State) (code : Nat) (data : Bytes) => u.onCur fun y => { y with trust := { y.trust with
      cd := sha256 (y.trust.cd ++ (natLe 2 code ++ natLe 2 c ++ natLe 4 data.length ++ data)), cdseq := y.trust.cdseq + 1,
      log := y.trust.log ++ (natLe 2 code ++ natLe 2 c ++ natLe 4 data.length ++ data) } }
    let destroyed := fun (u : State) => (u.cur.ctx c).state ∈ [CtxState.destroyed, .empty] ∧ (u.cur.ctx c).pages = [] ∧
      (∀ x ∈ u.cur.kernels, x.2.ctx ≠ c) ∧ (∀ n < 16, u.cur.queue (16 * c + n) = none) ∧ (∀ o ∈ u.cur.objs, o.2.ctx ≠ c) ∧
      ((u.cur.ctx c).state = .destroyed → ∃ v ∈ u.cur.invals, v.ranges = [(c, 0, 2 ^ 54)])
    let calm := ∀ k ∈ y.cores, k.2.abandoned = false ∧ k.2.mx.prior = [] ∧ k.2.mx.seq.pair = none
    let queue := if h.queue.toNat < 16 then y.queue (16 * c + h.queue.toNat) else none
    (s.serving (.identify h b) → exec (.identify h b) s = .next (s.replies 0x01 h 0
      (natLe 1 t.form ++ natLe 1 2 ++ natLe 2 0x0104 ++ conf ++ natLe 2 t.module ++ natLe 10 y.failed.toNat ++ natLe 1 count))) ∧
    (s.serving (.configDigest h b) → exec (.configDigest h b) s = .next (s.replies 0x02 h 0 (natLe 8 t.log.length))) ∧
    (s.serving (.attestSession h b) → exec (.attestSession h b) s = .next (s.replies 0x0C h 0
      (report ++ fixed 17088 (Config.slhDsaSign (hkdf (fixed 32 Config.deviceSecret) t.fwmeas (ascii "N9 alias") 32) report)))) ∧
    (s.serving (.createContext h b) →
      (y.createContext b s.fresh = none → exec (.createContext h b) s = .next (s.replies 0x03 h 6 [])) ∧
      ∀ z n bases, y.createContext b s.fresh = some (z, n, bases) →
        0 < n ∧ n < 256 ∧ SMap.has y.ctxs n = false ∧ (z.ctx n).state = .created ∧ (z.ctx n).owner = b.take 32 ∧
        (z.ctx n).pages.length = fieldLe b 33 4 ∧ (z.ctx n).mkey.length = 32 ∧ (z.ctx n).fkey = hkdf (z.ctx n).mkey [] (ascii "N9 fp") 32 ∧
        (∀ j < fieldLe b 32 1, ∃ q, z.queue (16 * n + j) = some q ∧ q.cap = 2 ^ (b.getD (37 + j) 0).toNat ∧ q.tail = 0 ∧ q.head = 0 ∧ q.state = .idle ∧
          some q.ring = (bases[j]?).map (BitVec.ofNat 64)) ∧
        ∃ u : State, exec (.createContext h b) s = .next u ∧ u.cur.ctxs = z.ctxs ∧ u.cur.queues = z.queues ∧ u.cur.frames = z.frames ∧ u.cur.hbm = y.hbm ∧
          u.cur.trust.cdseq = t.cdseq + 1 ∧ u.cur.trust.log = t.log ++ (natLe 2 3 ++ natLe 2 n ++ natLe 4 (33 + (b.length - 37)) ++ b.take 33 ++ b.drop 37)) ∧
    (s.serving (.loadKernel h b) →
      let off := fieldLe b 0 8
      let total := fieldLe b 8 8
      let old : Option Assembly := if off = 0 then some { total := total, got := [] } else SMap.get? t.loads c
      let file := (old.map (·.got)).getD [] ++ b.drop 16
      let inOrder := (∀ a, old = some a → a.total = total ∧ a.got.length = off) ∧ (old = none → off = 0) ∧ file.length ≤ total
      let set := fun (l : SMap Assembly) => s.onCur fun y => { y with trust := { y.trust with loads := l } }
      let kept := (set (SMap.del t.loads c))
      (¬ inOrder → exec (.loadKernel h b) s = .next (s.replies 0x04 h 1 [])) ∧
      (inOrder → file.length < total → exec (.loadKernel h b) s = .next ((set (SMap.put t.loads c { total := total, got := file })).replies 0x04 h 0 [])) ∧
      (inOrder → file.length = total → ∀ e, fileTrouble file = .error e → exec (.loadKernel h b) s = .next (kept.replies 0x04 h 1
        (natLe 1 e.cause ++ natLe 4 (e.detail.getD 0 0) ++ natLe 4 (e.detail.getD 1 0) ++ natLe 4 (e.detail.getD 2 0)))) ∧
      (inOrder → file.length = total → ∀ l, fileTrouble file = .ok l →
        (kept.cur.keepObject c s.fresh file l = none → exec (.loadKernel h b) s = .next (kept.replies 0x04 h 6 [])) ∧
        ∀ z n, kept.cur.keepObject c s.fresh file l = some (z, n) → ∃ u : State, exec (.loadKernel h b) s = .next ((recorded { u with cur := z } 0x04
            (sha256 file ++ natLe 8 n)).replies 0x04 h 0 (natLe 8 n)) ∧ (∃ k, u = { kept with fresh := k }) ∧
          ∃ o, SMap.get? z.objs n = some o ∧ o.ctx = c ∧ o.file = file ∧ o.sections = l)) ∧
    (s.serving (.offerPage h b) →
      let pa := fieldLe b 0 8
      let code := BitVec.ofNat 16 (fieldLe b 8 1)
      let size := pageSize code
      (frameOk pa size = false ∨ y.hasMemory pa = false → exec (.offerPage h b) s = .next (s.replies 0x05 h 2 [])) ∧
      (frameOk pa size = true → y.hasMemory pa = true → y.isFree pa size = false → exec (.offerPage h b) s = .next (s.replies 0x05 h 4 [])) ∧
      (frameOk pa size = true → y.hasMemory pa = true → y.isFree pa size = true → ∃ u : State, exec (.offerPage h b) s = .next (u.replies 0x05 h 0 (natLe 8 y.nextId)) ∧
        SMap.get? u.cur.frames pa = some { size := size, owner := c, refc := 0, state := .offered, handle := BitVec.ofNat 64 y.nextId, code := code } ∧
        u = { s with cur := { y with frames := u.cur.frames, nextId := y.nextId + 1, hbm := u.cur.hbm, tier := u.cur.tier, poison := u.cur.poison,
                                     macs := u.cur.macs } } ∧
        ∀ a, Mem.get u.cur.hbm a = (if inTier pa = false ∧ pa ≤ a ∧ a < pa + size then 0 else Mem.get y.hbm a) ∧
          Mem.get u.cur.tier a = if inTier pa = true ∧ pa ≤ a ∧ a < pa + size then 0 else Mem.get y.tier a)) ∧
    (s.serving (.releaseRequest h b) → exec (.releaseRequest h b) s = .next (match y.pageAt c (fieldLe b 0 8) with
      | none => s.replies 0x06 h 4 []
      | some p => if p.va ≠ fieldLe b 0 8 then s.replies 0x06 h 4 []
        else if p.state = .releasing then s.replies 0x06 h 5 []
        else if p.state ≠ .mapped then s.replies 0x06 h 2 []
        else s.onCur fun y => { y with trust := { y.trust with releases := y.trust.releases ++ [(c, p.va, h)] } }.setPage c { p with state := .releasing })) ∧
    (s.serving (.reclaimForce h b) → y.pageAt c (fieldLe b 0 8) = none → exec (.reclaimForce h b) s = .next (s.replies 0x07 h 4 [])) ∧
    (s.serving (.reclaimForce h b) → calm → y.pageAt c (fieldLe b 0 8) ≠ none → ∃ u : State, exec (.reclaimForce h b) s = .next (u.replies 0x07 h 0 []) ∧
      destroyed u ∧ u.cur.trust.cdseq = t.cdseq + 1 ∧ u.cur.trust.log = t.log ++ (natLe 2 0x07 ++ natLe 2 c ++ natLe 4 1 ++ natLe 1 1)) ∧
    (s.serving (.destroyContext h b) → calm → ∃ u : State, exec (.destroyContext h b) s = .next (u.replies 0x0E h 0 []) ∧
      destroyed u ∧ u.cur.trust.cdseq = t.cdseq + 1 ∧ u.cur.trust.log = t.log ++ (natLe 2 0x0E ++ natLe 2 c ++ natLe 4 1 ++ natLe 1 0)) ∧
    (s.serving (.submit h b) → exec (.submit h b) s = .next (match queue with
      | none => s.replies 0x08 h 4 []
      | some q => if q.head + q.cap ≤ q.tail then s.replies 0x08 h 5 []
        else (s.onCur fun y => (y.vaWrite c (q.ring.toNat + 64 * (q.tail % q.cap)) q.tail b).setQueue (16 * c + h.queue.toNat)
          { q with tail := q.tail + 1, state := if q.state = .idle then .waiting else q.state }).replies 0x08 h 0 (natLe 8 q.tail))) ∧
    (s.serving (.queryQueue h b) → exec (.queryQueue h b) s = .next (match queue with
      | none => s.replies 0x09 h 4 []
      | some q => s.replies 0x09 h 0 (natLe 8 q.tail ++ natLe 8 q.head ++ natLe 8 q.head ++ natLe 8 q.err ++
          (List.range 16).flatMap fun n => natLe 8 (SMap.getD q.pubs n 0).toNat))) ∧
    (s.serving (.hibernateNow h b) → ∃ (u : State) (z : Hibernation), exec (.hibernateNow h b) s = .next u ∧ u.cur.power.hib = some z ∧ z.step = 1 ∧ z.request = some h ∧
      z.w = y.wallc.toNat ∧ z.reason = 2 ∧ ((∀ r ∈ y.pageReqs, r.req = none) → u.cur.trust.out = t.out)) ∧
    (s.serving (.resumeVerb h b) → exec (.resumeVerb h b) s = .next (if y.power.waiting then
        { s.onCur (fun y => { y with trust := { y.trust with resume := some h } }) with todo := [.ev 1 .start] } else s.replies 0x0B h 2 [])) ∧
    (s.serving (.scrubReset h b) → exec (.scrubReset h b) s = .next { (s.replies 0x0D h 0 []).onCur (fun y =>
      { y with trust := { y.trust with scrubbing := some (b == [1]) } }) with todo := [.ev 0 .packageReset] })

/-- MAP-PAGE maps a free frame at a free address with the code it gives, less CC and DD, or answers 2, 4 or 6; UNMAP-PAGE and
SET-ATTR join the queue of page requests, where they drop an unlocked, unpinned page and do as PGATTR; CLEAR-FAILED clears bits
of the failed-cluster mask with a digest record; READ-SLOT reads a slot that is draining, sealed or rejected. READ-HK answers at
most 16 housekeeping registers. A requester of SPDM 1.3 with every algorithm is answered with the capabilities, the agreement and
the certificate chain, and may open sessions up to 32, beyond which a key exchange answers Busy; what a session carries is
enciphered under its key; measurements are signed with the nonce; MCTP control messages are answered. The recovery image, and a
module about to be scrubbed, answer none of them. Says of mapPage, unmapPage, setAttr, clearFailed, readSlot, readHk,
keyExchange, getMeasurements, algorithmNegotiation, mctpControlMessage that exec answers a next state, and which, under
conditions on the state and the operands alone. The statuses of UNMAP-PAGE, MAP-PAGE and READ-SLOT are logs 117 to 119 and 141,
the 16 registers of READ-HK log 120, SPDM's byte codes log 121 (PRESUMED), READ-HK's form log 148, and the messages that answer a
negotiation log 162. -/
def Obligations.HostCommandsAndManagement : Prop :=
∀ (s : State) (h : Req) (b : Bytes),
    let y := s.cur
    let t := y.trust
    let c := h.ctx.toNat
    let sends := fun (u : State) (session : Nat) (bs : Bytes) => u.onCur fun y => { y with trust := { y.trust with
      out := y.trust.out ++ [{ session := session, bytes := y.secured session bs }] } }
    let error := fun (k : Nat) => [0x13, 0x7F, BitVec.ofNat 8 k, (0 : Byte)]
    (s.serving (.mapPage h b) →
      let va := fieldLe b 0 8
      let pa := fieldLe b 8 8
      let code : BitVec 16 := (BitVec.ofNat 16 (fieldLe b 16 8)) &&& 0x7FBF
      let size := pageSize code
      let bad := codeOk (fieldLe b 16 8) = false ∨ frameOk pa size = false ∨ va % size ≠ 0 ∨ 2 ^ 54 < va + size ∨
        codeRefused code pa = true ∨ y.overlaps c va size = true ∨ y.hasMemory pa = false
      let room := y.tableFull c = false ∧ y.mayRegister (if codeDclass code ≠ 0 then size else 0) = true
      (bad → exec (.mapPage h b) s = .next (s.replies 0x20 h 2 [])) ∧
      (¬ bad → y.isFree pa size = false → exec (.mapPage h b) s = .next (s.replies 0x20 h 4 [])) ∧
      (¬ bad → y.isFree pa size = true → ¬ room → exec (.mapPage h b) s = .next (s.replies 0x20 h 6 [])) ∧
      (¬ bad → y.isFree pa size = true → room → ∃ u : State, exec (.mapPage h b) s = .next (u.replies 0x20 h 0 []) ∧
        (u.cur.ctx c).pages = (y.ctx c).pages ++ [{ va := va, pa := pa, code := code, state := .mapped, rtag := none, tier := none }] ∧
        SMap.get? u.cur.frames pa = some { size := size, owner := c, refc := 1, state := .mapped, handle := 0, code := code } ∧
        u.cur.hbm = y.hbm ∧ u.cur.tier = y.tier ∧ u.cur.dies = y.dies ∧ u.cur.cores = y.cores ∧ u.cur.queues = y.queues)) ∧
    let earlier := fun (q : PageReq) => q.started || decide (q.hub ≤ t.stamp)
    let queued := fun (op : Nat) => s.onCur fun y => { y with pageReqs := y.pageReqs.takeWhile earlier ++ [{
      hub := t.stamp, req := some h, core := 640, ctx := c, op := op, block := b, lp := 0, tag := 0, ranges := [], acks := [], waits := [],
      dropped := 0, started := false }] ++ y.pageReqs.dropWhile earlier }
    (s.serving (.unmapPage h b) → exec (.unmapPage h b) s = .next (queued 0x21)) ∧
    (s.serving (.setAttr h b) → exec (.setAttr h b) s = .next (queued 0x22)) ∧
    (∀ (y : Sys) (r : PageReq) (n : Nat), r.block = b → r.ctx = c →
      (r.op = 0x22 → requestEffect y r n = attrSet y c (fieldLe b 0 8) (fieldLe b 8 8) n) ∧
      (r.op = 0x21 → (∀ p, y.pageAt c (fieldLe b 0 8) = some p → p.va ≠ fieldLe b 0 8) → requestEffect y r n = (4, 0, y)) ∧
      (r.op = 0x21 → ∀ p, y.pageAt c (fieldLe b 0 8) = some p → p.va = fieldLe b 0 8 →
        (y.lockedIn c p.va (pageSize p.code) = true → requestEffect y r n = (5, 0, y)) ∧
        (y.lockedIn c p.va (pageSize p.code) = false → codePin p.code = true → requestEffect y r n = (2, 0, y)) ∧
        (y.lockedIn c p.va (pageSize p.code) = false → codePin p.code = false → ∃ z, requestEffect y r n = (0, 0, z) ∧
          (z.ctx c).pages = (y.ctx c).pages.filter (fun q => q.va != p.va) ∧ z.hbm = y.hbm ∧ z.tier = y.tier ∧
          (∀ d e, e ∈ (z.die d).tlb ↔ e ∈ (y.die d).tlb ∧ ¬ (e.ctx = c ∧ e.va < p.va + pageSize p.code ∧ p.va < e.va + pageSize e.code)) ∧
          ∀ f, SMap.get? y.frames (p.tier.getD p.pa) = some f → SMap.get? z.frames (p.tier.getD p.pa) =
            some (if 1 < f.refc then { f with refc := f.refc - 1 } else { f with refc := 0, state := .scrubbing })))) ∧
    (s.serving (.clearFailed h b) → ∃ u : State, exec (.clearFailed h b) s = .next (u.replies 0x23 h 0 []) ∧
      u = { s with cur := { y with failed := u.cur.failed, trust := u.cur.trust } } ∧
      (∀ i < 80, u.cur.failed.getLsbD i = (y.failed.getLsbD i && !(leNat b).testBit i)) ∧
      u.cur.trust.log = t.log ++ (natLe 2 0xFF ++ natLe 2 0 ++ natLe 4 10 ++ natLe 10 u.cur.failed.toNat) ∧ u.cur.trust.cdseq = t.cdseq + 1) ∧
    (s.serving (.readSlot h b) →
      let n := fieldLe b 0 1
      let base := 0x2BC00000000 + n * 0x1000000
      let state := leNat (Mem.read y.tier base 1)
      exec (.readSlot h b) s = .next (if 1 < n then s.replies 0x24 h 4 []
        else if state = 1 ∨ state = 2 ∨ state = 5 then s.replies 0x24 h 0 (Mem.read y.tier (base + fieldLe b 1 8) (fieldLe b 9 4))
        else s.replies 0x24 h 4 [])) ∧
    let serves := t.recovery = false ∧ t.scrubbing = none
    (∀ off n, (¬ serves → exec (.readHk off n) s = .next s) ∧
      (serves → y.sequencing = true ∨ t.barred = true → exec (.readHk off n) s = .next (sends s 0 (natLe 2 5))) ∧
      (serves → y.sequencing = false → t.barred = false → exec (.readHk off n) s = .next (sends { s with fresh := s.fresh + 16 } 0
        ((List.range (Nat.min n 16)).flatMap fun i => natLe 8 (y.hkReg (off + 8 * i) (s.fresh + i)).toNat)))) ∧
    (∀ n, y.hkReg 0x08 n = y.failed.extractLsb' 0 64 ∧ y.hkReg 0x10 n = (y.failed.extractLsb' 64 16).setWidth 64 ∧
      (∀ i < 8, y.hkReg (0x40 + 8 * i) n = t.hklog.getD i 0) ∧ (∀ off, 0x80 ≤ off → y.hkReg off n = 0) ∧
      (y.ecc.length = 4 → (∀ c ∈ y.ecc, c < 2 ^ 16) → ∀ i < 4, (y.hkReg 0x30 n).toNat / 2 ^ (16 * i) % 2 ^ 16 = y.ecc.getD i 0) ∧
      (y.hkReg 0x00 n).toNat = t.form % 4 + (if t.conf then 256 else 0) + 0x2000 + 0x104 * 2 ^ 16 ∧
      ((y.hkReg 0x18 n).toNat % 2 ^ 16 = if y.power.forced then 4 else match y.power.supply with
        | .normal => 0
        | .limited => 1
        | .sag => 2
        | .fail => 3) ∧
      (y.hkReg 0x38 n).toNat = leNat (Mem.read y.tier 0x2BC00000000 1) + 2 ^ 8 * leNat (Mem.read y.tier 0x2BC00000001 1) +
        2 ^ 16 * leNat (Mem.read y.tier 0x2BC01000000 1) + 2 ^ 24 * leNat (Mem.read y.tier 0x2BC01000001 1)) ∧
    (∀ who key, (¬ serves → exec (.keyExchange who key) s = .next s) ∧
      (serves → who ∉ t.negotiated → exec (.keyExchange who key) s = .next (sends s 0 (error 4))) ∧
      (serves → who ∈ t.negotiated → 32 ≤ t.sessions.length → exec (.keyExchange who key) s = .next (sends s 0 (error 3))) ∧
      (serves → who ∈ t.negotiated → t.sessions.length < 32 → ∃ k iv : Bytes, k.length = 32 ∧ iv.length = 12 ∧
        exec (.keyExchange who key) s = .next (sends { s with fresh := s.fresh + 1, cur := { y with trust := { t with
          sessions := t.sessions ++ [{ id := t.nextSession, owner := key.map sha256, transcript := s.fresh, key := k, iv := iv }]
          nextSession := t.nextSession + 1 } } } 0 (natLe 1 0x13 ++ natLe 1 0x64 ++ natLe 2 0 ++ natLe 2 t.nextSession)))) ∧
    (∀ session index nonce,
      let fixed := fun (n : Nat) (bs : Bytes) => (bs ++ List.replicate n 0).take n
      let sign := fun (m : Bytes) => m ++ fixed 17088 (Config.slhDsaSign (hkdf (fixed 32 Config.deviceSecret) t.fwmeas (ascii "N9 alias") 32) m)
      let m := match index with
        | 1 => some t.fwmeas
        | 2 => some (t.cd ++ natLe 8 t.cdseq)
        | 3 => some (natLe 1 (if t.conf then 1 else 0) ++ natLe 1 t.form ++ natLe 10 y.failed.toNat)
        | 4 => some (natLe 8 (t.fuses.takeWhile fun p => p.1 || p.2).length)
        | _ => none
      (¬ s.heard session → exec (.getMeasurements session index nonce) s = .next s) ∧
      (s.heard session → exec (.getMeasurements session index nonce) s = .next (sends s session (match m with
        | some m => sign (m ++ nonce)
        | none => error 1)))) ∧
    (∀ who v base keying,
      let now := fun (l : List Nat) => s.onCur fun y => { y with trust := { y.trust with negotiated := (t.negotiated.filter (· ≠ who)) ++ l } }
      let ok := v = 0x13 ∧ base = (true, true) ∧ keying = (true, true)
      (¬ serves → exec (.algorithmNegotiation who v base keying) s = .next s) ∧
      (serves → ¬ ok → exec (.algorithmNegotiation who v base keying) s = .next (sends (now []) 0 (error (if v = 0x13 then 1 else 0x41)))) ∧
      (serves → ok → exec (.algorithmNegotiation who v base keying) s = .next (sends (sends (sends (now [who])
        0 (natLe 1 0x13 ++ natLe 1 0x61 ++ natLe 2 0 ++ natLe 4 0x223D6)) 0 (natLe 1 0x13 ++ natLe 1 0x63 ++ natLe 2 0))
        0 (natLe 1 0x13 ++ natLe 1 0x02 ++ natLe 2 0 ++ y.certificateChain)))) ∧
    (∀ session bs, session ≠ 0 → y.secured session bs = match t.sessions.find? fun x => x.id == session with
      | none => []
      | some x =>
        let plain := natLe 2 bs.length ++ bs
        let head := natLe 4 x.id ++ natLe 2 (plain.length + 16)
        let nonce := xorBytes x.iv (natLe 12 (t.out.filter fun r => r.session == session).length)
        head ++ gcmCrypt x.key nonce plain ++ gcmTag x.key nonce head (gcmCrypt x.key nonce plain)) ∧
    (∀ m, exec (.mctpControlMessage m) s = .next (if t.recovery || t.scrubbing.isSome then s else sends s 0 (Config.mctpAnswer m)))

/-- The state after reset keeps HBM and the tier in the one form that a memory has (addresses rising, no entry that an unlisted
address reads as), and every byte of both reads as zero. That a byte which nothing has written reads as zero is the model's
choice (log 4). -/
def Obligations.MemoryFormAtReset : Prop :=
State.reset.memoriesWf ∧ ∀ a, Mem.get State.reset.cur.hbm a = 0 ∧ Mem.get State.reset.cur.tier a = 0

/-- Whatever instruction, micro-word, command, event or message a step runs, when HBM and the tier are in canonical form before
it (addresses strictly rising, no entry that an unlisted address reads as), they are so after it, so that two memories that read
alike stay equal as data. The form is the model's (log 4); the writes are those of the service windows, near-bank slots, saves,
restores, page moves, scrubs, drains and seals. -/
def Obligations.StepKeepsMemoryForm : Prop :=
∀ (s t : State), s.memoriesWf → step s = .next t → t.memoriesWf
end

