-- ==== Sys2Proof/Laws/Store.lean ====
section
/-! SUPPORT. Laws of the stores: reads after writes, for maps and for byte stores, and the canonical form of a byte store. -/

namespace Sys2Proof

/-! ### Maps -/

theorem SMap.get?_put_same {α : Type} (m : SMap α) (k : Nat) (v : α) : SMap.get? (SMap.put m k v) k = some v := by
  induction m with
  | nil => simp [SMap.put, SMap.get?]
  | cons c r ih =>
    obtain ⟨j, w⟩ := c
    simp only [SMap.put, beq_iff_eq]
    split
    · next h => simp [SMap.get?, ih, Nat.ne_of_lt h]
    · split <;> simp [SMap.get?]

theorem SMap.get?_put_other {α : Type} (m : SMap α) (k j : Nat) (v : α) (h : j ≠ k) :
    SMap.get? (SMap.put m k v) j = SMap.get? m j := by
  induction m with
  | nil => simp [SMap.put, SMap.get?, Ne.symm h]
  | cons c r ih =>
    obtain ⟨i, w⟩ := c
    simp only [SMap.put, beq_iff_eq]
    split
    · simp [SMap.get?, ih]
    · split
      · next _ e => subst e; simp [SMap.get?, Ne.symm h]
      · simp [SMap.get?, Ne.symm h]

theorem SMap.get?_del_same {α : Type} (m : SMap α) (k : Nat) : SMap.get? (SMap.del m k) k = none := by
  induction m with
  | nil => rfl
  | cons c r ih =>
    obtain ⟨j, w⟩ := c
    by_cases h : j = k
    · simpa [SMap.del, h] using ih
    · simpa [SMap.del, SMap.get?, h] using ih

theorem SMap.get?_del_other {α : Type} (m : SMap α) (k j : Nat) (h : j ≠ k) :
    SMap.get? (SMap.del m k) j = SMap.get? m j := by
  induction m with
  | nil => rfl
  | cons c r ih =>
    obtain ⟨i, w⟩ := c
    by_cases e : i = k
    · have : ¬ i = j := fun x => h (x.symm.trans e)
      simpa [SMap.del, SMap.get?, e, Ne.symm h] using ih
    · simp only [SMap.del] at ih ⊢
      simp [SMap.get?, e, ih]

@[simp] theorem SMap.getD_put_same {α : Type} (m : SMap α) (k : Nat) (v d : α) : SMap.getD (SMap.put m k v) k d = v := by
  simp [SMap.getD, SMap.get?_put_same]

theorem SMap.getD_put_other {α : Type} (m : SMap α) (k j : Nat) (v d : α) (h : j ≠ k) :
    SMap.getD (SMap.put m k v) j d = SMap.getD m j d := by
  simp [SMap.getD, SMap.get?_put_other m k j v h]

@[simp] theorem SMap.getD_set_same {α : Type} [DecidableEq α] (d : α) (m : SMap α) (k : Nat) (v : α) :
    SMap.getD (SMap.set d m k v) k d = v := by
  unfold SMap.set
  split
  · next h => simp [SMap.getD, SMap.get?_del_same, h]
  · simp

theorem SMap.getD_set_other {α : Type} [DecidableEq α] (d : α) (m : SMap α) (k j : Nat) (v : α) (h : j ≠ k) :
    SMap.getD (SMap.set d m k v) j d = SMap.getD m j d := by
  unfold SMap.set
  split
  · simp [SMap.getD, SMap.get?_del_other m k j h]
  · exact SMap.getD_put_other m k j v d h

theorem SMap.put_put {α : Type} (m : SMap α) (k : Nat) (v w : α) : SMap.put (SMap.put m k v) k w = SMap.put m k w := by
  induction m with
  | nil => simp [SMap.put]
  | cons c r ih =>
    obtain ⟨j, x⟩ := c
    simp only [SMap.put, beq_iff_eq]
    split
    · next h => simp [SMap.put, h, ih]
    · split
      · simp [SMap.put]
      · simp [SMap.put]

/-! ### Byte stores -/

@[simp] theorem Mem.get_set_same (m : Mem) (a : Nat) (b : Byte) : Mem.get (Mem.set m a b) a = b := SMap.getD_set_same _ _ _ _

theorem Mem.get_set_other (m : Mem) (a x : Nat) (b : Byte) (h : x ≠ a) : Mem.get (Mem.set m a b) x = Mem.get m x :=
  SMap.getD_set_other _ _ _ _ _ h

theorem Mem.get_write_outside (bs : Bytes) : ∀ (m : Mem) (a x : Nat), (x < a ∨ a + bs.length ≤ x) →
    Mem.get (Mem.write m a bs) x = Mem.get m x := by
  induction bs with
  | nil => intros; rfl
  | cons b r ih =>
    intro m a x h
    simp only [List.length_cons] at h
    rw [Mem.write, ih _ _ _ (by omega), Mem.get_set_other _ _ _ _ (by omega)]

theorem Mem.get_write_inside (bs : Bytes) : ∀ (m : Mem) (a k : Nat), k < bs.length →
    Mem.get (Mem.write m a bs) (a + k) = bs.getD k 0 := by
  induction bs with
  | nil => intro m a k h; exact absurd h (by simp)
  | cons b r ih =>
    intro m a k h
    rw [Mem.write]
    cases k with
    | zero => rw [Mem.get_write_outside r _ _ _ (by omega)]; simp
    | succ k =>
      have e : a + (k + 1) = a + 1 + k := by omega
      rw [e, ih _ _ _ (by simpa using h)]; simp

theorem Mem.read_write (m : Mem) (a : Nat) (bs : Bytes) : Mem.read (Mem.write m a bs) a bs.length = bs := by
  apply List.ext_getElem
  · simp [Mem.read]
  · intro k h1 h2
    simp only [Mem.read, List.getElem_map, List.getElem_range]
    rw [Mem.get_write_inside bs m a k h2]
    simp [h2]

/-! ### The canonical form -/

theorem SMap.rising_put {α : Type} (m : SMap α) (k : Nat) (v : α) : ∀ b, b ≤ k → SMap.risingFrom b m = true →
    SMap.risingFrom b (SMap.put m k v) = true := by
  induction m with
  | nil => intro b h _; simp [SMap.put, SMap.risingFrom, h]
  | cons c r ih =>
    obtain ⟨j, w⟩ := c
    intro b h hm
    simp only [SMap.risingFrom, Bool.and_eq_true, decide_eq_true_eq] at hm
    simp only [SMap.put, beq_iff_eq]
    split
    · next hj => simp [SMap.risingFrom, hm.1, ih (j + 1) (by omega) hm.2]
    · split
      · next e => subst e; simp [SMap.risingFrom, h, hm.2]
      · next h1 h2 =>
        have : k + 1 ≤ j := by omega
        simp [SMap.risingFrom, h, this, hm.2]

theorem SMap.rising_filter {α : Type} (p : Nat × α → Bool) (m : SMap α) : ∀ b, SMap.risingFrom b m = true →
    SMap.risingFrom b (m.filter p) = true := by
  induction m with
  | nil => intros; rfl
  | cons c r ih =>
    obtain ⟨j, w⟩ := c
    intro b hm
    have h := hm
    simp only [SMap.risingFrom, Bool.and_eq_true, decide_eq_true_eq] at h
    simp only [List.filter_cons]
    split
    · simp [SMap.risingFrom, h.1, ih (j + 1) h.2]
    · exact ih b (SMap.risingFrom_mono r b (j + 1) (by omega) h.2)

theorem SMap.all_put {α : Type} (p : Nat × α → Bool) (m : SMap α) (k : Nat) (v : α) (hv : p (k, v) = true) (hm : m.all p = true) :
    (SMap.put m k v).all p = true := by
  induction m with
  | nil => simp [SMap.put, hv]
  | cons c r ih =>
    obtain ⟨j, w⟩ := c
    simp only [List.all_cons, Bool.and_eq_true] at hm
    simp only [SMap.put, beq_iff_eq]
    split
    · simp only [List.all_cons, hm.1, ih hm.2, Bool.and_self]
    · split
      · simp only [List.all_cons, hv, hm.2, Bool.and_self]
      · simp only [List.all_cons, hv, hm.1, hm.2, Bool.and_self]

/-- Filtering keeps the canonical form. -/
theorem Mem.wf_filter (p : Host.Cell → Bool) (m : Mem) (h : Mem.wf m = true) : Mem.wf (m.filter p) = true := by
  simp only [Mem.wf, Bool.and_eq_true] at h ⊢
  refine ⟨SMap.rising_filter p m 0 h.1, ?_⟩
  simp only [List.all_eq_true] at h ⊢
  exact fun c hc => h.2 c (List.mem_of_mem_filter hc)

/-- Writing one byte keeps the canonical form. -/
theorem Mem.wf_set (m : Mem) (a : Nat) (b : Byte) (h : Mem.wf m = true) : Mem.wf (Mem.set m a b) = true := by
  unfold Mem.set SMap.set
  split
  · exact Mem.wf_filter _ m h
  · next hb =>
    simp only [Mem.wf, Bool.and_eq_true] at h ⊢
    exact ⟨SMap.rising_put m a b 0 (Nat.zero_le _) h.1, SMap.all_put _ m a b (by simpa using hb) h.2⟩

/-- Writing a run of bytes keeps the canonical form. -/
theorem Mem.wf_write (bs : Bytes) : ∀ (m : Mem) (a : Nat), Mem.wf m = true → Mem.wf (Mem.write m a bs) = true := by
  induction bs with
  | nil => intro m a h; exact h
  | cons b r ih => intro m a h; exact ih _ _ (Mem.wf_set m a b h)

/-- Writing under a map keeps the canonical form. -/
theorem Mem.wf_writeMapped (bs : Bytes) : ∀ (map : List Bool) (m : Mem) (a : Nat), Mem.wf m = true →
    Mem.wf (Mem.writeMapped m a bs map) = true := by
  induction bs with
  | nil => intro map m a h; cases map <;> exact h
  | cons b r ih =>
    intro map m a h
    cases map with
    | nil => exact h
    | cons c cs =>
      rw [Mem.writeMapped]
      refine ih cs _ _ ?_
      split
      · exact Mem.wf_set m a b h
      · exact h

/-- Filling keeps the canonical form. -/
theorem Mem.wf_fill (m : Mem) (a n : Nat) (b : Byte) (h : Mem.wf m = true) : Mem.wf (Mem.fill m a n b) = true :=
  Mem.wf_write _ m a h

/-- Clearing a range keeps the canonical form. -/
theorem Mem.wf_clear (m : Mem) (a n : Nat) (h : Mem.wf m = true) : Mem.wf (Mem.clear m a n) = true := Mem.wf_filter _ m h

theorem SMap.rising_shift {α : Type} (a : Nat) (m : SMap α) : ∀ b, SMap.risingFrom b m = true → (∀ c ∈ m, a ≤ c.1) →
    SMap.risingFrom (b - a) (m.map fun c => (c.1 - a, c.2)) = true := by
  induction m with
  | nil => intros; rfl
  | cons c r ih =>
    obtain ⟨j, w⟩ := c
    intro b hm ha
    simp only [SMap.risingFrom, Bool.and_eq_true, decide_eq_true_eq] at hm
    have hj : a ≤ j := ha (j, w) (by simp)
    have h := ih (j + 1) hm.2 fun c hc => ha c (by simp [hc])
    have e : j + 1 - a = j - a + 1 := by omega
    rw [e] at h
    simp only [List.map_cons, SMap.risingFrom, h, Bool.and_true, decide_eq_true_eq]
    omega

/-- Cutting a range out, moved to address 0, keeps the canonical form. -/
theorem Mem.wf_slice (m : Mem) (a n : Nat) (h : Mem.wf m = true) : Mem.wf (Mem.slice m a n) = true := by
  have hf := Mem.wf_filter (fun c => a ≤ c.1 && c.1 < a + n) m h
  simp only [Mem.wf, Bool.and_eq_true] at hf ⊢
  unfold Mem.slice
  refine ⟨?_, ?_⟩
  · have := SMap.rising_shift a _ 0 hf.1 (by
      intro c hc
      have := List.of_mem_filter hc
      simp only [Bool.and_eq_true, decide_eq_true_eq] at this
      exact this.1)
    simpa [SMap.rising] using this
  · have h2 := hf.2
    simp only [List.all_eq_true, List.mem_map] at h2 ⊢
    rintro c ⟨d, hd, rfl⟩
    exact h2 d hd

/-- The empty store is canonical. -/
theorem Mem.wf_nil : Mem.wf [] = true := rfl

/-! ### Elements of a register (R130) -/

theorem unpackN_packN (w : Nat) (xs : List Nat) (h : ∀ x ∈ xs, x < 2 ^ w) : unpackN w xs.length (packN w xs) = xs := by
  induction xs with
  | nil => rfl
  | cons x r ih =>
    have hx : x < 2 ^ w := h x (by simp)
    have hr := ih fun y hy => h y (by simp [hy])
    have hp : 0 < 2 ^ w := Nat.pos_of_ne_zero (by simp)
    simp only [packN, List.foldr_cons, List.length_cons, unpackN] at hr ⊢
    rw [Nat.mod_eq_of_lt hx]
    congr 1
    · rw [Nat.add_comm, Nat.add_mul_mod_self_right, Nat.mod_eq_of_lt hx]
    · rw [Nat.add_comm, Nat.add_mul_div_right _ _ hp, Nat.div_eq_of_lt hx, Nat.zero_add]
      exact hr

theorem packN_lt (w : Nat) (xs : List Nat) : packN w xs < 2 ^ (w * xs.length) := by
  induction xs with
  | nil => simp [packN]
  | cons x r ih =>
    have hp : 0 < 2 ^ w := Nat.pos_of_ne_zero (by simp)
    have hx : x % 2 ^ w < 2 ^ w := Nat.mod_lt _ hp
    simp only [packN, List.foldr_cons, List.length_cons] at ih ⊢
    rw [Nat.mul_succ, Nat.pow_add]
    generalize List.foldr (fun x acc => acc * 2 ^ w + x % 2 ^ w) 0 r = q at ih ⊢
    nlinarith

end Sys2Proof
end

