-- ==== Sys2Proof/Laws/State.lean ====
section
/-! SUPPORT. Laws of the state: what each update leaves, field by field, and reads after writes of cores, dies, clusters and stacks. -/

namespace Sys2Proof.Machine

/-! `Sys.setCore` changes `cores` alone. -/

@[simp] theorem Sys.setCore_hub (y : Sys) (c : Nat) (k : Core) : (y.setCore c k).hub = y.hub := rfl
@[simp] theorem Sys.setCore_wallc (y : Sys) (c : Nat) (k : Core) : (y.setCore c k).wallc = y.wallc := rfl
@[simp] theorem Sys.setCore_wallAcc (y : Sys) (c : Nat) (k : Core) : (y.setCore c k).wallAcc = y.wallAcc := rfl
@[simp] theorem Sys.setCore_opNum (y : Sys) (c : Nat) (k : Core) : (y.setCore c k).opNum = y.opNum := rfl
@[simp] theorem Sys.setCore_opDen (y : Sys) (c : Nat) (k : Core) : (y.setCore c k).opDen = y.opDen := rfl
@[simp] theorem Sys.setCore_opNext (y : Sys) (c : Nat) (k : Core) : (y.setCore c k).opNext = y.opNext := rfl
@[simp] theorem Sys.setCore_dies (y : Sys) (c : Nat) (k : Core) : (y.setCore c k).dies = y.dies := rfl
@[simp] theorem Sys.setCore_clusters (y : Sys) (c : Nat) (k : Core) : (y.setCore c k).clusters = y.clusters := rfl
@[simp] theorem Sys.setCore_stks (y : Sys) (c : Nat) (k : Core) : (y.setCore c k).stks = y.stks := rfl
@[simp] theorem Sys.setCore_hbm (y : Sys) (c : Nat) (k : Core) : (y.setCore c k).hbm = y.hbm := rfl
@[simp] theorem Sys.setCore_tier (y : Sys) (c : Nat) (k : Core) : (y.setCore c k).tier = y.tier := rfl
@[simp] theorem Sys.setCore_poison (y : Sys) (c : Nat) (k : Core) : (y.setCore c k).poison = y.poison := rfl
@[simp] theorem Sys.setCore_macs (y : Sys) (c : Nat) (k : Core) : (y.setCore c k).macs = y.macs := rfl
@[simp] theorem Sys.setCore_failed (y : Sys) (c : Nat) (k : Core) : (y.setCore c k).failed = y.failed := rfl
@[simp] theorem Sys.setCore_retired (y : Sys) (c : Nat) (k : Core) : (y.setCore c k).retired = y.retired := rfl
@[simp] theorem Sys.setCore_retiring (y : Sys) (c : Nat) (k : Core) : (y.setCore c k).retiring = y.retiring := rfl
@[simp] theorem Sys.setCore_ecc (y : Sys) (c : Nat) (k : Core) : (y.setCore c k).ecc = y.ecc := rfl
@[simp] theorem Sys.setCore_hostOut (y : Sys) (c : Nat) (k : Core) : (y.setCore c k).hostOut = y.hostOut := rfl
@[simp] theorem Sys.setCore_ctxs (y : Sys) (c : Nat) (k : Core) : (y.setCore c k).ctxs = y.ctxs := rfl
@[simp] theorem Sys.setCore_queues (y : Sys) (c : Nat) (k : Core) : (y.setCore c k).queues = y.queues := rfl
@[simp] theorem Sys.setCore_kernels (y : Sys) (c : Nat) (k : Core) : (y.setCore c k).kernels = y.kernels := rfl
@[simp] theorem Sys.setCore_objs (y : Sys) (c : Nat) (k : Core) : (y.setCore c k).objs = y.objs := rfl
@[simp] theorem Sys.setCore_graphs (y : Sys) (c : Nat) (k : Core) : (y.setCore c k).graphs = y.graphs := rfl
@[simp] theorem Sys.setCore_frames (y : Sys) (c : Nat) (k : Core) : (y.setCore c k).frames = y.frames := rfl
@[simp] theorem Sys.setCore_saved (y : Sys) (c : Nat) (k : Core) : (y.setCore c k).saved = y.saved := rfl
@[simp] theorem Sys.setCore_vaults (y : Sys) (c : Nat) (k : Core) : (y.setCore c k).vaults = y.vaults := rfl
@[simp] theorem Sys.setCore_accesses (y : Sys) (c : Nat) (k : Core) : (y.setCore c k).accesses = y.accesses := rfl
@[simp] theorem Sys.setCore_pageReqs (y : Sys) (c : Nat) (k : Core) : (y.setCore c k).pageReqs = y.pageReqs := rfl
@[simp] theorem Sys.setCore_invals (y : Sys) (c : Nat) (k : Core) : (y.setCore c k).invals = y.invals := rfl
@[simp] theorem Sys.setCore_nextId (y : Sys) (c : Nat) (k : Core) : (y.setCore c k).nextId = y.nextId := rfl
@[simp] theorem Sys.setCore_link (y : Sys) (c : Nat) (k : Core) : (y.setCore c k).link = y.link := rfl
@[simp] theorem Sys.setCore_power (y : Sys) (c : Nat) (k : Core) : (y.setCore c k).power = y.power := rfl
@[simp] theorem Sys.setCore_trust (y : Sys) (c : Nat) (k : Core) : (y.setCore c k).trust = y.trust := rfl

/-! `Sys.setDie` changes `dies` alone. -/

@[simp] theorem Sys.setDie_hub (y : Sys) (c : Nat) (k : Die) : (y.setDie c k).hub = y.hub := rfl
@[simp] theorem Sys.setDie_wallc (y : Sys) (c : Nat) (k : Die) : (y.setDie c k).wallc = y.wallc := rfl
@[simp] theorem Sys.setDie_wallAcc (y : Sys) (c : Nat) (k : Die) : (y.setDie c k).wallAcc = y.wallAcc := rfl
@[simp] theorem Sys.setDie_opNum (y : Sys) (c : Nat) (k : Die) : (y.setDie c k).opNum = y.opNum := rfl
@[simp] theorem Sys.setDie_opDen (y : Sys) (c : Nat) (k : Die) : (y.setDie c k).opDen = y.opDen := rfl
@[simp] theorem Sys.setDie_opNext (y : Sys) (c : Nat) (k : Die) : (y.setDie c k).opNext = y.opNext := rfl
@[simp] theorem Sys.setDie_clusters (y : Sys) (c : Nat) (k : Die) : (y.setDie c k).clusters = y.clusters := rfl
@[simp] theorem Sys.setDie_cores (y : Sys) (c : Nat) (k : Die) : (y.setDie c k).cores = y.cores := rfl
@[simp] theorem Sys.setDie_stks (y : Sys) (c : Nat) (k : Die) : (y.setDie c k).stks = y.stks := rfl
@[simp] theorem Sys.setDie_hbm (y : Sys) (c : Nat) (k : Die) : (y.setDie c k).hbm = y.hbm := rfl
@[simp] theorem Sys.setDie_tier (y : Sys) (c : Nat) (k : Die) : (y.setDie c k).tier = y.tier := rfl
@[simp] theorem Sys.setDie_poison (y : Sys) (c : Nat) (k : Die) : (y.setDie c k).poison = y.poison := rfl
@[simp] theorem Sys.setDie_macs (y : Sys) (c : Nat) (k : Die) : (y.setDie c k).macs = y.macs := rfl
@[simp] theorem Sys.setDie_failed (y : Sys) (c : Nat) (k : Die) : (y.setDie c k).failed = y.failed := rfl
@[simp] theorem Sys.setDie_retired (y : Sys) (c : Nat) (k : Die) : (y.setDie c k).retired = y.retired := rfl
@[simp] theorem Sys.setDie_retiring (y : Sys) (c : Nat) (k : Die) : (y.setDie c k).retiring = y.retiring := rfl
@[simp] theorem Sys.setDie_ecc (y : Sys) (c : Nat) (k : Die) : (y.setDie c k).ecc = y.ecc := rfl
@[simp] theorem Sys.setDie_hostOut (y : Sys) (c : Nat) (k : Die) : (y.setDie c k).hostOut = y.hostOut := rfl
@[simp] theorem Sys.setDie_ctxs (y : Sys) (c : Nat) (k : Die) : (y.setDie c k).ctxs = y.ctxs := rfl
@[simp] theorem Sys.setDie_queues (y : Sys) (c : Nat) (k : Die) : (y.setDie c k).queues = y.queues := rfl
@[simp] theorem Sys.setDie_kernels (y : Sys) (c : Nat) (k : Die) : (y.setDie c k).kernels = y.kernels := rfl
@[simp] theorem Sys.setDie_objs (y : Sys) (c : Nat) (k : Die) : (y.setDie c k).objs = y.objs := rfl
@[simp] theorem Sys.setDie_graphs (y : Sys) (c : Nat) (k : Die) : (y.setDie c k).graphs = y.graphs := rfl
@[simp] theorem Sys.setDie_frames (y : Sys) (c : Nat) (k : Die) : (y.setDie c k).frames = y.frames := rfl
@[simp] theorem Sys.setDie_saved (y : Sys) (c : Nat) (k : Die) : (y.setDie c k).saved = y.saved := rfl
@[simp] theorem Sys.setDie_vaults (y : Sys) (c : Nat) (k : Die) : (y.setDie c k).vaults = y.vaults := rfl
@[simp] theorem Sys.setDie_accesses (y : Sys) (c : Nat) (k : Die) : (y.setDie c k).accesses = y.accesses := rfl
@[simp] theorem Sys.setDie_pageReqs (y : Sys) (c : Nat) (k : Die) : (y.setDie c k).pageReqs = y.pageReqs := rfl
@[simp] theorem Sys.setDie_invals (y : Sys) (c : Nat) (k : Die) : (y.setDie c k).invals = y.invals := rfl
@[simp] theorem Sys.setDie_nextId (y : Sys) (c : Nat) (k : Die) : (y.setDie c k).nextId = y.nextId := rfl
@[simp] theorem Sys.setDie_link (y : Sys) (c : Nat) (k : Die) : (y.setDie c k).link = y.link := rfl
@[simp] theorem Sys.setDie_power (y : Sys) (c : Nat) (k : Die) : (y.setDie c k).power = y.power := rfl
@[simp] theorem Sys.setDie_trust (y : Sys) (c : Nat) (k : Die) : (y.setDie c k).trust = y.trust := rfl

/-! `Sys.setCluster` changes `clusters` alone. -/

@[simp] theorem Sys.setCluster_hub (y : Sys) (c : Nat) (k : Cluster) : (y.setCluster c k).hub = y.hub := rfl
@[simp] theorem Sys.setCluster_wallc (y : Sys) (c : Nat) (k : Cluster) : (y.setCluster c k).wallc = y.wallc := rfl
@[simp] theorem Sys.setCluster_wallAcc (y : Sys) (c : Nat) (k : Cluster) : (y.setCluster c k).wallAcc = y.wallAcc := rfl
@[simp] theorem Sys.setCluster_opNum (y : Sys) (c : Nat) (k : Cluster) : (y.setCluster c k).opNum = y.opNum := rfl
@[simp] theorem Sys.setCluster_opDen (y : Sys) (c : Nat) (k : Cluster) : (y.setCluster c k).opDen = y.opDen := rfl
@[simp] theorem Sys.setCluster_opNext (y : Sys) (c : Nat) (k : Cluster) : (y.setCluster c k).opNext = y.opNext := rfl
@[simp] theorem Sys.setCluster_dies (y : Sys) (c : Nat) (k : Cluster) : (y.setCluster c k).dies = y.dies := rfl
@[simp] theorem Sys.setCluster_cores (y : Sys) (c : Nat) (k : Cluster) : (y.setCluster c k).cores = y.cores := rfl
@[simp] theorem Sys.setCluster_stks (y : Sys) (c : Nat) (k : Cluster) : (y.setCluster c k).stks = y.stks := rfl
@[simp] theorem Sys.setCluster_hbm (y : Sys) (c : Nat) (k : Cluster) : (y.setCluster c k).hbm = y.hbm := rfl
@[simp] theorem Sys.setCluster_tier (y : Sys) (c : Nat) (k : Cluster) : (y.setCluster c k).tier = y.tier := rfl
@[simp] theorem Sys.setCluster_poison (y : Sys) (c : Nat) (k : Cluster) : (y.setCluster c k).poison = y.poison := rfl
@[simp] theorem Sys.setCluster_macs (y : Sys) (c : Nat) (k : Cluster) : (y.setCluster c k).macs = y.macs := rfl
@[simp] theorem Sys.setCluster_failed (y : Sys) (c : Nat) (k : Cluster) : (y.setCluster c k).failed = y.failed := rfl
@[simp] theorem Sys.setCluster_retired (y : Sys) (c : Nat) (k : Cluster) : (y.setCluster c k).retired = y.retired := rfl
@[simp] theorem Sys.setCluster_retiring (y : Sys) (c : Nat) (k : Cluster) : (y.setCluster c k).retiring = y.retiring := rfl
@[simp] theorem Sys.setCluster_ecc (y : Sys) (c : Nat) (k : Cluster) : (y.setCluster c k).ecc = y.ecc := rfl
@[simp] theorem Sys.setCluster_hostOut (y : Sys) (c : Nat) (k : Cluster) : (y.setCluster c k).hostOut = y.hostOut := rfl
@[simp] theorem Sys.setCluster_ctxs (y : Sys) (c : Nat) (k : Cluster) : (y.setCluster c k).ctxs = y.ctxs := rfl
@[simp] theorem Sys.setCluster_queues (y : Sys) (c : Nat) (k : Cluster) : (y.setCluster c k).queues = y.queues := rfl
@[simp] theorem Sys.setCluster_kernels (y : Sys) (c : Nat) (k : Cluster) : (y.setCluster c k).kernels = y.kernels := rfl
@[simp] theorem Sys.setCluster_objs (y : Sys) (c : Nat) (k : Cluster) : (y.setCluster c k).objs = y.objs := rfl
@[simp] theorem Sys.setCluster_graphs (y : Sys) (c : Nat) (k : Cluster) : (y.setCluster c k).graphs = y.graphs := rfl
@[simp] theorem Sys.setCluster_frames (y : Sys) (c : Nat) (k : Cluster) : (y.setCluster c k).frames = y.frames := rfl
@[simp] theorem Sys.setCluster_saved (y : Sys) (c : Nat) (k : Cluster) : (y.setCluster c k).saved = y.saved := rfl
@[simp] theorem Sys.setCluster_vaults (y : Sys) (c : Nat) (k : Cluster) : (y.setCluster c k).vaults = y.vaults := rfl
@[simp] theorem Sys.setCluster_accesses (y : Sys) (c : Nat) (k : Cluster) : (y.setCluster c k).accesses = y.accesses := rfl
@[simp] theorem Sys.setCluster_pageReqs (y : Sys) (c : Nat) (k : Cluster) : (y.setCluster c k).pageReqs = y.pageReqs := rfl
@[simp] theorem Sys.setCluster_invals (y : Sys) (c : Nat) (k : Cluster) : (y.setCluster c k).invals = y.invals := rfl
@[simp] theorem Sys.setCluster_nextId (y : Sys) (c : Nat) (k : Cluster) : (y.setCluster c k).nextId = y.nextId := rfl
@[simp] theorem Sys.setCluster_link (y : Sys) (c : Nat) (k : Cluster) : (y.setCluster c k).link = y.link := rfl
@[simp] theorem Sys.setCluster_power (y : Sys) (c : Nat) (k : Cluster) : (y.setCluster c k).power = y.power := rfl
@[simp] theorem Sys.setCluster_trust (y : Sys) (c : Nat) (k : Cluster) : (y.setCluster c k).trust = y.trust := rfl

/-! `Sys.setStk` changes `stks` alone. -/

@[simp] theorem Sys.setStk_hub (y : Sys) (c : Nat) (k : Stack) : (y.setStk c k).hub = y.hub := rfl
@[simp] theorem Sys.setStk_wallc (y : Sys) (c : Nat) (k : Stack) : (y.setStk c k).wallc = y.wallc := rfl
@[simp] theorem Sys.setStk_wallAcc (y : Sys) (c : Nat) (k : Stack) : (y.setStk c k).wallAcc = y.wallAcc := rfl
@[simp] theorem Sys.setStk_opNum (y : Sys) (c : Nat) (k : Stack) : (y.setStk c k).opNum = y.opNum := rfl
@[simp] theorem Sys.setStk_opDen (y : Sys) (c : Nat) (k : Stack) : (y.setStk c k).opDen = y.opDen := rfl
@[simp] theorem Sys.setStk_opNext (y : Sys) (c : Nat) (k : Stack) : (y.setStk c k).opNext = y.opNext := rfl
@[simp] theorem Sys.setStk_dies (y : Sys) (c : Nat) (k : Stack) : (y.setStk c k).dies = y.dies := rfl
@[simp] theorem Sys.setStk_clusters (y : Sys) (c : Nat) (k : Stack) : (y.setStk c k).clusters = y.clusters := rfl
@[simp] theorem Sys.setStk_cores (y : Sys) (c : Nat) (k : Stack) : (y.setStk c k).cores = y.cores := rfl
@[simp] theorem Sys.setStk_hbm (y : Sys) (c : Nat) (k : Stack) : (y.setStk c k).hbm = y.hbm := rfl
@[simp] theorem Sys.setStk_tier (y : Sys) (c : Nat) (k : Stack) : (y.setStk c k).tier = y.tier := rfl
@[simp] theorem Sys.setStk_poison (y : Sys) (c : Nat) (k : Stack) : (y.setStk c k).poison = y.poison := rfl
@[simp] theorem Sys.setStk_macs (y : Sys) (c : Nat) (k : Stack) : (y.setStk c k).macs = y.macs := rfl
@[simp] theorem Sys.setStk_failed (y : Sys) (c : Nat) (k : Stack) : (y.setStk c k).failed = y.failed := rfl
@[simp] theorem Sys.setStk_retired (y : Sys) (c : Nat) (k : Stack) : (y.setStk c k).retired = y.retired := rfl
@[simp] theorem Sys.setStk_retiring (y : Sys) (c : Nat) (k : Stack) : (y.setStk c k).retiring = y.retiring := rfl
@[simp] theorem Sys.setStk_ecc (y : Sys) (c : Nat) (k : Stack) : (y.setStk c k).ecc = y.ecc := rfl
@[simp] theorem Sys.setStk_hostOut (y : Sys) (c : Nat) (k : Stack) : (y.setStk c k).hostOut = y.hostOut := rfl
@[simp] theorem Sys.setStk_ctxs (y : Sys) (c : Nat) (k : Stack) : (y.setStk c k).ctxs = y.ctxs := rfl
@[simp] theorem Sys.setStk_queues (y : Sys) (c : Nat) (k : Stack) : (y.setStk c k).queues = y.queues := rfl
@[simp] theorem Sys.setStk_kernels (y : Sys) (c : Nat) (k : Stack) : (y.setStk c k).kernels = y.kernels := rfl
@[simp] theorem Sys.setStk_objs (y : Sys) (c : Nat) (k : Stack) : (y.setStk c k).objs = y.objs := rfl
@[simp] theorem Sys.setStk_graphs (y : Sys) (c : Nat) (k : Stack) : (y.setStk c k).graphs = y.graphs := rfl
@[simp] theorem Sys.setStk_frames (y : Sys) (c : Nat) (k : Stack) : (y.setStk c k).frames = y.frames := rfl
@[simp] theorem Sys.setStk_saved (y : Sys) (c : Nat) (k : Stack) : (y.setStk c k).saved = y.saved := rfl
@[simp] theorem Sys.setStk_vaults (y : Sys) (c : Nat) (k : Stack) : (y.setStk c k).vaults = y.vaults := rfl
@[simp] theorem Sys.setStk_accesses (y : Sys) (c : Nat) (k : Stack) : (y.setStk c k).accesses = y.accesses := rfl
@[simp] theorem Sys.setStk_pageReqs (y : Sys) (c : Nat) (k : Stack) : (y.setStk c k).pageReqs = y.pageReqs := rfl
@[simp] theorem Sys.setStk_invals (y : Sys) (c : Nat) (k : Stack) : (y.setStk c k).invals = y.invals := rfl
@[simp] theorem Sys.setStk_nextId (y : Sys) (c : Nat) (k : Stack) : (y.setStk c k).nextId = y.nextId := rfl
@[simp] theorem Sys.setStk_link (y : Sys) (c : Nat) (k : Stack) : (y.setStk c k).link = y.link := rfl
@[simp] theorem Sys.setStk_power (y : Sys) (c : Nat) (k : Stack) : (y.setStk c k).power = y.power := rfl
@[simp] theorem Sys.setStk_trust (y : Sys) (c : Nat) (k : Stack) : (y.setStk c k).trust = y.trust := rfl

/-! `Sys.setKern` changes `kernels` alone. -/

@[simp] theorem Sys.setKern_hub (y : Sys) (c : Nat) (k : Kernel) : (y.setKern c k).hub = y.hub := rfl
@[simp] theorem Sys.setKern_wallc (y : Sys) (c : Nat) (k : Kernel) : (y.setKern c k).wallc = y.wallc := rfl
@[simp] theorem Sys.setKern_wallAcc (y : Sys) (c : Nat) (k : Kernel) : (y.setKern c k).wallAcc = y.wallAcc := rfl
@[simp] theorem Sys.setKern_opNum (y : Sys) (c : Nat) (k : Kernel) : (y.setKern c k).opNum = y.opNum := rfl
@[simp] theorem Sys.setKern_opDen (y : Sys) (c : Nat) (k : Kernel) : (y.setKern c k).opDen = y.opDen := rfl
@[simp] theorem Sys.setKern_opNext (y : Sys) (c : Nat) (k : Kernel) : (y.setKern c k).opNext = y.opNext := rfl
@[simp] theorem Sys.setKern_dies (y : Sys) (c : Nat) (k : Kernel) : (y.setKern c k).dies = y.dies := rfl
@[simp] theorem Sys.setKern_clusters (y : Sys) (c : Nat) (k : Kernel) : (y.setKern c k).clusters = y.clusters := rfl
@[simp] theorem Sys.setKern_cores (y : Sys) (c : Nat) (k : Kernel) : (y.setKern c k).cores = y.cores := rfl
@[simp] theorem Sys.setKern_stks (y : Sys) (c : Nat) (k : Kernel) : (y.setKern c k).stks = y.stks := rfl
@[simp] theorem Sys.setKern_hbm (y : Sys) (c : Nat) (k : Kernel) : (y.setKern c k).hbm = y.hbm := rfl
@[simp] theorem Sys.setKern_tier (y : Sys) (c : Nat) (k : Kernel) : (y.setKern c k).tier = y.tier := rfl
@[simp] theorem Sys.setKern_poison (y : Sys) (c : Nat) (k : Kernel) : (y.setKern c k).poison = y.poison := rfl
@[simp] theorem Sys.setKern_macs (y : Sys) (c : Nat) (k : Kernel) : (y.setKern c k).macs = y.macs := rfl
@[simp] theorem Sys.setKern_failed (y : Sys) (c : Nat) (k : Kernel) : (y.setKern c k).failed = y.failed := rfl
@[simp] theorem Sys.setKern_retired (y : Sys) (c : Nat) (k : Kernel) : (y.setKern c k).retired = y.retired := rfl
@[simp] theorem Sys.setKern_retiring (y : Sys) (c : Nat) (k : Kernel) : (y.setKern c k).retiring = y.retiring := rfl
@[simp] theorem Sys.setKern_ecc (y : Sys) (c : Nat) (k : Kernel) : (y.setKern c k).ecc = y.ecc := rfl
@[simp] theorem Sys.setKern_hostOut (y : Sys) (c : Nat) (k : Kernel) : (y.setKern c k).hostOut = y.hostOut := rfl
@[simp] theorem Sys.setKern_ctxs (y : Sys) (c : Nat) (k : Kernel) : (y.setKern c k).ctxs = y.ctxs := rfl
@[simp] theorem Sys.setKern_queues (y : Sys) (c : Nat) (k : Kernel) : (y.setKern c k).queues = y.queues := rfl
@[simp] theorem Sys.setKern_objs (y : Sys) (c : Nat) (k : Kernel) : (y.setKern c k).objs = y.objs := rfl
@[simp] theorem Sys.setKern_graphs (y : Sys) (c : Nat) (k : Kernel) : (y.setKern c k).graphs = y.graphs := rfl
@[simp] theorem Sys.setKern_frames (y : Sys) (c : Nat) (k : Kernel) : (y.setKern c k).frames = y.frames := rfl
@[simp] theorem Sys.setKern_saved (y : Sys) (c : Nat) (k : Kernel) : (y.setKern c k).saved = y.saved := rfl
@[simp] theorem Sys.setKern_vaults (y : Sys) (c : Nat) (k : Kernel) : (y.setKern c k).vaults = y.vaults := rfl
@[simp] theorem Sys.setKern_accesses (y : Sys) (c : Nat) (k : Kernel) : (y.setKern c k).accesses = y.accesses := rfl
@[simp] theorem Sys.setKern_pageReqs (y : Sys) (c : Nat) (k : Kernel) : (y.setKern c k).pageReqs = y.pageReqs := rfl
@[simp] theorem Sys.setKern_invals (y : Sys) (c : Nat) (k : Kernel) : (y.setKern c k).invals = y.invals := rfl
@[simp] theorem Sys.setKern_nextId (y : Sys) (c : Nat) (k : Kernel) : (y.setKern c k).nextId = y.nextId := rfl
@[simp] theorem Sys.setKern_link (y : Sys) (c : Nat) (k : Kernel) : (y.setKern c k).link = y.link := rfl
@[simp] theorem Sys.setKern_power (y : Sys) (c : Nat) (k : Kernel) : (y.setKern c k).power = y.power := rfl
@[simp] theorem Sys.setKern_trust (y : Sys) (c : Nat) (k : Kernel) : (y.setKern c k).trust = y.trust := rfl

/-! `State.onCur` changes `cur` alone. -/

@[simp] theorem State.onCur_old (s : State) (f : Sys → Sys) : (s.onCur f).old = s.old := rfl
@[simp] theorem State.onCur_unit (s : State) (f : Sys → Sys) : (s.onCur f).unit = s.unit := rfl
@[simp] theorem State.onCur_issue (s : State) (f : Sys → Sys) : (s.onCur f).issue = s.issue := rfl
@[simp] theorem State.onCur_todo (s : State) (f : Sys → Sys) : (s.onCur f).todo = s.todo := rfl
@[simp] theorem State.onCur_faults (s : State) (f : Sys → Sys) : (s.onCur f).faults = s.faults := rfl
@[simp] theorem State.onCur_uses (s : State) (f : Sys → Sys) : (s.onCur f).uses = s.uses := rfl
@[simp] theorem State.onCur_inputs (s : State) (f : Sys → Sys) : (s.onCur f).inputs = s.inputs := rfl
@[simp] theorem State.onCur_fresh (s : State) (f : Sys → Sys) : (s.onCur f).fresh = s.fresh := rfl
@[simp] theorem State.onCur_phase (s : State) (f : Sys → Sys) : (s.onCur f).phase = s.phase := rfl

/-! `State.onMine` changes `cur` alone. -/

@[simp] theorem State.onMine_old (s : State) (f : Core → Core) : (s.onMine f).old = s.old := rfl
@[simp] theorem State.onMine_unit (s : State) (f : Core → Core) : (s.onMine f).unit = s.unit := rfl
@[simp] theorem State.onMine_issue (s : State) (f : Core → Core) : (s.onMine f).issue = s.issue := rfl
@[simp] theorem State.onMine_todo (s : State) (f : Core → Core) : (s.onMine f).todo = s.todo := rfl
@[simp] theorem State.onMine_faults (s : State) (f : Core → Core) : (s.onMine f).faults = s.faults := rfl
@[simp] theorem State.onMine_uses (s : State) (f : Core → Core) : (s.onMine f).uses = s.uses := rfl
@[simp] theorem State.onMine_inputs (s : State) (f : Core → Core) : (s.onMine f).inputs = s.inputs := rfl
@[simp] theorem State.onMine_fresh (s : State) (f : Core → Core) : (s.onMine f).fresh = s.fresh := rfl
@[simp] theorem State.onMine_phase (s : State) (f : Core → Core) : (s.onMine f).phase = s.phase := rfl

/-! `State.onCore` changes `cur` alone. -/

@[simp] theorem State.onCore_old (s : State) (c : Nat) (f : Core → Core) : (s.onCore c f).old = s.old := rfl
@[simp] theorem State.onCore_unit (s : State) (c : Nat) (f : Core → Core) : (s.onCore c f).unit = s.unit := rfl
@[simp] theorem State.onCore_issue (s : State) (c : Nat) (f : Core → Core) : (s.onCore c f).issue = s.issue := rfl
@[simp] theorem State.onCore_todo (s : State) (c : Nat) (f : Core → Core) : (s.onCore c f).todo = s.todo := rfl
@[simp] theorem State.onCore_faults (s : State) (c : Nat) (f : Core → Core) : (s.onCore c f).faults = s.faults := rfl
@[simp] theorem State.onCore_uses (s : State) (c : Nat) (f : Core → Core) : (s.onCore c f).uses = s.uses := rfl
@[simp] theorem State.onCore_inputs (s : State) (c : Nat) (f : Core → Core) : (s.onCore c f).inputs = s.inputs := rfl
@[simp] theorem State.onCore_fresh (s : State) (c : Nat) (f : Core → Core) : (s.onCore c f).fresh = s.fresh := rfl
@[simp] theorem State.onCore_phase (s : State) (c : Nat) (f : Core → Core) : (s.onCore c f).phase = s.phase := rfl

/-! `State.onStk` changes `cur` alone. -/

@[simp] theorem State.onStk_old (s : State) (c : Nat) (f : Stack → Stack) : (s.onStk c f).old = s.old := rfl
@[simp] theorem State.onStk_unit (s : State) (c : Nat) (f : Stack → Stack) : (s.onStk c f).unit = s.unit := rfl
@[simp] theorem State.onStk_issue (s : State) (c : Nat) (f : Stack → Stack) : (s.onStk c f).issue = s.issue := rfl
@[simp] theorem State.onStk_todo (s : State) (c : Nat) (f : Stack → Stack) : (s.onStk c f).todo = s.todo := rfl
@[simp] theorem State.onStk_faults (s : State) (c : Nat) (f : Stack → Stack) : (s.onStk c f).faults = s.faults := rfl
@[simp] theorem State.onStk_uses (s : State) (c : Nat) (f : Stack → Stack) : (s.onStk c f).uses = s.uses := rfl
@[simp] theorem State.onStk_inputs (s : State) (c : Nat) (f : Stack → Stack) : (s.onStk c f).inputs = s.inputs := rfl
@[simp] theorem State.onStk_fresh (s : State) (c : Nat) (f : Stack → Stack) : (s.onStk c f).fresh = s.fresh := rfl
@[simp] theorem State.onStk_phase (s : State) (c : Nat) (f : Stack → Stack) : (s.onStk c f).phase = s.phase := rfl

@[simp] theorem State.onCur_cur (s : State) (f : Sys → Sys) : (s.onCur f).cur = f s.cur := rfl
@[simp] theorem State.onMine_cur (s : State) (f : Core → Core) : (s.onMine f).cur = s.cur.setCore s.unit (f s.mine) := rfl
@[simp] theorem State.onCore_cur (s : State) (c : Nat) (f : Core → Core) : (s.onCore c f).cur = s.cur.setCore c (f (s.cur.core c)) := rfl
@[simp] theorem State.onStk_cur (s : State) (k : Nat) (f : Stack → Stack) : (s.onStk k f).cur = s.cur.setStk k (f (s.cur.stk k)) := rfl

/-! ### Reads after writes -/

@[simp] theorem Sys.core_setCore (y : Sys) (c : Nat) (k : Core) : (y.setCore c k).core c = k := SMap.getD_put_same _ _ _ _
theorem Sys.core_setCore_other (y : Sys) (c d : Nat) (k : Core) (h : d ≠ c) : (y.setCore c k).core d = y.core d :=
  SMap.getD_put_other _ _ _ _ _ h
@[simp] theorem Sys.setCore_setCore (y : Sys) (c : Nat) (k l : Core) : (y.setCore c k).setCore c l = y.setCore c l := by
  simp [Sys.setCore, SMap.put_put]
@[simp] theorem Sys.die_setDie (y : Sys) (d : Nat) (x : Die) : (y.setDie d x).die d = x := SMap.getD_put_same _ _ _ _
theorem Sys.die_setDie_other (y : Sys) (d e : Nat) (x : Die) (h : e ≠ d) : (y.setDie d x).die e = y.die e :=
  SMap.getD_put_other _ _ _ _ _ h
@[simp] theorem Sys.cluster_setCluster (y : Sys) (r : Nat) (x : Cluster) : (y.setCluster r x).cluster r = x := SMap.getD_put_same _ _ _ _
theorem Sys.cluster_setCluster_other (y : Sys) (r q : Nat) (x : Cluster) (h : q ≠ r) : (y.setCluster r x).cluster q = y.cluster q :=
  SMap.getD_put_other _ _ _ _ _ h
@[simp] theorem Sys.stk_setStk (y : Sys) (k : Nat) (x : Stack) : (y.setStk k x).stk k = x := SMap.getD_put_same _ _ _ _
theorem Sys.stk_setStk_other (y : Sys) (k j : Nat) (x : Stack) (h : j ≠ k) : (y.setStk k x).stk j = y.stk j :=
  SMap.getD_put_other _ _ _ _ _ h
@[simp] theorem Sys.setStk_setStk (y : Sys) (k : Nat) (x z : Stack) : (y.setStk k x).setStk k z = y.setStk k z := by
  simp [Sys.setStk, SMap.put_put]
@[simp] theorem Sys.kern_setKern (y : Sys) (q : Nat) (x : Kernel) : (y.setKern q x).kern q = some x := SMap.get?_put_same _ _ _
theorem Sys.kern_setKern_other (y : Sys) (q r : Nat) (x : Kernel) (h : r ≠ q) : (y.setKern q x).kern r = y.kern r :=
  SMap.get?_put_other _ _ _ _ h

@[simp] theorem Sys.die_setCore (y : Sys) (c : Nat) (k : Core) (d : Nat) : (y.setCore c k).die d = y.die d := rfl
@[simp] theorem Sys.cluster_setCore (y : Sys) (c : Nat) (k : Core) (r : Nat) : (y.setCore c k).cluster r = y.cluster r := rfl
@[simp] theorem Sys.stk_setCore (y : Sys) (c : Nat) (k : Core) (n : Nat) : (y.setCore c k).stk n = y.stk n := rfl
@[simp] theorem Sys.core_setStk (y : Sys) (n : Nat) (x : Stack) (c : Nat) : (y.setStk n x).core c = y.core c := rfl
@[simp] theorem Sys.gn_setCore (y : Sys) (c d : Nat) (k : Core) : (y.setCore c k).gn d = y.gn d := rfl

@[simp] theorem State.mine_onMine (s : State) (f : Core → Core) : (s.onMine f).mine = f s.mine := by simp [State.mine]
@[simp] theorem State.me_onMine (s : State) (f : Core → Core) : (s.onMine f).me = s.me := rfl
@[simp] theorem State.now_onMine (s : State) (f : Core → Core) : (s.onMine f).now = s.now := rfl
@[simp] theorem State.onMine_onMine (s : State) (f g : Core → Core) : (s.onMine f).onMine g = s.onMine fun k => g (f k) := by
  simp [State.onMine, State.mine]

/-! ### Registers: reads after writes, and the hard-wired ones (R99, R134) -/

@[simp] theorem Core.sreg_zero (k : Core) : k.sreg 0 = 0 := rfl
@[simp] theorem Core.preg_zero (k : Core) : k.preg 0 = true := rfl
@[simp] theorem Core.kreg_zero (k : Core) : k.kreg 0 = BitVec.allOnes 512 := rfl

theorem Core.sreg_setS (k : Core) (n m : Nat) (v : Word) (h : n ≠ 0) : (k.setS n v).sreg m = if m = n then v else k.sreg m := by
  by_cases e : m = n
  · subst e; simp [Core.sreg, Core.setS, h]
  · simp [Core.sreg, Core.setS, h, e, SMap.getD_set_other _ _ _ _ _ e]

@[simp] theorem Core.setS_zero (k : Core) (v : Word) : k.setS 0 v = k := rfl

theorem Core.preg_setP (k : Core) (n m : Nat) (b : Bool) (h : n ≠ 0) : (k.setP n b).preg m = if m = n then b else k.preg m := by
  by_cases e : m = n
  · subst e; simp [Core.preg, Core.setP, h]
  · simp [Core.preg, Core.setP, h, e, SMap.getD_set_other _ _ _ _ _ e]

@[simp] theorem Core.setP_zero (k : Core) (b : Bool) : k.setP 0 b = k := rfl

theorem Core.vreg_setV (k : Core) (n m : Nat) (v : Vec) : (k.setV n v).vreg m = if m = n then v else k.vreg m := by
  by_cases e : m = n
  · subst e; simp [Core.vreg, Core.setV]
  · simp [Core.vreg, Core.setV, e, SMap.getD_set_other _ _ _ _ _ e]

theorem Core.kreg_setK (k : Core) (n m : Nat) (v : Mask) (h : n ≠ 0) : (k.setK n v).kreg m = if m = n then v else k.kreg m := by
  by_cases e : m = n
  · subst e; simp [Core.kreg, Core.setK, h]
  · simp [Core.kreg, Core.setK, h, e, SMap.getD_set_other _ _ _ _ _ e]

@[simp] theorem Core.setK_zero (k : Core) (v : Mask) : k.setK 0 v = k := rfl

/-! ### Words of a bundle -/

/-- A guarded-off word is consumed and does nothing (R66). -/
theorem word_off (s : State) (f : State → Except Trouble State) (h : s.guardOn = false) :
    word s f = .next { s with issue := { s.issue with pfx := none } } := by
  simp [word, h]

/-- A word under a true guard whose checks pass. -/
theorem word_ok (s t : State) (f : State → Except Trouble State) (h : s.guardOn = true) (hf : f s = .ok t) :
    word s f = .next { t with issue := { t.issue with pfx := none } } := by
  simp [word, h, hf]

/-- A word under a true guard that raises a cause. -/
theorem word_error (s : State) (e : Trouble) (f : State → Except Trouble State) (h : s.guardOn = true) (hf : f s = .error e) :
    word s f = .next { takeFault s e with issue := { s.issue with pfx := none } } := by
  simp [word, h, hf, takeFault]

/-- Every word of a bundle answers a next state. -/
theorem word_next (s : State) (f : State → Except Trouble State) : ∃ t, word s f = .next t := ⟨_, rfl⟩

/-- A word that takes draws answers a next state. -/
theorem wordDraw_next (s : State) (n : Nat) (f : List Nat → State → Except Trouble State) : ∃ t, wordDraw s n f = .next t := by
  unfold wordDraw
  split
  · exact word_next _ _
  · exact word_next _ _

/-- Without stochastic rounding a word takes no draws. -/
theorem wordDraw_plain (s : State) (n : Nat) (f : List Nat → State → Except Trouble State) (h : s.rm ≠ 5) :
    wordDraw s n f = word s (f []) := by
  simp [wordDraw, h]

end Sys2Proof.Machine
end

