-- ==== Sys2Proof/Laws/Ops.lean ====
section
/-! SUPPORT. What the shared operations can do, said once: results in flight, faults, stops, answers to requests, folds over dies and
stacks, queues, flits, writes of memory, invalidations. -/

namespace Sys2Proof.Machine

/-! ### Results in flight -/

/-- A result in flight joins the core in turn, after those already under way. -/
@[simp] theorem State.mine_later (s : State) (lat : Nat) (d : Dest) (fl : Flags) : (s.later lat d fl).mine =
    { s.mine with pending := s.mine.pending ++ [{ land := s.now + lat, issue := s.now, word := s.issue.word, flags := fl, dest := d }] } := by
  simp [State.later]

/-- Nothing but the module changes when a result is put in flight. -/
theorem State.later_frame (s : State) (lat : Nat) (d : Dest) (fl : Flags) : s.later lat d fl = { s with cur := (s.later lat d fl).cur } := rfl

/-- No other core changes when a result is put in flight. -/
theorem State.later_other (s : State) (lat : Nat) (d : Dest) (fl : Flags) (c : Nat) (h : c ≠ s.unit) :
    (s.later lat d fl).cur.core c = s.cur.core c := Sys.core_setCore_other _ _ _ _ h

/-! ### CSRs -/

/-- The file of CSRs as CSRW leaves it: a register of firmware, a counter or an unknown number is not written. -/
theorem Csrs.write_fixed (f : Csrs) (c : Nat) (v : Word) (h : c < 0x10 ∨ 0x19 < c) : f.write c v = f := by
  unfold Csrs.write
  split <;> first | rfl | omega

/-- QMOD stays odd, whatever is written. -/
theorem Csrs.write_qmod_odd (f : Csrs) (v : Word) : (f.write 0x16 v).qmod.getLsbD 0 = true := by simp [Csrs.write]

/-- SEED never becomes zero. -/
theorem Csrs.write_seed_ne_zero (f : Csrs) (v : Word) : (f.write 0x15 v).seed ≠ 0 := by
  have e : (f.write 0x15 v).seed = if v == 0 then 0x9E3779B97F4A7C15 else v := rfl
  rw [e]
  cases h : v == 0
  · simpa using h
  · simp

/-! ### Faults and stops -/

/-- Taking a fault at a bundle's issue adds one report and changes nothing else until the cycle ends. -/
theorem takeFault_eq (s : State) (e : Trouble) : takeFault s e = { s with faults := s.faults ++ [s.reportOf 1 e] } := rfl

@[simp] theorem takeFault_cur (s : State) (e : Trouble) : (takeFault s e).cur = s.cur := rfl
@[simp] theorem takeFault_old (s : State) (e : Trouble) : (takeFault s e).old = s.old := rfl
@[simp] theorem engineFault_cur (s : State) (e : Trouble) : (engineFault s e).cur = s.cur := rfl
@[simp] theorem engineFault_old (s : State) (e : Trouble) : (engineFault s e).old = s.old := rfl

/-- Dies changed one after another leave everything but the dies. -/
theorem Sys.foldl_die_frame (f : Sys → Nat → Sys) (h : ∀ (y : Sys) d, ∃ m, f y d = { y with dies := m }) (ds : List Nat) (y : Sys) :
    ∃ m, ds.foldl f y = { y with dies := m } := by
  induction ds generalizing y with
  | nil => exact ⟨y.dies, rfl⟩
  | cons d ds ih =>
    obtain ⟨m, hm⟩ := h y d
    obtain ⟨n, hn⟩ := ih (f y d)
    exact ⟨n, by rw [List.foldl_cons, hn, hm]⟩

/-- Stacks changed one after another leave everything but the stacks. -/
theorem Sys.foldl_stk_frame (f : Sys → Nat → Sys) (h : ∀ (y : Sys) k, ∃ m, f y k = { y with stks := m }) (ks : List Nat) (y : Sys) :
    ∃ m, ks.foldl f y = { y with stks := m } := by
  induction ks generalizing y with
  | nil => exact ⟨y.stks, rfl⟩
  | cons k ks ih =>
    obtain ⟨m, hm⟩ := h y k
    obtain ⟨n, hn⟩ := ih (f y k)
    exact ⟨n, by rw [List.foldl_cons, hn, hm]⟩

/-- A stop changes cores, kernels and dies, and nothing else: memory, queues, contexts, stacks and links stand. -/
theorem Sys.stopAt_frame (y : Sys) (kind : StopKind) (r : Option Report) (more : Bool) (qs ds : List Nat) :
    ∃ cs ks d, y.stopAt kind r more qs ds = { y with cores := cs, kernels := ks, dies := d } := by
  unfold Sys.stopAt
  dsimp only
  obtain ⟨m, hm⟩ := Sys.foldl_die_frame
    (fun (z : Sys) d => if (z.die d).run == .shed then z else z.setDie d { z.die d with run := .stopped })
    (fun z d => by
      by_cases h : ((z.die d).run == .shed) = true
      · exact ⟨z.dies, by simp [h]⟩
      · exact ⟨_, by simp only [h]; rfl⟩) (y.reach ds) _
  exact ⟨_, _, m, hm⟩

@[simp] theorem Sys.stopAt_hbm (y : Sys) (kind : StopKind) (r : Option Report) (more : Bool) (qs ds : List Nat) :
    (y.stopAt kind r more qs ds).hbm = y.hbm := by
  obtain ⟨_, _, _, h⟩ := y.stopAt_frame kind r more qs ds
  rw [h]

@[simp] theorem Sys.stopAt_tier (y : Sys) (kind : StopKind) (r : Option Report) (more : Bool) (qs ds : List Nat) :
    (y.stopAt kind r more qs ds).tier = y.tier := by
  obtain ⟨_, _, _, h⟩ := y.stopAt_frame kind r more qs ds
  rw [h]

@[simp] theorem Sys.stopAt_stks (y : Sys) (kind : StopKind) (r : Option Report) (more : Bool) (qs ds : List Nat) :
    (y.stopAt kind r more qs ds).stks = y.stks := by
  obtain ⟨_, _, _, h⟩ := y.stopAt_frame kind r more qs ds
  rw [h]

/-! ### Requests (R403 to R405, R411) -/

/-- A request always ends in a next state. -/
theorem verb_next (v : VerbKind) (h : Req) (body : Bytes) (ok : Bool) (s : State) (f : State → State) : ∃ t, verb v h body ok s f = .next t := by
  unfold verb
  repeat' split
  all_goals exact ⟨_, rfl⟩

/-- Firmware that does not take a request does nothing. -/
theorem verb_unheard (v : VerbKind) (h : Req) (body : Bytes) (ok : Bool) (s : State) (f : State → State)
    (hh : s.cur.hears h.session = false) : verb v h body ok s f = .next s := by simp [verb, hh]

/-- A request that is turned away changes nothing but the response. -/
theorem verb_refused (v : VerbKind) (h : Req) (body : Bytes) (ok : Bool) (s : State) (f : State → State) (st : Nat)
    (hh : s.cur.hears h.session = true) (ht : s.cur.turnedAway v h ok body.length = some st) :
    verb v h body ok s f = .next (s.onCur fun y => y.respond v.code h st []) := by simp [verb, hh, ht]

/-- A request that is carried out has its own effect. -/
theorem verb_done (v : VerbKind) (h : Req) (body : Bytes) (ok : Bool) (s : State) (f : State → State)
    (hh : s.cur.hears h.session = true) (ht : s.cur.turnedAway v h ok body.length = none) : verb v h body ok s f = .next (f s) := by
  simp [verb, hh, ht]

/-- A response is all that answering changes. -/
theorem Sys.respond_frame (y : Sys) (v : Nat) (h : Req) (st : Nat) (b : Bytes) : ∃ bs,
    y.respond v h st b = { y with trust := { y.trust with out := y.trust.out ++ [{ session := h.session, bytes := bs }] } } := ⟨_, rfl⟩

/-- A digest record is all that extending the chain changes. -/
theorem Sys.extend_frame (y : Sys) (code ctx : Nat) (data : Bytes) : ∃ d,
    y.extend code ctx data = { y with trust := { y.trust with
      cd := d, cdseq := y.trust.cdseq + 1, log := y.trust.log ++ (natLe 2 code ++ natLe 2 ctx ++ natLe 4 data.length ++ data) } } := ⟨_, rfl⟩

/-! ### Queues -/

@[simp] theorem Sys.queue_setQueue (y : Sys) (n : Nat) (q : Queue) : (y.setQueue n q).queue n = some q := SMap.get?_put_same _ _ _
theorem Sys.queue_setQueue_other (y : Sys) (n m : Nat) (q : Queue) (h : m ≠ n) : (y.setQueue n q).queue m = y.queue m :=
  SMap.get?_put_other _ _ _ _ h

/-- A queue changed through its own operation leaves everything but the queues. -/
theorem Sys.onQueue_frame (y : Sys) (n : Nat) (f : Queue → Queue) : ∃ m, y.onQueue n f = { y with queues := m } := by
  unfold Sys.onQueue
  split
  · exact ⟨_, rfl⟩
  · exact ⟨y.queues, rfl⟩

/-! ### Flits -/

/-- A flit that arrives on a port with keys is accepted before it acts. -/
theorem onFlit_usable (s : State) (f : State → Out) (h : (s.cur.port s.unit).usable = true) : onFlit s f = f (acceptFlit s) := by
  rw [onFlit, if_pos h]

/-- On another port it has no effect. -/
theorem onFlit_unusable (s : State) (f : State → Out) (h : (s.cur.port s.unit).usable = false) : onFlit s f = .next s := by
  rw [onFlit, h]; rfl

/-- A flit answers a next state when what it does once accepted answers one. -/
theorem onFlit_next (s : State) (f : State → Out) (h : ∀ t, ∃ u, f t = .next u) : ∃ u, onFlit s f = .next u := by
  unfold onFlit
  split
  · exact h _
  · exact ⟨s, rfl⟩

/-- Accepting a flit changes the ports and the counter of free values alone. -/
theorem acceptFlit_frame (s : State) : ∃ m, acceptFlit s =
    { s with fresh := s.fresh + 1, cur := { s.cur with link := { s.cur.link with ports := m } } } := ⟨_, rfl⟩

/-! ### Memory and its integrity tags -/

/-- A write of HBM changes its bytes, the list of poisoned units and the tags alone. -/
theorem Sys.hbmWrite_frame (y : Sys) (pa : Nat) (bs : Bytes) : ∃ p m,
    y.hbmWrite pa bs = { y with hbm := Mem.write y.hbm pa bs, poison := p, macs := m } := ⟨_, _, rfl⟩

/-! ### Invalidations -/

/-- An invalidation of firmware's own is new, and every die of the form owes an acknowledgement unless it covers nothing. -/
theorem Sys.beginInval_eq (y : Sys) (l : List (Nat × Nat × Nat)) : y.beginInval l =
    (y.nextId, { y with nextId := y.nextId + 1
                        invals := y.invals ++ [{ no := y.nextId, ranges := l, waits := [], acks := if l.isEmpty then [] else y.present }] }) := rfl

/-- One that is not under way is done. -/
theorem Sys.invalDone_none (y : Sys) (n : Nat) (h : (y.invals.find? fun v => v.no == n) = none) : y.invalDone n = true := by
  rw [Sys.invalDone, h]

end Sys2Proof.Machine
end

