-- ==== Sys2Proof/Tests/Slice0.lean ====
section
/-! SUPPORT. Tests of the model by kernel evaluation: words written out from the spec's encodings, a term that each check of WellFormed
refuses, results that the spec works out, and for every statement with hypotheses a state and operands that meet them. -/

set_option Elab.async false

namespace Sys2Proof.Tests

open Sys2Proof.Machine

/-! ### Small states -/

/-- A state between steps, with a module in place of both of its copies and nothing due. -/
def withSys (y : Sys) : State := { State.reset with old := y, cur := y, todo := [] }
/-- The module after reset with core 0 in a given state. -/
def sysCore (k : Core) : Sys := Sys.reset.setCore 0 k
/-- Such a state with core 0 in turn. -/
def withCore (k : Core) : State := withSys (sysCore k)
/-- The unit 0 in turn, with nothing pending. -/
def plain0 : State := withCore Core.reset
/-- A prefix with all fields zero. -/
def pfx0 : Pfx := { x := false, m := 0, r := false, a := false, s := 0, t := false, p := 0, v := false, e := false, i := 0 }
/-- A state whose word in turn has a prefix. -/
def under (p : Pfx) (s : State) : State := { s with issue := { s.issue with pfx := some p } }
/-- A state whose word in turn is guarded off: the guard is p1, which reads zero. -/
def off (s : State) : State := under { pfx0 with e := true, p := 1 } s
/-- A scalar register file with one register written. -/
def reg (n : Nat) (v : Word) : Core := { Core.reset with s := [(n, v)] }


/-! ### Words written out from the spec's encodings -/

/-- Format SR and its kin (Tables 4.1 and 4.3): MINOR [31:26], B [25:20], A [19:14], D [13:8], major [7:2]. -/
theorem test_words_scalar :
  decode (.one 0b000000_000011_000010_000001_000000_00) = some (.add 3 2 1) ∧
  decode (.one 0b000000_111111_000010_000001_001111_00) = some (.mulmod 63 2 1) ∧
  decode (.one 0b000010_000011_000010_000001_001111_00) = some (.tagp 3 2 1) ∧
  decode (.one 0b001000_000011_000010_000001_001111_00) = some (.pand 3 2 1) ∧
  decode (.one 0b011111_100000_000010_000001_001000_00) = some (.extb 31 32 2 1) ∧
  decode (.one 0b101010101010101010_001001_001010_00) = some (.movi 0x2AAAA 9) ∧
  decode (.one 0b0101_10000000_000010_000001_001110_00) = some (.cmpi 5 0x80 2 1) := by decide

/-- Format SM: IMM [31:24], O [23], W [22:20], A, D. -/
theorem test_words_scalarMemory :
  decode (.one 0b11111111_0_110_000010_000001_010000_00) = some (.lds 0xFF 6 2 1) ∧
  decode (.one 0b01111111_1_011_000010_000001_010011_00) = some (.stg 0x7F 1 3 2 1) := by decide

/-- Formats CJ and CM: T [31:15], C [14], P [13:8]; IMM [31:20], A [19:14], MINOR [13:8]. -/
theorem test_words_control :
  decode (.one 0b11111111111111111_0_000000_010100_00) = some (.br 0x1FFFF) ∧
  decode (.one 0b00000000000000001_1_000101_010101_00) = some (.brc 1 1 5) ∧
  decode (.one 0b0000000_11111_000010_000001_010111_00) = some (.loopset 31 2) ∧
  decode (.one 0b000000000000_000000_000011_010111_00) = some (.halt) ∧
  decode (.one 0b0000000000_10_101000_000_000_111011_00) = some (.xsend 2 40) := by decide

/-- Format CR: CSR [31:20], A or D [19:14], OP [13:11]. -/
theorem test_words_csr :
  decode (.one 0b000000010101_000010_000_000_111101_00) = some (.csrw 0x15 2) ∧
  decode (.one 0b000000010000_000010_000_000_101001_00) = some (.vshape 16 2) := by decide

/-- Formats VR3, VC, VCV, VRD, VS, VL and VB of Table 4.1. -/
theorem test_words_vector :
  decode (.one 0b000011_000010_000001_001010_011000_00) = some (.vadd 3 2 1 10) ∧
  decode (.one 0b000011_000010_0100_0111_0001_100001_00) = some (.vcmp 3 2 4 7 1) ∧
  decode (.one 0b01_0000_000100_000010_000011_100010_00) = some (.vqnt 0 4 2 3) ∧
  decode (.one 0b10_1_000_000010_000001_000000_100100_00) = some (.vred 2 1 2 1 0) ∧
  decode (.one 0b000011_000010_000001_1111_10_100101_00) = some (.vsel 3 2 1 15 2) ∧
  decode (.one 0b111111_000010_000001_00_0000_100110_00) = some (.vld 63 2 1) ∧
  decode (.one 0b00001_0_000010_00011_0_011_011_100111_00) = some (.vbfly 1 2 3) ∧
  decode (.one 0b0011_00_0010_00_0001_00_000_000_101000_00) = some (.kand 3 2 1) := by decide

/-- R78: the one-word layout with LS = 01, then K [31:28] and ZM [27]. -/
theorem test_words_masked :
  decode (.two 0b000011_000010_000001_001010_011000_01
    0b0101_1_000000000000000000000000000) = some (.vaddMasked 3 2 1 10 5 1) ∧
  decode (.two 0b01_0000_000100_000010_000011_100010_01
    0b1111_0_000000000000000000000000000) = some (.vqntMasked 0 4 2 3 15 0) := by decide

/-- Formats MC, MP, MA and MD. -/
theorem test_words_matrix :
  decode (.one 0b11001000_0000000000000000_101100_00) = some (.mcall 200) ∧
  decode (.one 0b0011_00010011_000010_000_000_101101_00) = some (.mpair 19 2) ∧
  decode (.one 0b0101_11111111_000010_000_000_101101_00) = some (.mrtld 255 2) ∧
  decode (.one 0b000100_000011_000010_000001_101111_00) = some (.mdrain 4 3 2 1) := by decide

/-- Formats ST and CP. -/
theorem test_words_streamsAndCopies :
  decode (.one 0b000000111111_000010_000_111_110000_00) = some (.sbind 63 2 7) ∧
  decode (.one 0b100000000000_000010_011_001_110000_00) = some (.ssave 0x800 2 1) ∧
  decode (.one 0b00_1111_000011_000010_001_000_110100_00) = some (.cpa 15 3 2) ∧
  decode (.one 0b00_1001_000000_000000_010_000_110100_00) = some (.cpgo 9) := by decide

/-- Formats AT and SY at majors 0x38 and 0x39. -/
theorem test_words_orderAndSync :
  decode (.one 0b001000_000000_000000_0000_00_111000_00) = some (.fence 8) ∧
  decode (.one 0b000011_000010_000001_0001_11_111000_00) = some (.aadd 3 2 1 3) ∧
  decode (.one 0b000000_000000_000000_1001_00_111000_00) = some (.ochk) ∧
  decode (.one 0b000000000000_000010_010_000_111001_00) = some (.sacq 2) ∧
  decode (.one 0b000000001111_000010_100_000_111001_00) = some (.enq 15 2) := by decide

/-- Format SY at majors 0x3A and 0x3E. -/
theorem test_words_kernelPageLink :
  decode (.one 0b000000000001_000010_000_000_111010_00) = some (.lopen 1 2) ∧
  decode (.one 0b111111111111_000010_000_000_111110_00) = some (.dictld 0xFFF 2) ∧
  decode (.one 0b000000000111_000000_001_000_111110_00) = some (.step 7) ∧
  decode (.one 0b000000000001_000010_010_000_111110_00) = some (.holdBar 2) ∧
  decode (.one 0b000000000100_000010_110_000_111110_00) = some (.pgattr 4 2) := by decide

/-- R82 and Table 4.6: OP [63:58], PA, PB, FMT [51:48], CNT [47:32], IMM [31:0]. -/
theorem test_words_microWords :
  decode (.mx 0b000001_111_000_0001_1111111111111111_10000000000000000000000000000000) =
    some (.mxlda 7 1 0xFFFF 0x80000000) ∧
  decode (.mx 0b000011_001_010_1000_0000000001000000_00000000000000000000000000000000) =
    some (.mxmac 1 2 8 64) ∧
  decode (.mx 0b001000_011_000_0000_0000000000001010_00000000000000000000111111111111) =
    some (.mxloop 3 10 4095) ∧
  decode (.mx 0b001001_001_010_0000_0000000000000000_11111111111111110000000000000001) =
    some (.mxstep 1 2 0xFFFF0001) := by decide

/-- R84 and Table 4.7: OP [63:58], DT [57:48], PCH [47:42], BANK [41:36], OPND [35:0]. -/
theorem test_words_commands :
  decode (.cmd 0b000001_0000000000_111111_111110_0000000000000000000000_10111111111111) =
    some (.act 63 62 12287) ∧
  decode (.cmd 0b000010_1111111111_000001_000010_1111_10011_11111111111111111_0000000000) =
    some (.rdl 1 2 15 19 0x1FFFF) ∧
  decode (.cmd 0b001001_0000000011_000101_000000_0000000000000000000000000000_11111111) =
    some (.svwin 5 255) ∧
  decode (.cmd 0b001010_0000000011_000000_000000_00000000000000000000_1111111111111111) =
    some (.seam 0xFFFF) ∧
  decode (.cmd 0b010000_0000000000_000000_000000_000000000000000000000000_101010111100) =
    some (.bconv 0xABC) := by decide

/-- R86 and Table 4.8: OP [31:28], X [27:14], Y [13:4], L [3:0]. -/
theorem test_words_nearBank :
  decode (.nb 0b0010_10111111111111_0000011111_1111) = some (.nmac 12287 31 15) ∧
  decode (.nb 0b0100_00000000000001_0000000000_0010) = some (.nwb 1 2) ∧
  decode (.nb 0b0110_00000000000011_0011111111_0000) = some (.nloop 3 255) := by decide

/-- The words that the spec writes out as examples, with the line each stands for (chapters 4 to 8, 10 to 12 and 14). -/
theorem test_words_examples :
    decode (.one 0x20308434) = some (.cmp 2 3 2 4) ∧ decode (.one 0x02A10748) = some (.ldg 2 1 2 4 7) ∧
    decode (.cmd (0x041C1670000002BC - 28 * 2 ^ 48)) = some (.act 5 0b100111 700) ∧
    decode (.one 0x02EE0128) = some (.movi 3000 1) ∧ decode (.one 0xFFF04204) = some (.addi 0xFFF 1 2) ∧
    decode (.one 0x010000A4) = some (.vshape 16 0) ∧ decode (.one 0x030000B0) = some (.mcall 3) ∧ decode (.one 0x000108B4) = some (.mova 0 4 1) ∧
    decode (.mx 0x0DC3000400000000) = some (.mxmac 3 4 3 4) ∧ decode (.one 0x004181C0) = some (.sbind 4 6 1) ∧
    decode (.one 0x080140D0) = some (.cpl 2 5) ∧ decode (.one 0x080010D0) = some (.cpgo 2) ∧ decode (.one 0x284223E0) = some (.acas 5 4 8 3) ∧
    decode (.one 0x144204E0) = some (.aadd 5 4 8 0) ∧ decode (.one 0x0C0000E0) = some (.fence 3) ∧ decode (.one 0x0021A0E4) = some (.enq 2 6) ∧
    decode (.one 0x0000E8E4) = some (.gsig 0 3) ∧ decode (.one 0x019003F0) = some (.csrr 0x19 3) ∧ decode (.one 0x0151C0F4) = some (.csrw 0x15 7) ∧
    decode (.one 0x019082F4) = some (.csrc 0x19 2) := by decide +kernel

/-- R195's and R303's examples of words that fail validation: ACAS with an odd B, and CSRW of GNOMON. -/
theorem test_words_refused :
    decode (.one (0x284223E0 + 2 ^ 26)) = none ∧ decode (.one 0x000040F4) = none ∧ decode (.index 0x2000) = none ∧ decode (.index 0xFFBF) = none ∧ decode (.nb 0xF0000000) = none ∧
    decode (.mx 0xFC00000000000000) = none ∧ decode (.cmd 0xFC00000000000000) = none := by decide +kernel

/-! ### WellFormed: a term that each check refuses -/

/-- R109, R111, R117: bit fields past bit 63, condition codes past 5, access widths. -/
theorem test_wf_scalar :
    (Instr.extb 63 1 0 0).wf = false ∧ (Instr.insb 1 63 0 0).wf = false ∧ (Instr.cmp 6 0 0 0).wf = false ∧ (Instr.cmpi 15 0 0 0).wf = false ∧
    (Instr.lds 0 7 0 0).wf = false ∧ (Instr.ldg 0 0 7 0 0).wf = false ∧ (Instr.sts 0 4 0 0).wf = false ∧ (Instr.stg 0 0 4 0 0).wf = false ∧
    (Instr.csrr 7 0).wf = false ∧ (Instr.csrw 0 0).wf = false ∧ (Instr.csrs 0x1A 0).wf = false ∧ (Instr.csrc 6 0).wf = false := by decide +kernel

/-- R80: a format outside the set of the instruction. -/
theorem test_wf_formats :
    (∀ i ∈ [Instr.vadd 0 0 0 3, .vmul 0 0 0 7, .vsub 0 0 0 16, .vmin 0 0 0 6, .vmax 0 0 0 5, .vfma 0 0 0 8, .vfms 0 0 0 3, .vabs 0 0 12, .vneg 0 0 15,
        .vexp2 0 0 8, .vlog2 0 0 3, .vrcp 0 0 4, .vrsq 0 0 5, .vsqrt 0 0 9, .vtanh 0 0 10, .vsigm 0 0 11, .vnot 0 0 0, .vclz 0 0 1, .vffs 0 0 2,
        .vpopc 0 0 7, .vred 0 0 0 0 3, .mdrain 0 0 0 7, .vqnt 3 0 0 3, .vqnt 0 0 0 2, .vdqnt 2 0 0 0, .vdqnt 3 0 0 3, .mxlda 0 0 0 0, .mxldb 0 2 0 0,
        .mxmac 0 0 15 0], i.wf = false) ∧
    (Instr.vcmp 0 0 0 0 3).wf = false ∧ (Instr.vcmp 0 0 6 0 8).wf = false ∧ (Instr.vcvt 7 0 0 0).wf = false ∧ (Instr.vcvt 5 0 0 11).wf = false ∧
    (Instr.vcvt 0 0 0 6).wf = false ∧ (Instr.vaddMasked 0 0 0 3 0 0).wf = false ∧ (Instr.vcvtMasked 0 1 0 1 0 0).wf = false := by decide +kernel

/-- R79, R81, R82, R84 and R86: a field value that its table does not give. -/
theorem test_wf_fields :
    ∀ i ∈ [Instr.vand 0 0 0 4, .vor 0 0 0 7, .vxor 0 0 0 4, .vshl 0 0 0 4, .vshr 0 0 0 4, .vsar 0 0 0 4, .vtrn 0 0 4, .vshuf 0 0 0 4, .vbcst 0 0 4,
        .vins 0 0 0 4, .vcmp 0 0 7 0 0, .vred 3 0 0 0 0, .fence 9, .gsig 16 0, .lchk 16, .mxloop 0 0 4096, .act 0 0 12288, .rdl 0 0 0 20 0,
        .wrl 0 0 0 20 0, .lturn 0 5, .svwin 0 0, .nbld 0 0 20 0, .nbiss 0 0 12288 0, .nbcast 12288 0, .nbcast 0 32, .nmac 12288 0 0, .nmac 0 32 0,
        .nwb 12288 0, .nloop 12288 0, .nloop 0 256, .dictionaryBundle 0, .idleRun 1, .idleRun 65], i.wf = false := by decide +kernel

/-- R150 to R152: a register group that starts within a group. -/
theorem test_wf_groups :
    (Instr.vcvt 0 3 8 1).misfielded = true ∧ (Instr.vcvt 1 8 3 0).misfielded = true ∧ (Instr.vqnt 0 3 10 3).misfielded = true ∧
    (Instr.vqnt 0 4 11 3).misfielded = true ∧ (Instr.vdqnt 3 10 3 0).misfielded = true ∧ (Instr.vdqnt 3 11 4 0).misfielded = true ∧
    (Instr.vcvt 0 2 8 1).wf = true ∧ (Instr.vqnt 0 4 10 3).wf = true ∧ (Instr.vdqnt 3 10 4 0).wf = true := by decide +kernel

/-- R63: each way that a prefix word is refused, and the cause it raises. -/
theorem test_wf_prefix :
    prefixFields 0 0 0 0 0 0 0 0 0 1 = 0x08 ∧ prefixFields 0 0 0 0 0 0 0 1 0 0 = 0x08 ∧ prefixFields 0 0 0 1 0 0 0 0 0 0 = 0x08 ∧
    prefixFields 0 0 1 0 0 0 0 0 0 0 = 0x08 ∧ prefixFields 0 0 0 0 0 1 0 0 0 0 = 0x08 ∧ prefixFields 1 0 0 0 0 0 0 0 0 0 = 0x08 ∧
    prefixFields 0 0 0 0 0 0 1 6 0 0 = 0x06 ∧ prefixFields 0 0 0 0 1 0 0 0 1 0 = 0x06 ∧ prefixFields 0 0 0 0 1 3 0 0 0 0 = 0x06 ∧
    (Instr.pfx 0 0 0 0 0 0 0 1 6 0).wf = false ∧ (Instr.pfx 0 0 1 0 0 0 0 0 0 0).wf = false ∧ (Instr.pfx 0xFFF 1 1 63 0 0 1 1 5 1).wf = true := by
  decide +kernel

/-! ### One step at a time: results that the spec works out -/

/-- The results that a step of core 0 put in flight: landing cycle and destination. -/
def puts (i : Instr) (s : State) : List (Nat × Dest) :=
  match exec i s with
  | .next t => t.mine.pending.map fun p => (p.land, p.dest)
  | _ => []
/-- Core 0 with some scalar registers. -/
def regs (rs : List (Nat × Word)) : State := withCore { Core.reset with s := rs }

/-- R99's example: 6 × 7 reaches s4 in three cycles. -/
theorem test_mul_example : puts (.mul 3 2 4) (regs [(2, 6), (3, 7)]) = [(3, .scalar 4 42)] := by decide +kernel
/-- R109: addition wraps at 2^64, and s0 may be its target without effect (R28). -/
theorem test_add_wraps : puts (.add 3 2 4) (regs [(2, 0xFFFFFFFFFFFFFFFF), (3, 2)]) = [(1, .scalar 4 1)] := by decide +kernel
/-- R109: SUBX keeps the low 32 bits and extends the sign. -/
theorem test_subx_sign : puts (.subx 3 2 4) (regs [(2, 0x100000000), (3, 1)]) = [(1, .scalar 4 0xFFFFFFFFFFFFFFFF)] := by decide +kernel
/-- R109: the high half of a signed product. -/
theorem test_mulh_sign : puts (.mulh 3 2 4) (regs [(2, 0xFFFFFFFFFFFFFFFF), (3, 2)]) = [(3, .scalar 4 0xFFFFFFFFFFFFFFFF)] := by decide +kernel
/-- R111's order: CMP.lt is signed and compares A with B. -/
theorem test_cmp_signed : puts (.cmp 2 3 2 4) (regs [(2, 0xFFFFFFFFFFFFFFFF), (3, 0)]) = [(1, .pred 4 true)] := by decide +kernel
/-- R51's example: the Montgomery product of 0xFFFF_FFFF and 7. -/
theorem test_mulmod_example : mulmod 0xFFFFFFFF00000001 0xFFFFFFFEFFFFFFFF 0xFFFFFFFF 7 = 7 := by decide +kernel
/-- R40's example: one draw from G = 1, and the rounding of 1 + 2^-9 into bf16 with it. -/
theorem test_draw_example : draws 1 1 = ([0], 0x40822041) ∧ (roundVal 1 5 false 0 (decodeF 0 0x3F804000)).1 = 0x3F81 := by decide +kernel
/-- R44's example: the scale of a block with 300, the element 300, and 500 saturated. -/
theorem test_quantise_example :
    (blockScale 3 [decodeF 0 0x43960000]).1 = 127 ∧ (quantElem 3 0 0 127 (decodeF 0 0x43960000)).1 = 0x79 ∧
    (blockScale 3 [decodeF 0 0x43FA0000]).1 = 127 ∧ (quantElem 3 0 0 127 (decodeF 0 0x43FA0000)).1 = 0x7E := by decide +kernel
/-- R49's example: the three terms of 0x3F80_4021. -/
theorem test_split_example :
    (splitTerms (decodeF 0 0x3F804021)).map (fun x => (roundVal 1 1 false 0 x).1) = [0x3F80, 0x3B00, 0x3684] := by decide +kernel
/-- R30's example: 100 + 100 in i8, without and with saturation, and 3 − 5 in n8. -/
theorem test_saturation_example :
    (intResult 8 false (100 + 100)).1 = 0xC8 ∧ (intResult 8 true (100 + 100)).1 = 0x7F ∧ (intResult 12 false (3 - 5)).1 = 0xFE ∧
    (intResult 12 true (3 - 5)).1 = 0 := by decide +kernel
/-- R234's example: where the stack offset 0x34A1_2345 lies. -/
theorem test_place_example : placeOf 0x34A12345 = ⟨0, 37, 0b101000, 132, 13 * 64 + 5⟩ := by decide +kernel
/-- R298 and R299's example: the result of MUL issued at 100, in the record of a core stopped at boundary 102. -/
theorem test_inflight_example :
    inflightRecord 102 { Core.reset with pending := [{ land := 103, issue := 100, word := 0, flags := 0, dest := .scalar 4 42 }] } =
      natLe 4 1 ++ natLe 4 0 ++ [1, 0, 1, 0, 1, 0, 0, 0, 4, 0, 0, 0, 0, 0, 0, 0] ++ [42] ++ List.replicate 63 0 := by decide +kernel
/-- R56: an index of 0xFFFE runs idle for 64 cycles and 0xFFC4 for six (the example of section 4.7). -/
theorem test_idle_example : decode (.index 0xFFFE) = some (.idleRun 64) ∧ decode (.index 0xFFC4) = some (.idleRun 6) := by decide +kernel
/-- FIPS 180-4: the digest of "abc". -/
theorem test_sha256 : (sha256 (ascii "abc")).take 4 = [0xBA, 0x78, 0x16, 0xBF] := by decide +kernel
/-- FIPS 197: the substitution of 0x53 (section 5.1.1), and one product in its field (section 4.2). -/
theorem test_aes_field : sboxOf 0x53 = 0xED ∧ gfMul 0x57 0x13 = 0xFE := by decide +kernel
/-- The check value of CRC-32C: "123456789". -/
theorem test_crc32c : crc32c (ascii "123456789") = 0xE3069283 := by decide +kernel

/-! ### Witnesses: a state and operands that meet the hypotheses of each statement -/

/-! ### Witnesses: encoding, indices, scalar and vector words -/

/-- Witness of DecodeInvertsEncode: an instruction of each encoding, with fields at their ends. -/
theorem witness_DecodeInvertsEncode :
    ∀ i ∈ [Instr.literalBundle, .idleRun 64, .dictionaryBundle 0x1FFF, .add 63 0 63, .vaddMasked 63 0 63 15 15 1, .mxlda 7 15 0xFFFF 0,
        .act 63 63 12287, .nend],
      i.wf = true ∧ (encode i).isSome = true := by decide +kernel

/-- Witness of EncodeInvertsDecode: a code of each kind that decodes. -/
theorem witness_EncodeInvertsDecode :
    ∀ c ∈ [Code.index 0xFFFE, .one 0xFFF0000A, .two 0x0C204A61 0x58000000, .mx 0x3400000000000000, .cmd 0x040A15800000012C, .nb 0x70000000],
      (decode c).isSome = true := by decide +kernel

/-- A core in the course of issuing a bundle. -/
def issuing (ws : List Word32) : State :=
  { plain0 with issue := { Issue.none with active := true, words := ws } }

/-- Witness of StepRunsWhatIsNext: a one-word and a two-word unit in issue, and a fill word and the end of the words. -/
theorem witness_StepRunsWhatIsNext_issue :
    plain0.cur.power.powered = true ∧ (issuing [0xFFFFFFFF]).issue.active = true ∧
    (isFill 0x00308100 = false ∧ decodeUnit 0x00308100 none = .ok (.add 3 2 1)) ∧
    (isFill 0x0C204A61 = false ∧ (decodeUnit 0x0C204A61 (some 0x58000000)).toOption.isSome = true) ∧
    isFill 0xFFFFFFFF = true := by decide +kernel

/-- Witness of StepRunsWhatIsNext: an entry of each kind that decodes, and of each kind that does not. -/
theorem witness_StepRunsWhatIsNext_due :
    plain0.issue.active = false ∧ (decodeIndex 0xFFC0).isSome = true ∧ decodeIndex 0x2000 = none ∧ decodeIndex 0xFFBF = none ∧
    (decodeMx 0x3400000000000000).isSome = true ∧ decodeMx 0x3400000000000001 = none ∧ cmdReady (withSys (Sys.reset.setStk 0 { Stack.reset with driver := .compiled })) 0 = true ∧
    (decodeCmd 0x040A15800000012C).isSome = true ∧ (decodeNb 0x70000000).isSome = true := by decide +kernel

/-- Witness of StepStopsOnlyWithoutPower: a module with power, and one without power and without inputs. -/
theorem witness_StepStopsOnlyWithoutPower :
    State.reset.cur.power.powered = true ∧
    (withSys { Sys.reset with power := { PowerState.reset with powered := false } }).cur.power.powered = false ∧
    State.reset.inputs = [] := by decide +kernel

/-- A core at the last position that a literal bundle fits at, with the empty bundle as its literal. -/
def atEnd : State :=
  withCore { Core.reset with ip := 131047, index := (131047, 0xFFFF) :: (List.range 24).map fun j => (131048 + j, 0xFFFF) }
/-- Witness of IndexConsumption: a literal bundle whose escape stands at position 131,047 and passes validation, the position after it, and
both cases of an idle run. -/
theorem witness_IndexConsumption :
    atEnd.me.ip ≤ 131047 ∧ validateBundle emptyBundleBits = none ∧ (validateBundle (emptyBundleBits - 1)).isSome = true ∧
    (∀ j < 24, emptyBundleBits.extractLsb' (16 * j) 16 = SMap.getD atEnd.me.index (131048 + j) 0) ∧
    131047 < (withCore { Core.reset with ip := 131048 }).me.ip ∧ plain0.me.idle = 0 ∧ (withCore { Core.reset with idle := 1 }).me.idle ≠ 0 := by
  decide +kernel

/-- Witness of GuardsAndPrefixes: a word of every kind under a false guard; a matrix word whose delivery goes on, and one past the
end of the index stream. -/
theorem witness_GuardsAndPrefixes :
    (off plain0).guardOn = false ∧
    (∀ i ∈ [Instr.add 63 63 63, .vadd 63 63 63 0, .lds 0xFF 6 2 1, .br 0], i.wf = true ∧ isUnit i = true ∧
      isMatrixWord i = false) ∧
    (∀ i ∈ [Instr.mcall 255, .mdrain 0 0 0 15], i.wf = true ∧ isUnit i = true ∧ isMatrixWord i = true) ∧
    (deliver (off plain0)).toOption.isSome = true ∧
    (deliver (off (withCore { Core.reset with csr := { Csrs.reset with mpc := 65535 } }))).toOption.isSome = false := by decide +kernel

/-- Witness of ScalarResults: every instruction of the scalar class, at register 0 and 63 and at the ends of the immediates. -/
theorem witness_ScalarResults :
    plain0.guardOn = true ∧
    ∀ i ∈ [Instr.add 63 0 63, .sub 63 0 63, .addx 63 0 63, .subx 63 0 63, .and 63 0 63, .or 63 0 63, .xor 63 0 63, .andn 63 0 63, .shl 63 0 63,
        .shr 63 0 63, .sar 63 0 63, .rol 63 0 63, .ror 63 0 63, .min 63 0 63, .max 63 0 63, .minn 63 0 63, .maxn 63 0 63, .addi 0x800 0 63,
        .andi 0x800 0 63, .ori 0x800 0 63, .xori 0x7FF 0 63, .shli 63 0 63, .shri 63 0 63, .sari 63 0 63, .mul 63 0 63, .mulh 63 0 63,
        .mulhn 63 0 63, .divs 63 0 63, .divn 63 0 63, .rems 63 0 63, .remn 63 0 63, .clz 0 63, .ctz 0 63, .ffs 0 63, .popc 0 63,
        .extb 63 0 0 63, .extb 0 63 0 63, .insb 63 0 0 63, .movi 0x3FFFF 63, .movhi 0x3FFFF 63, .sel 63 63 0 63, .mulmod 63 0 63,
        .addmod 63 0 63, .tagp 63 0 63, .csrr 0 63, .csrr 0x19 63],
      i.wf = true ∧ (scalarRow plain0 i).isSome = true := by decide +kernel

/-- Witness of PredicateResults: each instruction, with the least and the greatest condition code. -/
theorem witness_PredicateResults :
    plain0.guardOn = true ∧
    ∀ i ∈ [Instr.cmp 0 63 0 63, .cmp 5 63 0 63, .cmpi 0 0x80 0 63, .cmpi 5 0x7F 0 63, .pand 63 0 63, .por 63 0 63, .pxor 63 0 63, .pnot 0 63],
      i.wf = true ∧ (predicateRow plain0 i).isSome = true := by decide +kernel

/-- Witness of VectorLanes: every arithmetic, unary and bitwise instruction, with the formats at the ends of its set. -/
theorem witness_VectorLanes :
    plain0.guardOn = true ∧
    (∀ f ∈ [(0 : BitVec 6), 2, 8, 15], ∀ i ∈ [Instr.vadd 63 0 63 f, .vsub 63 0 63 f, .vmul 63 0 63 f, .vmin 63 0 63 f, .vmax 63 0 63 f],
      i.wf = true ∧ (arithRow plain0 i).isSome = true) ∧
    (∀ f ∈ [(0 : BitVec 6), 2], ∀ i ∈ [Instr.vfma 63 0 63 f, .vfms 63 0 63 f], i.wf = true ∧ (arithRow plain0 i).isSome = true) ∧
    (∀ f ∈ [(0 : BitVec 6), 2, 8, 11], ∀ i ∈ [Instr.vabs 0 63 f, .vneg 0 63 f], i.wf = true ∧ (unaryRow plain0 i).isSome = true) ∧
    (∀ f ∈ [(0 : BitVec 6), 2], ∀ i ∈ [Instr.vexp2 0 63 f, .vlog2 0 63 f, .vrcp 0 63 f, .vrsq 0 63 f, .vsqrt 0 63 f, .vtanh 0 63 f,
        .vsigm 0 63 f], i.wf = true ∧ (unaryRow plain0 i).isSome = true) ∧
    (∀ f ∈ [(8 : BitVec 6), 15], ∀ i ∈ [Instr.vnot 0 63 f, .vclz 0 63 f, .vffs 0 63 f, .vpopc 0 63 f],
      i.wf = true ∧ (unaryRow plain0 i).isSome = true) ∧
    (∀ w ∈ [(0 : BitVec 3), 3], ∀ i ∈ [Instr.vand 63 0 63 w, .vor 63 0 63 w, .vxor 63 0 63 w, .vshl 63 0 63 w, .vshr 63 0 63 w,
        .vsar 63 0 63 w], i.wf = true ∧ (bitsRow plain0 i).isSome = true) := by decide +kernel

/-- Witness of VectorModularAndMoves: every instruction, with its fields at their ends. -/
theorem witness_VectorModularAndMoves :
    plain0.guardOn = true ∧
    (∀ i ∈ [Instr.vaddmod 63 0 63, .vsubmod 63 0 63, .vmulmod 63 0 63, .vbfly 31 63 31, .vibfly 31 63 31],
      i.wf = true ∧ (modularRow plain0 i).isSome = true) ∧
    ∀ i ∈ [Instr.vsel 63 0 63 15 3, .vtrn 0 63 3, .vshuf 63 0 63 3, .vbcst 0 63 3, .vins 63 0 63 3, .vred 0 0 0 63 0, .vred 2 1 0 63 15],
      i.wf = true ∧ (moveRow plain0 i).isSome = true := by decide +kernel

/-- Witness of VectorConversionsAndQuantising: conversions that widen, narrow and keep the width, at their groups' last base, and both forms
of VQNT. -/
theorem witness_VectorConversionsAndQuantising :
    plain0.guardOn = true ∧ rowsOk plain0.rows = true ∧
    (∀ i ∈ [Instr.vcvt 0 63 63 0, .vcvt 5 63 56 0, .vcvt 0 56 63 5, .vcvt 15 0 63 15, .vcvt 8 63 63 12, .vdqnt 5 62 56 0],
      i.wf = true ∧ (convertRow plain0 i).isSome = true) ∧
    (Instr.vqnt 0 56 62 5).wf = true ∧ (Instr.vqntMasked 2 62 62 3 15 1).wf = true := by decide +kernel

/-- Witness of MasksAndMaskedForms: the two-word form of every kind of row, under masks k0 and k15. -/
theorem witness_MasksAndMaskedForms :
    plain0.guardOn = true ∧
    (∀ i ∈ [Instr.vaddMasked 63 0 63 0 15 1, .vmulMasked 63 0 63 8 0 0, .vsubMasked 63 0 63 15 0 1, .vminMasked 63 0 63 2 15 0,
        .vmaxMasked 63 0 63 2 15 0, .vfmaMasked 63 0 63 0 1 1, .vfmsMasked 63 0 63 2 1 1, .vabsMasked 0 63 11 2 0, .vnegMasked 0 63 0 2 0,
        .vexp2Masked 0 63 0 1 1, .vlog2Masked 0 63 1 1 1, .vrcpMasked 0 63 2 1 1, .vrsqMasked 0 63 0 1 1, .vsqrtMasked 0 63 0 1 1,
        .vtanhMasked 0 63 0 1 1, .vsigmMasked 0 63 0 1 1, .vnotMasked 0 63 8 1 1, .vclzMasked 0 63 15 1 1, .vffsMasked 0 63 8 1 1,
        .vpopcMasked 0 63 8 1 1, .vandMasked 63 0 63 0 1 1, .vorMasked 63 0 63 3 1 1, .vxorMasked 63 0 63 3 1 1, .vshlMasked 63 0 63 3 1 1,
        .vshrMasked 63 0 63 3 1 1, .vsarMasked 63 0 63 3 1 1, .vcvtMasked 0 56 63 5 1 1, .vdqntMasked 3 62 60 0 1 0],
      i.wf = true ∧ ((unmasked i).bind fun x => oneWordRow plain0 x.1).isSome = true) ∧
    (Instr.vcmp 63 0 6 15 2).wf = true ∧ (Instr.vcmp 63 0 0 0 15).wf = true := by decide +kernel

/-! ### Witnesses: memory, control and transfers -/

/-- A core whose s1 holds a word. -/
def holding (v : Word) : State := withCore (reg 1 v)
/-- The last bytes of a core's own scratchpad, by the broadcast rank. -/
def spadTop : Word := 0x3FC00000001FFFF8

/-- Witness of ScalarScratchpad: the last eight bytes, an address outside the space, and a misaligned one. -/
theorem witness_ScalarScratchpad :
    (holding spadTop).guardOn = true ∧ (Instr.lds 0 3 1 0).wf = true ∧ (Instr.lds 0xFF 6 1 63).wf = true ∧
    scratchCause 0 8 ((holding spadTop).sv 1) = none ∧ scratchCause 0 8 ((holding 0).sv 1) = some 0x32 ∧
    scratchCause 0 8 ((holding (spadTop + 8)).sv 1) = some 0x32 ∧ scratchCause 0 8 ((holding (spadTop - 1)).sv 1) = some 0x33 := by decide +kernel

/-- A core whose bank 31 widens `.f16` to `.f32`. -/
def widener : State := withCore { reg 1 0x3FC00000001FFE00 with bfmt := [(31, 0x011)] }
/-- Witness of VectorScratchpad: the last granule as it is and in a bank that widens, and each check that fails. -/
theorem witness_VectorScratchpad :
    widener.guardOn = true ∧ scratchCause 0 512 (widener.sv 1) = none ∧ ((holding 0).me.bfmtAt 0).kind = 0 ∧
    ((holding 0).me.bfmtAt 0).widening = false ∧ (widener.me.bfmtAt 0x1FFE00).kind = 1 ∧ (widener.me.bfmtAt 0x1FFE00).widening = true ∧
    scratchCause 0 1 ((holding 0).sv 1) = some 0x32 ∧ scratchCause 0 512 ((holding 0x3FC0000000000100).sv 1) = some 0x33 ∧
    ((withCore { Core.reset with bfmt := [(0, 3)] }).me.bfmtAt 0).kind ≠ 0 := by decide +kernel

/-- A page at address 0 in frame 0, with a code. -/
def pageWith (code : BitVec 16) : Page := { va := 0, pa := 0, code := code, state := .mapped, rtag := none, tier := none }
/-- A context with that page only. -/
def onePage (code : BitVec 16) : Context :=
  { state := .active, owner := [], mkey := [], fkey := [], queues := [0], pages := [pageWith code], own := [] }
/-- A die whose TLB holds that page. -/
def dieWith (code : BitVec 16) : Die := { Die.reset with tlb := [{ ctx := 0, va := 0, pa := 0, code := code, locked := 0 }] }
/-- The module with core 0, die 0 and context 0 so. -/
def paged (code : BitVec 16) (k : Core) : Sys := { (sysCore k).setDie 0 (dieWith code) with ctxs := [(0, onePage code)] }

/-- Witness of AddressChecksFenceAndOchk: each address form that passes and each that fails; OUTST zero and not. -/
theorem witness_AddressChecksFenceAndOchk :
    (paged 4 Core.reset).lookup 0 ((paged 4 Core.reset).ctxOf 0) 0xFF8 ≠ none ∧ (paged 4 Core.reset).lookup 0 0 0x1000 = none ∧
    (4 : BitVec 16).getLsbD 2 = true ∧ (4 : BitVec 16).getLsbD 6 = false ∧ (0 : BitVec 16).getLsbD 2 = false ∧
    (0x44 : BitVec 16).getLsbD 6 = true ∧
    ((0xE000000000000000 : Word).toNat / 2 ^ 61 = 7 ∧ (0xE000000000000000 : Word).toNat / 2 ^ 54 % 128 ≠ 127) ∧
    ((0xFFC000002FFF03F8 : Word).toNat / 2 ^ 54 % 128 = 127 ∧ (0xFFC000002FFF03F8 : Word).toNat / 2 ^ 16 % 2 ^ 14 = 12287) ∧
    ((0xA027E00000000000 : Word).toNat / 2 ^ 61 = 5 ∧ (0xA027E00000000000 : Word).toNat / 2 ^ 45 % 512 = 319) ∧
    (0x2000000000000000 : Word).toNat / 2 ^ 61 = 1 ∧ plain0.me.csr.outst = 0 ∧
    (withCore { Core.reset with csr := { Csrs.reset with outst := 64 } }).me.csr.outst ≠ 0 := by decide +kernel

/-- A core with a granule's address in s2 and OUTST.COUNT at a value, on a module with a page with W. -/
def lander (n : Word) : State :=
  withSys (paged 4 { Core.reset with s := [(1, 0xFF8), (2, 0x3FC00000001FFFC0), (3, 8)], csr := { Csrs.reset with outst := n } })
/-- Witness of ServiceAccessesIssue: every instruction, with each check passing (63 outstanding) and failing (64). -/
theorem witness_ServiceAccessesIssue :
    (lander 63).guardOn = true ∧
    (∀ i ∈ [Instr.ldg 0 0 0 1 2, .ldg 0x7F 1 6 1 2, .stg 0 0 3 1 2, .stg 0x80 1 0 1 2, .aadd 63 1 2 3, .amin 63 1 2 0, .amax 63 1 2 1,
        .aand 63 1 2 2, .aor 63 1 2 3, .axor 63 1 2 0, .axchg 63 1 2 0, .acas 31 1 2 3],
      i.wf = true ∧ (accessRow (lander 63) i).isSome = true) ∧
    scratchCause 0 64 ((lander 63).sv 2) = none ∧ scratchCause 0 64 ((lander 63).sv 1) = some 0x32 ∧
    (serviceEa (lander 63).old 0 8 true ((lander 63).sv 1)).toOption.isSome = true ∧
    (serviceEa (lander 63).old 0 8 true 0x1000).toOption.isSome = false ∧
    (lander 63).me.csr.outst.toNat + (lander 63).issue.sent < 64 ∧ 64 ≤ (lander 64).me.csr.outst.toNat + (lander 64).issue.sent := by
  decide +kernel

/-- A window of this cycle. -/
def someWindow : Window := { issued := 0, target := 131071, transfer := true, link := none }
/-- A result in flight that lands in this cycle. -/
def due (d : Dest) : Pending := { land := 0, issue := 0, word := 0, flags := 1, dest := d }
/-- A core with one result in flight. -/
def landing (d : Dest) : State := withCore { Core.reset with pending := [due d] }

/-- Witness of ControlTransfersAndWindows: with and without a window; RET to the last position and past it; LOOPB that goes on by LC, by a
stage predicate, and that ends; its writes due. -/
theorem witness_ControlTransfersAndWindows :
    plain0.guardOn = true ∧ plain0.me.window = none ∧ (withCore { Core.reset with window := some someWindow }).me.window ≠ none ∧
    (withCore { Core.reset with window := some someWindow }).mine.window = some someWindow ∧
    (wrap (sgn ((holding 131071).sv 1) + (holding 0).immS (0 : BitVec 12))).toNat = 131071 ∧
    (withCore { Core.reset with csr := { Csrs.reset with lc := 1 } }).me.csr.lc.toNat % 2 ^ 32 ≠ 0 ∧
    (withCore { Core.reset with csr := { Csrs.reset with lc := 0x100000000 }, p := [(32, true)] }).me.pname 32 = true ∧
    plain0.me.csr.lc = 0 ∧ (landing (.loopb 0 31 31 true)).firstDue Dest.isLoopb = some (due (.loopb 0 31 31 true)) := by decide +kernel

/-- Witness of LoopsetTchkHaltTrap: a TCHK that agrees and one that does not. -/
theorem witness_LoopsetTchkHaltTrap :
    plain0.guardOn = true ∧ (wrap ((plain0.now : Int) - plain0.me.start)) = wrap (sgn (plain0.sv 1) + plain0.immS (0 : BitVec 12)) ∧
    (wrap ((plain0.now : Int) - plain0.me.start)) ≠ wrap (sgn (plain0.sv 1) + plain0.immS (0x800 : BitVec 12)) := by decide +kernel

/-- Witness of ResultsAndStoresLand: a result of each kind that is due, to the constant register and to the last one, and each store. -/
theorem witness_ResultsAndStoresLand :
    (∀ d ∈ [Dest.scalar 0 1, .scalar 63 1, .pred 0 true, .pred 63 true, .mask 0 0, .mask 15 1, .csr 0x19 63 true, .vector 63 1 1],
      (landing d).firstDue Dest.isRegister = some (due d)) ∧
    ∀ c ∈ [2, 5, 8], (landing (.store 0x1FFFFF [1] c)).firstStore c = some (due (.store 0x1FFFFF [1] c)) := by decide +kernel

/-- A kernel on dies 0 and 1, running. -/
def twoDies : Kernel :=
  { state := .running, ctx := 0, queue := 0, obj := 0, arg := 0, variant := 0, dies := [0, 1], lead := true, start := 0, readyAt := 0,
    holds := Holds.none, stop := none, barriers := [], rings := [], ops := [], succ := [], pinned := [], status := 0, cause := 0,
    save := 0, saving := none, lost := false, launch := none }
/-- A core of that kernel, with a vector from die 1. -/
def receiver (ok : Bool) : State :=
  withSys ((sysCore { Core.reset with kernel := some 1, arrived := [(1, 5, ok)] }).setKern 1 twoDies)
/-- Witness of DieTransfers: a partner die and a die that is none; a vector that arrived well, one that was spoilt, and none. -/
theorem witness_DieTransfers :
    (receiver true).guardOn = true ∧ (receiver true).old.diesOf 0 = [0, 1] ∧ partnerDie (receiver true) 1 = .ok 1 ∧ partnerDie (receiver true) 0 = .error (trouble 0x18) ∧
    partnerDie (receiver true) 3 = .error (trouble 0x18) ∧ (receiver true).mine.arrived.find? (fun x => x.1 == 1) = some (1, 5, true) ∧
    (receiver false).mine.arrived.find? (fun x => x.1 == 1) = some (1, 5, false) ∧
    (landing (.die 1 5 true)).mine.pending = [due (.die 1 5 true)] := by decide +kernel

/-- Witness of CsrWrites: values at the ends of VSHAPE's set and past it, and the CSR numbers at the ends of the writable ones. -/
theorem witness_CsrWrites :
    plain0.guardOn = true ∧ (1 : Nat) ∈ [1, 2, 4, 8, 16, 32, 64] ∧ (64 : Nat) ∈ [1, 2, 4, 8, 16, 32, 64] ∧ (65 : Nat) ∉ [1, 2, 4, 8, 16, 32, 64] ∧
    (∀ i ∈ [Instr.csrw 0x10 63, .csrs 0x19 0, .csrc 0x19 1], i.wf = true) ∧ (0x0F : Nat) < 0x10 ∧ (0x19 : Nat) < 0x1A := by decide +kernel

/-! ### Witnesses: matrix unit, streams, copies -/

/-- A matrix unit with its sequencer so. -/
def mxWith (q : Seq) : Core := { Core.reset with mx := { MxUnit.reset with seq := q } }
/-- A running routine of one word. -/
def runs : Seq := { Seq.reset with st := .running, count := 1, done := false }

/-- Witness of MatrixWords: seeded mode, the end of the index stream, a full queue and one with room; every word of the class under a
delivery that goes on; operands at the ends of their ranges. -/
theorem witness_MatrixWords :
    (withCore { Core.reset with mx := { MxUnit.reset with seeded := true } }).me.mx.seeded = true ∧ plain0.me.mx.seeded = false ∧
    (withCore { Core.reset with csr := { Csrs.reset with mpc := 65535 } }).me.csr.mpc.toNat = 65535 ∧
    (withCore { Core.reset with csr := { Csrs.reset with mpc := 65534 }, mx := { MxUnit.reset with mmode := 1, mqueue := List.replicate 16 0 } }).me.mx.mqueue.length
      = 16 ∧
    plain0.guardOn = true ∧ (off plain0).guardOn = false ∧ (deliver plain0).toOption.isSome = true ∧ (deliver (off plain0)).toOption.isSome = true ∧
    (∀ i ∈ [Instr.mova 0 63 0, .mseed 0, .mmeta 1, .mpair 19 1, .mclr 0 1, .mrdac 1 63, .mwrac 1 63], i.wf = true) ∧
    (let v := ((0x7FF000 : Word)).toNat
     v % 2048 = 0 ∧ v / 2 ^ 12 % 2048 + 1 = 2048 ∧ v / 2 ^ 11 % 2 = 0 ∧ v / 2 ^ 23 = 0) ∧
    (plain0.mine.mx.seq.st = .idle) ∧ ((withCore (mxWith runs)).mine.mx.seq.st = .running) ∧
    accCause 0 512 512 0x5FC00000000FFE00 = none ∧ accCause 0 512 1024 0x5FC00000000FFE00 = some 0x32 ∧
    accCause 0 512 512 0x5FC0000000000100 = some 0x33 ∧ accCause 0 512 512 0 = some 0x32 := by decide +kernel

/-- A core with s1 at a scratchpad offset and one routine image there: a header and a word. -/
def image (off : Nat) (h w : Word) : Core :=
  { reg 1 (0x3FC0000000000000 + BitVec.ofNat 64 off) with spad := Mem.write [] off (natLe 8 h.toNat ++ natLe 8 w.toNat) }
/-- Witness of RoutineLoadAndCall: a legal image, a bad pointer, headers out of their form, an image that leaves the scratchpad, a word that
may not be loaded, a running routine in the way; a table entry and none; a pair that is armed. -/
theorem witness_RoutineLoadAndCall :
    let s := withCore (image 0 0x10FFF mxEndWord)
    s.guardOn = true ∧ (deliver s).toOption.isSome = true ∧ scratchCause s.unit 8 (s.sv 1) = none ∧ scratchCause s.unit 8 (s.sv 0) = some 0x32 ∧
    leNat (Mem.read s.me.spad 0 8) = 4095 + 2 ^ 16 ∧ 4096 < 4095 + 2 ∧ mxWordOk 1 mxEndWord = true ∧ mxWordOk 1 (mxEndWord + 1) = false ∧
    2 ^ 21 < (2 ^ 21 - 8) + 8 + 8 * 1 ∧ (withCore (mxWith runs)).mine.mx.seq.first = 0 ∧ (withCore (mxWith runs)).mine.mx.seq.st = .running ∧
    SMap.get? plain0.me.mx.table 0 = none ∧
    SMap.get? (withCore { Core.reset with mx := { MxUnit.reset with table := [(255, (0, 1))] } }).me.mx.table 255 = some (0, 1) := by decide +kernel

/-- A drain of two `.f32` rows to offset 0 that started in cycle 0. -/
def drain0 : Drain :=
  { start := 0, word := 11, src := 0, dst := 0, nrows := 2, zrc := false, srcKind := 0, fmt := 0, mode := 0, sat := false,
    draws := List.replicate 256 0, done := 0, rows := [(0, List.replicate 512 0)], ready := [] }
/-- A module whose die 0 stands at a cycle. -/
def atCycle (n : Nat) (k : Core) : State := withSys ((sysCore k).setDie 0 { Die.reset with gnomon := n })
/-- Witness of Draining: an MDRAIN whose checks pass, and each that fails; a drain in a cycle of its reads, and of its first write. -/
theorem witness_Draining :
    plain0.guardOn = true ∧ (deliver plain0).toOption.isSome = true ∧
    (∀ f ∈ [(0 : BitVec 6), 3, 15], (Instr.mdrain 1 2 3 f).wf = true) ∧ (Instr.mdrain 1 2 3 6).wf = true ∧
    accCause 0 512 (512 * 2048) 0x5FC0000000000000 = none ∧ accCause 0 512 (512 * 2048) 0x5FC0000000000200 = some 0x32 ∧
    scratchCause 0 64 0x3FC00000001FFFC0 = none ∧ 2 ^ 21 < 0x1FFFC0 + drainSlot 0 0 false * 1 ∧
    (plain0.me.bfmtAt 0).kind = 0 ∧ plain0.me.mx.drain = none ∧
    (atCycle 1 { Core.reset with mx := { MxUnit.reset with drain := some drain0 } }).mine.mx.drain = some drain0 ∧
    (atCycle 1 { Core.reset with mx := { MxUnit.reset with drain := some drain0 } }).cur.gn 0 < 0 + 4 ∧
    0 + 4 ≤ (atCycle 4 { Core.reset with mx := { MxUnit.reset with drain := some drain0 } }).cur.gn 0 := by decide +kernel

/-- A micro-word's core: parameter 0 a scratchpad address, 1 a row of the accumulator, 2 a tile, 3 a stride, with a stream of two rows. -/
def micro (fmt : Nat) (tile : BTile) : Core :=
  let params : SMap Word := [(0, 0x3FC0000000000000), (1, 0x5FC00000000FFE00), (2, 0x9FC0000000000000), (3, 8), (4, 0x5FC0000000000000)]
  let a : AStream := { base := 0x3FC0000000000000, stride := 64, fmt := fmt, rows := 2, next := 1, gen := 0, genImm := 0 }
  { Core.reset with mx := { MxUnit.reset with seq := { runs with params := params, astr := some a, kind := some 0 }, btile := tile } }
/-- A tile of a kind and a format. -/
def tile (kind fmt : Nat) : BTile := { present := true, kind := kind, fmt := fmt, bytes := [], pattern := 0 }

/-- Witness of MicroControl: a tile that ends with the weight buffer and one that does not fit, a promotion with and without scales, a loop
that goes back and one that ends, patterns of each source, and the words' operand fields at their ends. -/
theorem witness_MicroControl :
    let s := withCore (micro 1 (tile 0 1))
    (∀ i ∈ [Instr.mxnop, .mxend, .mxlda 7 1 0xFFFF 0xFFFFFFFF, .mxgen 0xFFFF 0xFFFFFFFF, .mxldb 2 15 0 0, .mxprom 0 0 7, .mxloop 7 0xFFFF 4095,
        .mxstep 0 7 0xFFFFFFFF, .mxstep 7 7 0x80007FFF, .mxspar 0 0, .mxspar 0 1], i.wf = true) ∧
    SMap.getD s.me.mx.seq.params 2 0 = 0x9FC0000000000000 ∧ tileBytes 0 1 ≤ 2 ^ 19 ∧
    scratchCause 0 4 (SMap.getD s.me.mx.seq.params 0 0) = none ∧ scratchCause 0 4 (SMap.getD s.me.mx.seq.params 1 0) = some 0x32 ∧
    SMap.getD s.me.mx.seq.loops 7 0 + 1 < 2 ∧ ¬ SMap.getD s.me.mx.seq.loops 7 0 + 1 < 1 ∧ (7 : BitVec 3) ≠ 0 ∧
    s.me.mx.seeded = false ∧ s.me.mx.seq.pair = none ∧ s.me.mx.mqueue.length < 8 ∧ 8 ≤ (List.replicate 8 (0 : Word32)).length := by decide +kernel

/-- Witness of MicroRows: the last A row for every format, a strided row, a row of each exchange, and the passes of a split. -/
theorem witness_MicroRows :
    (∀ x ∈ [(1, 0), (3, 0), (3, 1), (4, 0), (5, 0), (8, 0)],
      let s := withCore (micro x.1 (tile x.2 x.1))
      accCause s.unit 512 (512 * 1) (SMap.getD s.me.mx.seq.params 1 0) = none ∧ (s.me.mx.seq.astr.any fun a => a.fmt == x.1) = true ∧
      tileFits s.me.mx.btile x.1 = true ∧ (s.aRow (aRowBytes s.me.mx.btile x.1)).toOption.isSome = true ∧
      (s.rowScale 0 (s.me.mx.seq.sae && x.1 != 8) 1).toOption.isSome = true) ∧
    (let s := withCore (micro 15 (tile 0 15))
     (s.strideOf 3).toOption.isSome = true ∧ (s.stridedRow 4 8 64 1 0).toOption.isSome = true ∧ s.me.mx.btile.present = true ∧
     (s.aRow 64).toOption.isSome = true) ∧
    (let s := withCore (micro 1 (tile 2 1))
     s.me.mx.seq.row % 3 = 0 ∧ (s.strideOf 3).toOption.isSome = true ∧ (s.stridedRow 4 8 512 1 0).toOption.isSome = true ∧
     (s.aRow 256).toOption.isSome = true ∧ s.me.mx.seq.kind = some 0 ∧
     ∀ j < 1, accCause s.unit 512 512 (SMap.getD s.me.mx.seq.params 1 0 + wrap (512 * j : Nat)) = none) ∧
    (withCore (mxWith { runs with row := 1 })).me.mx.seq.row % 3 ≠ 0 := by decide +kernel

/-- A pair with cluster 1 on all rows. -/
def pair1 : Pair := { cluster := 1, row0 := 0, nrows := 2048, word := 0, params := [], m := 0 }
/-- Witness of MicroRows for MXXCH: a paired routine at a later row, and one whose partner starts in the same cycle. -/
theorem witness_MicroRows_exchange :
    (withCore (mxWith { runs with st := .paired, row := 1, pair := some pair1 })).me.mx.seq.pair = some pair1 ∧
    startsXch { Core.reset with mx := { MxUnit.reset with store := [(0, 0x1C00000000000001)],
                                                          seq := { runs with st := .paired, pair := some { pair1 with cluster := 0 } } } } 0 1 = true := by
  decide +kernel

/-- Witness of MatrixLandings: an accumulator result of each kind, at the last row and inside and outside its pair's region; an exchange
row; a tile; a routine with and without a pair. -/
theorem witness_MatrixLandings :
    (∀ op ∈ [AccOp.write (List.replicate 512 0), .clear 512, .addI32 true (List.replicate 128 0), .addMod 3 (List.replicate 8 0),
        .addF32 [List.replicate 128 0]], ∀ g ∈ [none, some { row0 := 2047, nrows := 1, routine := 0, index := 0, store := 0 },
        some ({ row0 := 0, nrows := 1, routine := 0, index := 0, store := 0 } : AccGuard)],
      let s := landing (.acc 0xFFE00 op g)
      (s.mine.dueRows (s.cur.gn s.unit)).head? = some (due (.acc 0xFFE00 op g))) ∧
    (let s := landing (.exch 2047 [1])
     (s.mine.due (s.cur.gn s.unit) Dest.isExch).head? = some (due (.exch 2047 [1]))) ∧
    (let l : TileLoad := { start := 0, land := 0, off := 0, size := 1024, kind := 0, fmt := 1, pattern := 0, got := [], word := 0, paired := false }
     let s := withCore { Core.reset with mx := { MxUnit.reset with loads := [l] } }
     s.mine.mx.loads.find? (fun l => l.land == s.cur.gn s.unit) = some l) ∧
    (let q : Seq := { Seq.reset with pair := some pair1, done := false, called := 7 }
     let y := sysCore { Core.reset with mx := { MxUnit.reset with seq := q } }
     let closes := withSys (y.setCore (partnerCore 0 1) { Core.reset with mx := { MxUnit.reset with prior := [{ q with done := true }] } })
     let waits := withSys (y.setCore (partnerCore 0 1) { Core.reset with mx := { MxUnit.reset with seq := q } })
     let mark := fun (q : Seq) (g : Nat) => if (q.st = .idle ∨ q.st = .armed) ∧ q.lastLand ≤ g then { q with done := true } else q
     (∀ s ∈ [closes, waits], s.mine.mx.prior = [] ∧ (mark s.mine.mx.seq (s.cur.gn s.unit)).pair = some pair1 ∧
        (mark s.mine.mx.seq (s.cur.gn s.unit)).done = true) ∧
     (∃ r ∈ (closes.cur.core (partnerCore 0 1)).mx.routines, r.called = 7 ∧ r.done = true) ∧
     ∀ r ∈ (waits.cur.core (partnerCore 0 1)).mx.routines, r.done = false) ∧
    plain0.mine.mx.seq.pair = none := by decide +kernel

/-- A stream descriptor of `n` steps of 64 bytes, from `.f8` elements to themselves. -/
def stream (n : Nat) : Bytes :=
  [0, 0, 8, 8] ++ natLe 12 0 ++ natLe 4 n ++ natLe 8 512 ++ (natLe 4 1 ++ natLe 8 0) ++ (natLe 4 1 ++ natLe 8 0) ++ (natLe 4 1 ++ natLe 8 0)
/-- A core with stream z7 bound to that descriptor at a base and a position, and banks of a format. -/
def popping (base : Word) (pos : Nat) (fmt : Word) : State :=
  withCore { Core.reset with descs := [(63, stream 2)], z := [(7, { desc := 63, base := base, pos := pos })], bfmt := [(31, fmt)] }

/-- Witness of Streams: no stream, the last position and the one past it, reads that leave the scratchpad, are misaligned, and meet another
KIND; pointers that pass and fail, a descriptor that is there and one that is not; records that are legal, zero and illegal. -/
theorem witness_Streams :
    let sd := streamDesc (stream 2)
    let inside := fun (x : Word × Nat) => x.1.toNat / 2 ^ 21 % 2 ^ 33 = 0 ∧ x.1.toNat % 2 ^ 21 + x.2 ≤ 2 ^ 21 ∧ 0 < x.2
    let base : Word := 0x3FC00000001FFC00
    (popping base 1 0).guardOn = true ∧ SMap.get? plain0.me.z 7 = none ∧ SMap.get? (popping base 1 0).me.z 7 = some { desc := 63, base := base, pos := 1 } ∧
    sd.total = 2 ∧ streamDescOk (stream 2) = true ∧
    (∀ x ∈ ((sd.parts 1).map (sd.reads base)).flatten, inside x) ∧ (∃ x ∈ ((sd.parts 1).map (sd.reads (base + 64))).flatten, ¬ inside x) ∧
    (∀ x ∈ sd.parts 1, (sd.addr base x.1).toNat % 64 = 0) ∧ (∃ x ∈ sd.parts 1, (sd.addr (base - 1) x.1).toNat % 64 ≠ 0) ∧
    sd.tr = false ∧ sd.exp = false ∧ ((popping base 1 0).me.bfmtAt 0x1FFE00).kind = 0 ∧ ((popping base 1 2).me.bfmtAt 0x1FFE00).kind ≠ 0 ∧
    (Instr.vmovs 7 63).wf = true ∧ SMap.get? (popping base 1 0).me.descs 63 ≠ none ∧ SMap.get? (popping base 1 0).me.descs 0 = none ∧
    scratchCause 0 16 0x3FC00000001FFFF0 = none ∧ scratchCause 0 16 0x3FC00000001FFFF8 = some 0x33 ∧
    (let x := 0x3FC0000000000000 + 2 ^ 64 * 2 + 2 ^ 96 * 63 + 2 ^ 104
     x ≠ 0 ∧ x / 2 ^ 104 = 1 ∧ x / 2 ^ 96 % 256 = 63 ∧ x / 2 ^ 64 % 2 ^ 32 ≤ sd.total ∧ ¬ (x + 2 ^ 64) / 2 ^ 64 % 2 ^ 32 ≤ sd.total) := by
  decide +kernel

/-- A copy descriptor of one level: source, destination, bytes, control word and the source stride of its first level. -/
def copyBytes (src dst len c str : Nat) : Bytes :=
  natLe 8 src ++ natLe 8 dst ++ natLe 4 len ++ natLe 4 c ++ natLe 8 0 ++ (natLe 4 2 ++ natLe 4 str ++ natLe 8 0) ++
    (List.range 4).flatMap (fun _ => natLe 4 1 ++ natLe 12 0) ++ natLe 16 0
/-- Addresses of the scratchpad, L2 and the weight buffer, by the broadcast rank. -/
def spadAt (off : Nat) : Nat := 0x3FC0000000000000 + off
def l2At (off : Nat) : Nat := 0x7FC0000000000000 + off
def wbufAt (off : Nat) : Nat := 0x9FC0000000000000 + off
/-- Whether the checks of a starting instruction pass, and the cause they raise when not. -/
def startCause (s : State) (kind : Nat) (ra : Word) (bs : Bytes) : Nat :=
  match startChecks s 0 kind ra bs with
  | .ok _ => 0
  | .error e => e.cause
/-- A copy in flight of core 0. -/
def inCopy (kind start : Nat) (bs : Bytes) : Copy :=
  { desc := bs, kind := kind, slot := 0, start := start, word := 0, raddr := 0, conf := false, buf := [(0, List.replicate 256 0)], plain := [], offs := [],
    reread := false, hash := [], hlen := 0, cmp := 0 }
/-- A core with copies in flight, on a die at a cycle. -/
def copying (cs : List Copy) (now : Nat) : State := atCycle now { Core.reset with copies := cs }
/-- A module in confidential mode. -/
def confidential (s : State) : State :=
  withSys { s.cur with trust := { TrustState.reset with conf := true } }

/-- Witness of CopyWordsAndChecks: a start that passes for each kind, and one that each check turns away, in the order of the checks. -/
theorem witness_CopyWordsAndChecks :
    let d0 := copyBytes (l2At 0) (spadAt 0) 256 0 0
    scratchCause 0 64 0x3FC00000001FFF80 = none ∧ scratchCause 0 64 0x3FC00000001FFF88 = some 0x33 ∧
    startCause plain0 1 0 d0 = 0 ∧ startCause plain0 2 0x3FC00000001FFFE0 d0 = 0 ∧ startCause plain0 3 0x3FC00000001FFFF8 d0 = 0 ∧
    startCause plain0 1 0 (copyBytes (l2At 0) (spadAt (2 ^ 21 - 256)) 256 0 (2 ^ 23 - 256)) = 0 ∧
    startCause plain0 1 0 (copyBytes (l2At 0) (spadAt 0) 32 0 0) = 0x48 ∧
    startCause (confidential plain0) 1 0 (copyBytes (l2At 0) (wbufAt 0) 256 0 0) = 0x31 ∧
    startCause plain0 1 0 (copyBytes (l2At 0) (l2At 0) 256 4 0) = 0x48 ∧
    startCause plain0 1 0 (copyBytes (l2At 0) (spadAt 0) 256 0 (2 ^ 23)) = 0x32 ∧
    startCause plain0 1 0 (copyBytes (l2At 0) (spadAt (2 ^ 21 - 192)) 256 0 0) = 0x32 ∧
    startCause plain0 1 0 (copyBytes (l2At 8) (spadAt 0) 256 0 0) = 0x33 ∧ startCause plain0 1 0 (copyBytes (l2At 0) (spadAt 8) 256 0 0) = 0x33 ∧
    startCause plain0 1 0 (copyBytes (l2At 0) (wbufAt 0) 4096 1 0) = 0 ∧
    startCause plain0 1 0 (copyBytes 0x6140000000000000 (wbufAt 0) 4096 1 0) = 0x32 ∧
    startCause plain0 1 0 (copyBytes (l2At 0) (spadAt 0) 256 0x8000 0) = 0x48 ∧
    startCause plain0 2 0x3FC00000001FFFF8 d0 = 0x33 ∧ startCause plain0 3 0 d0 = 0x32 ∧
    startCause (copying (List.replicate 128 (inCopy 1 0 d0)) 1000) 1 0 d0 = 0x1D ∧ startCause (copying (List.replicate 127 (inCopy 1 0 d0)) 1000) 1 0 d0 = 0 ∧
    startCause (copying [inCopy 1 0 d0] 0) 1 0 d0 = 0x1D ∧
    (SMap.getD (withCore { Core.reset with slotDone := [(15, 1)] }).me.slotDone 15 0 ≤ 0) = False := by
  simp only [eq_iff_iff, iff_false]; decide +kernel

/-- A coded block of eleven granules whose 4096 bytes are all the symbol 0, of code length 1, with `n` bytes after its first code length. -/
def codedBlock (n : Nat) : Bytes := [11, 0, 0, 0, 1] ++ List.replicate n 0

/-- A run of zero bits gives symbols as long as it lasts, when a zero bit is a code. -/
theorem symbols_zeros (tbl : List (Nat × Nat × Nat)) (y : Nat) (h : ∀ r, nextSymbol tbl 15 0 0 (false :: r) = some (y, r)) (n : Nat) :
    ∀ m, n ≤ m → (symbols tbl n (List.replicate m false)).isSome = true := by
  induction n with
  | zero => intro m _; rfl
  | succ n ih =>
    intro m hm
    obtain ⟨k, rfl⟩ := Nat.exists_eq_add_of_le hm
    have := ih (n + k) (Nat.le_add_right n k)
    rw [show n + 1 + k = (n + k) + 1 by omega, List.replicate_succ]
    simp [symbols, h, this]

/-- Witness of CopyEvents and ServiceAccessesPerform: a coded block that expands, alone and in the place of a unit of a compressed page. -/
theorem witness_expands (n : Nat) (h : n = 699 ∨ n = 4283) : (expandBlock (codedBlock n)).isSome = true := by
  have hd : ((codedBlock n).drop 132).take (64 * 11 - 132) = List.replicate 572 0 := by rcases h with rfl | rfl <;> decide +kernel
  have hb : (((codedBlock n).drop 132).take (64 * 11 - 132)).flatMap (fun b => (List.range 8).map fun j => b.getLsbD j) = List.replicate 4576 false := by
    have h8 : ((List.range 8).map fun j => (0 : Byte).getLsbD j) = List.replicate 8 false := by decide +kernel
    rw [hd, List.flatMap_replicate, h8, List.flatten_replicate_replicate]
  have ht : codeTable (codedBlock n) = [(1, 0, 0)] := by rcases h with rfl | rfl <;> decide +kernel
  have hw : ((List.range 256).map (codeLen (codedBlock n))).foldl (fun a l => a + (if l == 0 then 0 else 2 ^ (15 - l))) 0 = 2 ^ 14 := by
    rcases h with rfl | rfl <;> decide +kernel
  have hn : blockGranules (fieldLe (codedBlock n) 0 4) = some 11 := by rcases h with rfl | rfl <;> decide +kernel
  have hl : ¬ (codedBlock n).length < 704 := by rcases h with rfl | rfl <;> decide +kernel
  have hs := symbols_zeros [(1, 0, 0)] 0 (fun r => by simp [nextSymbol]) 4096 4576 (by omega)
  unfold expandBlock
  rw [hn]
  simp only [hw, hl, hb, ht]
  exact hs
/-- Witness of ServiceAccessesPerform: a memory whose unit expands. -/
theorem witness_expands_in_memory : ∃ m, (expandBlock (Mem.read m 4288 4288)).isSome = true :=
  ⟨Mem.write [] 4288 (codedBlock 4283), by
    have h : (codedBlock 4283).length = 4288 := by decide +kernel
    rw [← h, Mem.read_write]; exact witness_expands 4283 (.inr rfl)⟩

/-- Witness of CopyEvents: a plain copy, a compare and an expanding copy in a cycle of a sector and in one of none; a block that expands and
one that does not; a digest and a result in the cycle before completion. -/
theorem witness_CopyEvents :
    let d0 := copyBytes (l2At 0) (spadAt 0) 256 0 0
    let dx := copyBytes (l2At 0) (wbufAt 0) 4096 1 0
    plain0.cur.link.transfers = [] ∧ (copyDesc d0).exp = false ∧ (copyDesc dx).exp = true ∧
    (∃ n ∈ List.range 100, sectorDue (inCopy 1 0 d0) (copyDesc d0) n = some 0) ∧ sectorDue (inCopy 1 0 d0) (copyDesc d0) 0 = none ∧
    (∃ n ∈ List.range 100, sectorDue (inCopy 3 0 d0) (copyDesc d0) n = some 0) ∧
    (∃ n ∈ List.range 200, sectorDue (inCopy 1 0 dx) (copyDesc dx) n = some 0) ∧ expandBlock [] = none ∧
    (copying [inCopy 2 0 d0] (copyL false (copyDesc d0) 2 - 1)).cur.gn 0 + 1 = 0 + copyL false (copyDesc d0) 2 ∧
    (copying [inCopy 3 0 d0] (copyL false (copyDesc d0) 3 - 1)).cur.gn 0 + 1 = 0 + copyL false (copyDesc d0) 3 := by decide +kernel
/-- An access of core 0 to the first granule of its scratchpad, of a group. -/
def bankUse (group : Nat) (t : Option (Nat × Nat)) : BankUse :=
  { core := 0, off := 0, size := 64, code := 1, word := some 3, since := 0, group := group, read := true, tag := t }
/-- Witness of CopyEvents' bank accesses: one that reads a granule before its copy is complete, with CHK and without; two of different groups and of one
that meet in a bank; one whose tag is and is not the granule's. -/
theorem witness_CopyEvents_banks :
    let c := inCopy 1 0 (copyBytes (l2At 0) (spadAt 0) 256 2 0)
    let y := (copying [c] 5).cur
    let u := bankUse 1 none
    (u.read = true ∧ u.off / 64 = 0 ∧ (u.off + u.size - 1) / 64 = 0 ∧ c ∈ (y.core 0).copies ∧ (copyDesc c.desc).chk = true ∧ c.kind ≠ 3 ∧
      spaceOf (copyDesc c.desc).dst = 1 ∧ c.start + 1 ≤ y.gn 0 ∧ y.gn 0 < c.start + copyLD c.conf (copyDesc c.desc) ∧
      ∃ j < (copyDesc c.desc).bytes / 64, (copyDesc c.desc).dstAt (64 * j) / 64 = 0) ∧
    (Sys.reset.core 0).copies = [] ∧ u.group ≠ (bankUse 2 none).group ∧ u.off / 65536 = 0 ∧ (u.off + u.size - 1) / 65536 = 0 ∧
    (Sys.reset.core 0).tag 0 ≠ 5 ∧ (Sys.reset.core 0).tag 0 = 0 ∧ (bankUse 1 (some (0, 5))).tag = some (0, 5) := by decide +kernel

/-! ### Witnesses: barriers, kernels' words, pages, the link -/

/-- A kernel's object: a description of `n` steps with a HOLDLIM of 1 µs on one die, and a step table of two steps in cycles 64 and 128. -/
def objOf (n : Nat) : List Section :=
  let desc : Section := { type := 1, u0 := 0, u1 := 0, u2 := 0, u3 := 0,
                          data := natLe 36 0 ++ natLe 4 1 ++ natLe 4 1 ++ natLe 4 n ++ natLe 16 0 }
  let entry := fun (k c : Nat) => natLe 2 k ++ natLe 6 0 ++ natLe 8 c ++ natLe 16 0
  let steps : Section := { type := 4, u0 := 0, u1 := 0, u2 := 0, u3 := 0, data := natLe 16 0 ++ entry 0 64 ++ entry 1 128 }
  let masks : Section := { type := 2, u0 := 0, u1 := 0, u2 := 0, u3 := 0, data := [1, 2, 4, 8] }
  [desc, masks, steps]
/-- A kernel on die 0, with that object. -/
def oneDie : Kernel := { twoDies with dies := [0], obj := 9 }
/-- A queue of four entries with nothing in it. -/
def queue0 : Queue :=
  { ctx := 0, num := 0, cap := 4, ring := 0, tail := 0, head := 0, err := 0, state := .idle, ready := none, valid := false, entry := [],
    sigs := [], pubs := [], raises := [] }
/-- A module with one kernel, its queue, its context, its object, and core 0 bound to it. -/
def kernelSys (x : Kernel) (k : Core) : Sys :=
  { (paged 4 { k with kernel := some 1 }) with
    kernels := [(1, x)], queues := [(0, queue0)], objs := [(9, { ctx := 0, saves := [0], file := [], sections := objOf 2 })] }
/-- A synchronisation operation of core 0 that is due. -/
def syncOp (op : Nat) (v : Word) : SyncOp := { count := 0, issue := 0, core := 0, op := op, value := v }

/-- Witness of BarriersAndStages: references that are legal and those that are not; a phase that is complete and one that is not; arrivals
below, at and above EXP; an operation of each kind that counts and one that faults. -/
theorem witness_BarriersAndStages :
    let bits : Nat → Bool := fun v => v / 2 ^ 7 % 2 == 0 && v / 2 ^ 24 % 256 == 0
    let stage : Nat → Bool := fun v => v / 2 ^ 17 == 0 && v / 2 ^ 14 % 4 == 0 && v / 2 ^ 3 % 32 == 0
    plain0.guardOn = true ∧ bits 0xFFFF7F ∧ 0xFFFF7F / 2 ^ 8 % 2 ^ 16 ≠ 0 ∧ bits 0x7F ∧ 0x7F / 2 ^ 8 % 2 ^ 16 = 0 ∧ ¬ bits 0x80 ∧ ¬ bits 0x1000000 ∧
    stage 0x13F07 ∧ ¬ stage 0x20000 ∧ ¬ stage 8 ∧ ((1 : Int) - 0) % 2 ^ 32 = 1 ∧ ((0 : Int) - 0) % 2 ^ 32 = 0 ∧ ((0 : Int) - 0x80000000) % 2 ^ 32 = 2 ^ 31 ∧
    (∀ a ∈ [1, 2, 3], ({ Barrier.reset with exp := some 2, arr := a } : Barrier).exp = some 2) ∧
    (let x := { oneDie with ops := [syncOp 0 0x100] }
     let y := kernelSys x Core.reset
     y.kern 1 = some x ∧ y.dueOps x [0, 4] = [syncOp 0 0x100] ∧
       ∃ z ∈ x.countOp (y.core 0).number (syncOp 0 0x100), ({ z with ops := [] } : Kernel).finish.toOption.isSome = true) ∧
    (let x := { oneDie with ops := [syncOp 4 0x100], barriers := [(0, { Barrier.reset with exp := some 2, arr := 1 })] }
     let y := kernelSys x Core.reset
     y.dueOps x [0, 4] = [syncOp 4 0x100] ∧ x.countOp (y.core 0).number (syncOp 4 0x100) = none) ∧
    (let x := { oneDie with ops := [syncOp 0 0x100], barriers := [(0, { Barrier.reset with exp := some 1, arr := 1 })] }
     let y := kernelSys x Core.reset
     y.dueOps x [0, 4] = [syncOp 0 0x100] ∧ ∃ z ∈ x.countOp (y.core 0).number (syncOp 0 0x100), ∃ b ∈ z.barriers,
       b.2.exp = some 1 ∧ 1 < b.2.arr ∧ b.2.last.isSome = true) ∧
    (let x := { oneDie with ops := [syncOp 2 0] }
     let y := kernelSys x Core.reset
     (x.ops.filter fun o => (o.op == 2 || o.op == 3) && o.count ≤ y.kernelNow x) = [syncOp 2 0] ∧
       (x.countOp (y.core 0).number (syncOp 2 0)).isSome = true ∧ x.countOp (y.core 0).number (syncOp 3 0) = none) := by decide +kernel

/-- A dictionary image: a header and bundles. -/
def dictImage (h : Nat) (bs : List (BitVec 384)) : Bytes := natLe 64 h ++ bs.flatMap fun b => natLe 48 b.toNat
/-- A core with s1 at a scratchpad offset and bytes there, in cycle `now` of its kernel's run. -/
def working (now off : Nat) (bs : Bytes) : State :=
  withSys ((kernelSys oneDie { reg 1 (BitVec.ofNat 64 (spadAt off)) with spad := Mem.write [] off bs }).setDie 0 { dieWith 4 with gnomon := now })
/-- Witness of KernelWords: a queue of the context and none, room and none for a successor; images of the last entry, out of form, and past
the scratchpad, with bundles that pass and fail; a step at its cycle and not, the last step and none; a cycle of a step and one of none. -/
theorem witness_KernelWords :
    let s := working 64 0 (dictImage (0x1FFF + 2 ^ 16) [emptyBundleBits])
    let h := leNat (Mem.read s.me.spad 0 64)
    s.guardOn = true ∧ scratchCause 0 64 (s.sv 1) = none ∧ scratchCause 0 64 (s.sv 0) = some 0x32 ∧ s.kernel = some (1, oneDie) ∧
    plain0.kernel = none ∧ 0 ∈ (s.cur.ctx 0).queues ∧ 1 ∉ (s.cur.ctx 0).queues ∧ oneDie.succ.length < 16 ∧
    s.cur.queue oneDie.queue = some queue0 ∧ (h = 0x1FFF + 2 ^ 16 * 1 ∧ h % 2 ^ 13 = 0x1FFF ∧ ¬ 8192 < 0x1FFF + 1) ∧ 8192 < 0x1FFF + 2 ∧
    validateBundle (BitVec.ofNat 384 (leNat (Mem.read s.me.spad 64 48))) = none ∧ validateBundle 0 ≠ none ∧
    2 ^ 21 < (2 ^ 21 - 64) + 64 + 48 * 1 ∧ nstepOf s.sections = 2 ∧ stepCycle s.sections 0 = s.rel ∧ stepCycle s.sections 1 ≠ s.rel ∧
    (stepAt s.sections s.rel).isSome = true ∧ (stepAt s.sections 65).isSome = false := by decide +kernel

/-- A page request block. -/
def pageBlock (va arg aux sub : Nat) : Bytes := natLe 8 va ++ natLe 8 arg ++ natLe 8 aux ++ natLe 1 sub ++ List.replicate 39 0
/-- Witness of PageRequestWords: a legal block of each operation at the ends of its fields, and blocks that are not; 63 accesses out and 64. -/
theorem witness_PageRequestWords :
    let legal : Nat → Nat → Nat → Nat → Nat → Bool := fun op va arg aux sub => decide (va < 2 ^ 54 ∧
      (op = 3 ∧ sub = 0 ∧ va % 4096 = 0 ∧ arg = 0 ∧ aux % 4096 = 0 ∧ 4096 ≤ aux ∧ aux ≤ 2 ^ 40 ∨
       op = 4 ∧ sub = 0 ∧ va % 4096 = 0 ∧ arg = 0 ∧ aux = 0 ∨ op = 5 ∧ sub = 0 ∧ va % 4096 = 0 ∧ codeOk aux = true ∨
       op = 6 ∧ sub = 0 ∧ va % 4096 = 0 ∧ codeOk arg = true ∧ aux = 0 ∨
       op = 6 ∧ sub = 1 ∧ va % 4096 = 0 ∧ arg % 2 ^ 61 % 4096 = 0 ∧ arg % 2 ^ 61 < 2 ^ 54 ∧ aux = 0 ∨ op = 6 ∧ sub = 2 ∧ arg = 0 ∧ aux = 0))
    let s := working 0 0x1FFFC0 (pageBlock (2 ^ 54 - 4096) 0 (2 ^ 40) 0)
    s.guardOn = true ∧ scratchCause 0 64 (s.sv 1) = none ∧ s.me.csr.outst.toNat + s.issue.sent < 64 ∧
    (let bs := Mem.read s.me.spad 0x1FFFC0 64
     legal 3 (fieldLe bs 0 8 % 2 ^ 61) (fieldLe bs 8 8) (fieldLe bs 16 8) (fieldLe bs 24 1) ∧ ∀ k < 39, Mem.get s.me.spad (0x1FFFC0 + 25 + k) = 0) ∧
    legal 4 0 0 0 0 ∧ legal 5 0 0 0x4F7F 0 ∧ legal 6 0 0x4F7F 0 0 ∧ legal 6 0 4096 0 1 ∧ legal 6 4097 0 0 2 ∧
    ¬ legal 3 0 0 (2 ^ 40 + 4096) 0 ∧ ¬ legal 3 0 0 0 0 ∧ ¬ legal 4 1 0 0 0 ∧ ¬ legal 6 0 0x80 0 0 := by decide +kernel

/-- A keyed port to module 319. -/
def portTo : Port := { Port.reset with state := .keyed, peer := some 319 }
/-- A window block: pointer, granules, peer, port, window and barrier word, in a state. -/
def winBlock (p n peer port win st : Nat) : Bytes :=
  natLe 8 p ++ natLe 4 n ++ natLe 2 peer ++ natLe 1 port ++ natLe 1 win ++ natLe 3 7 ++ natLe 13 0 ++ natLe 1 st ++ natLe 31 0
/-- A landing window with that block. -/
def window (st : Nat) : LandWin := { block := winBlock (spadAt 0) 1 319 23 15 st, granule := 0, tag := 0, written := [] }
/-- A core whose s1 is at a block, with a window 15 in a state, on a module whose port 23 is keyed. -/
def linked (bs : Bytes) (st : Nat) : State :=
  let y := sysCore { reg 1 (BitVec.ofNat 64 (spadAt 0)) with spad := Mem.write [] 0 bs, wins := [(15, window st)] }
  let known : KnownWin := { port := 23, peer := 319, dcore := 0, win := 15, xfer := 7, ngran := 4096 }
  withSys { y with link := { LinkState.reset with ports := [(23, portTo)], known := [known] } }
/-- Witness of LinkWords: LCHK of each state; a window block, a send block and a rejoin block that pass every check, and one that each check
turns away. -/
theorem witness_LinkWords :
    let s := linked (winBlock (spadAt (2 ^ 21 - 2 ^ 18)) 4096 319 23 15 0) 3
    let bs := Mem.read s.me.spad 0 64
    let k : Core := { Core.reset with wrote := [(64, 32, true), (2 ^ 21 - 64, 64, false)] }
    (∀ w ∈ k.wrote, 96 < w.1 ∨ w.1 + w.2.1 ≤ 96) ∧ (∃ w ∈ k.wrote, w.1 ≤ 2 ^ 21 - 1 ∧ 2 ^ 21 - 1 < w.1 + w.2.1) ∧
    (16 : BitVec 6).toNat > 15 ∧ (15 : BitVec 6).toNat ≤ 15 ∧ s.guardOn = true ∧ SMap.get? plain0.me.wins 15 = none ∧
    (∀ n ∈ List.range 7, (SMap.get? (linked bs n).me.wins 15).map LandWin.state = some n) ∧ scratchCause 0 64 (s.sv 1) = none ∧
    windowOk s bs = true ∧ windowOk s (winBlock (spadAt 0) 0 319 23 15 0) = false ∧ windowOk s (winBlock (spadAt 0) 1 320 23 15 0) = false ∧
    windowOk s (winBlock (spadAt 0) 1 319 24 15 0) = false ∧ (s.old.port 23).usable = true ∧ (s.old.port 22).usable = false ∧
    (let f := fun o n => fieldLe bs o n
     blockRange 0 (BitVec.ofNat 64 (f 0 8)) (f 8 4) = true ∧ f 12 2 = 319 ∧ f 12 2 ≠ s.old.trust.module ∧ f 14 1 = 23 ∧ f 15 1 = 15 ∧ zeros bs 19 1 = true ∧
       zeros bs 22 42 = true ∧ ∃ k ∈ s.old.link.known, k.peer = f 12 2 ∧ k.dcore = f 20 2 ∧ k.win = f 15 1 ∧ k.xfer = f 16 3 ∧ k.ngran = f 8 4) ∧
    blockRange 0 (BitVec.ofNat 64 (spadAt (2 ^ 21 - 2 ^ 18))) 4097 = false ∧ plain0.old.link.known = [] ∧
    (let mask := 2 ^ 23
     mask ≠ 0 ∧ mask < 2 ^ 24 ∧ ∀ p < 24, mask.testBit p = true → (s.old.port p).usable = true) ∧ (2 ^ 22).testBit 22 = true ∧
    s.me.csr.outst.toNat + s.issue.sent < 64 := by decide +kernel

/-! ### Witnesses: the memory stacks and the service window -/

/-- A stack in turn at tick `w`, with pseudo-channel 63 so. -/
def stackAt (w : Nat) (c : Pch) : State :=
  withSys { Sys.reset with hub := w / 2, stks := [(0, { Stack.reset with driver := .compiled, tick := w % 2, pchs := [(63, c)] })] }
/-- A pseudo-channel with bank 63 so. -/
def bank63 (k : Bank) : Pch := { Pch.reset with banks := [(63, k)] }
/-- An open bank. -/
def open63 : Bank := { Bank.reset with mode := .opened 12287, act := some 0 }

/-- Witness of RowCommands: every row command with nothing in its way, and for the timing rules the last tick that breaks one and the first
that does not. -/
theorem witness_RowCommands :
    (∀ i ∈ [Instr.act 63 63 12287, .pre 63 63, .prea 63, .refab 63, .refpb 63 63, .lturn 63 4, .svwin 63 1, .nbiss 63 3 12287 255, .nbfence 63],
      i.wf = true ∧ (rowEffect (stackAt 1 Pch.reset) 1 Pch.reset i).isSome = true ∧ firstBroken ((true, 0x27, 38) :: rowRules Pch.reset 1 i) = none) ∧
    (stackAt 27 Pch.reset).wtick = 27 ∧
    firstBroken (rowRules (bank63 { Bank.reset with pre := some 0 }) 27 (.act 63 63 0)) = some (0x22, 3) ∧
    firstBroken (rowRules (bank63 { Bank.reset with pre := some 0 }) 28 (.act 63 63 0)) = none ∧
    firstBroken (rowRules (bank63 { Bank.reset with act := some 0 }) 91 (.act 63 63 0)) = some (0x22, 4) ∧
    firstBroken (rowRules (bank63 { Bank.reset with act := some 0 }) 92 (.act 63 63 0)) = none ∧
    firstBroken (rowRules (bank63 open63) 92 (.act 63 63 0)) = some (0x21, 33) ∧
    firstBroken (rowRules { Pch.reset with acts := [(0, 0)] } 3 (.act 63 63 0)) = some (0x23, 5) ∧
    firstBroken (rowRules { Pch.reset with acts := [(0, 15)] } 5 (.act 63 63 0)) = some (0x23, 6) ∧
    firstBroken (rowRules { Pch.reset with acts := [(0, 0), (4, 1), (8, 2), (12, 3)] } 31 (.act 63 63 0)) = some (0x23, 7) ∧
    firstBroken (rowRules { Pch.reset with acts := [(0, 0), (4, 1), (8, 2), (12, 3)] } 32 (.act 63 63 0)) = none ∧
    firstBroken (rowRules (bank63 open63) 63 (.pre 63 63)) = some (0x22, 2) ∧ firstBroken (rowRules (bank63 open63) 64 (.prea 63)) = none ∧
    firstBroken (rowRules { Pch.reset with busy := some (9, .refab) } 8 (.svwin 63 1)) = some (0x27, 37) ∧
    firstBroken (rowRules { Pch.reset with readEnd := 9 } 8 (.lturn 63 0)) = some (0x25, 35) ∧
    firstBroken [((some 1 : Option Nat) != some 1, 0x27, 38)] = some (0x27, 38) := by decide +kernel

/-- Witness of ColumnCommandsAndSeams: a column command in the first tick that tRCD permits and in the one before; a SEAM with its stack
quiet, with a bank open, and after another of its tick. -/
theorem witness_ColumnCommandsAndSeams :
    firstBroken (columnRules (bank63 open63) 28 63 true) = none ∧ firstBroken (columnRules (bank63 open63) 28 63 false) = none ∧
    firstBroken (columnRules (bank63 open63) 27 63 true) = some (0x22, 1) ∧ firstBroken (columnRules Pch.reset 28 63 true) = some (0x21, 33) ∧
    firstBroken (columnRules { bank63 open63 with split := 0 } 28 63 false) = some (0x25, 34) ∧
    firstBroken (columnRules { bank63 open63 with cols := [(27, 0, true)] } 28 63 true) = some (0x25, 8) ∧
    firstBroken (columnRules { bank63 open63 with cols := [(25, 15, true)] } 28 63 true) = some (0x25, 9) ∧
    (Instr.rdl 63 63 15 19 0x1FFFF).wf = true ∧
    (let x := (stackAt 1 Pch.reset).stack
     x.seamCmd ≠ some 1 ∧ (∀ e ∈ x.engines, e.endTick < x.tick) ∧ x.pos = x.prog.length ∧ ∀ c ∈ x.pchs, (∀ b ∈ c.2.banks, b.2.opened = false ∧ b.2.inRefresh 1 = false ∧ b.2.pre ≠ some 1) ∧
       c.2.readEnd ≤ 1 ∧ c.2.writeEnd ≤ 1 ∧ c.2.idleAt 1 = true ∧ c.2.lturn = none ∧ c.2.noIssue = true ∧ c.2.nbFlag = false) ∧
    (∀ e ∈ [({ endTick := 0, cycle := 0, pch := 63, desc := 4095, out := [], fault := none } : EngineRun)], e.endTick < (stackAt 1 Pch.reset).stack.tick) ∧
    ({ Bank.reset with pre := some 1 }).pre = some 1 ∧ open63.opened = true ∧ ({ Stack.reset with seamCmd := some 1 }).seamCmd = some 1 := by decide +kernel

/-- An issue that steps on layer group 3 with base row 127. -/
def nbRun : NbRun := { issue := { lg := 3, g0 := 127, start := 0, tick := 0, word := 0 }, s := 0, pc := 255, n := 0, ended := false }
/-- An engine descriptor of one unit. -/
def engine1 (e : Nat) : Bytes := [BitVec.ofNat 8 e, 0, 63, 0] ++ natLe 2 1 ++ natLe 26 0
/-- Witness of NearBankCommandsAndWords: NBLD of a line whose words load and of one whose words do not; each engine with a list that keeps its form
and one that does not; an issue, with a row in its frame and one outside it, and a step at 31 and past it. -/
theorem witness_NearBankCommandsAndWords :
    (Instr.nbld 63 15 19 0x1FFFF).wf = true ∧ (decodeNb 0x70000000).isSome = true ∧ (decodeNb 0x30000000).isSome = true ∧ decodeNb 0 = none ∧
    (let c := Pch.reset
     firstBroken [(c.rowCmd != some 1, 0x27, 38), (c.idleAt 1, 0x27, 37), (c.noIssue, 0x28, 40)] = none) ∧
    (∀ e ∈ [1, 2, 3], (engineDesc (engine1 e)).units = 1 ∧ (engineDesc (engine1 e)).pch = 63) ∧ engineDescOk 1 (engine1 1) = true ∧
    engineDescOk 3 (engine1 3) = true ∧
    (let c := Pch.reset
     firstBroken (openRules c 1) = none) ∧ hbmLocOk (0x3F000000 + 12287 * 1024) = true ∧ hbmLocOk (12288 * 1024) = false ∧
    ({ Pch.reset with cur := some nbRun }).cur = some nbRun ∧
    (127 + (0 : BitVec 14).toNat) / 128 = 127 / 128 ∧ (127 + (1 : BitVec 14).toNat) / 128 ≠ 127 / 128 ∧ (31 : BitVec 14).toNat + 0 ≤ 31 ∧
    31 < (31 : BitVec 14).toNat + 1 ∧ (∀ b ∈ [48, 63], 16 * 3 ≤ b ∧ b < 16 * 3 + 16) := by decide +kernel

/-- Data on its way to a line, and to a column. -/
def lineLand (bs : Option Bytes) : LineLand := { cluster := 19, line := 131071, cycle := 0, tick := 1, pa := 0, bytes := bs }
def flight (done : Nat) : WrlFlight := { pa := 384 * 2 ^ 30 - 64, done := done, bytes := List.replicate 64 1 }
/-- Witness of StackEvents: a line that lands well or not; a column whose burst has ended and one whose has not; banks that refresh; a queue;
an issue that has ended and one past the store; slots to commit; an engine; a debt of eight and one below. -/
theorem witness_StackEvents :
    (∀ b ∈ [none, some (List.replicate 64 1)], ({ Stack.reset with lands := [lineLand b] }).lands = [lineLand b]) ∧
    (lineLand none).tick / 2 = (stackAt 0 Pch.reset).cur.relCycle 0 ∧ (lineLand none).cycle = (stackAt 0 Pch.reset).cur.relCycle 0 ∧
    (flight 8).done ≤ (stackAt 8 Pch.reset).tickNow ∧ ¬ (flight 9).done ≤ (stackAt 8 Pch.reset).tickNow ∧
    SMap.get? (bank63 { Bank.reset with mode := .refreshing 8 }).banks 63 = some { Bank.reset with mode := .refreshing 8 } ∧
    (let i : NbIssue := { lg := 3, g0 := 12287, start := 255, tick := 0, word := 0 }
     ({ Pch.reset with queue := [i] }).queue = i :: []) ∧
    (({ Stack.reset with starts := List.replicate 16 1 }).starts.filter fun t => decide (16 < t + 16)).length = 16 ∧
    (({ Stack.reset with starts := List.replicate 16 1 }).starts.filter fun t => decide (17 < t + 16)).length < 16 ∧
    ((stackAt 0 { Pch.reset with cur := some nbRun }).stack.pch 63).cur = some nbRun ∧ ((stackAt 0 Pch.reset).cur.trust.conf = false ∧ (confidential plain0).cur.trust.conf = true) ∧
    (let c := { Pch.reset with units := [(63, { NbUnit.reset with slots := [(0, (12287, 15, List.replicate 64 1))] })] }
     c.commits 7 63 = [(384 * 2 ^ 30 - 64, List.replicate 64 1)]) ∧
    (let e : EngineRun := { endTick := 127, cycle := 0, pch := 63, desc := 4095, out := [(19, 131071, List.replicate 64 1)], fault := some (0x49, 4095) }
     let s := stackAt 0 Pch.reset
     (({ Stack.reset with engines := [e] }).engines.find? fun e => e.cycle == s.cur.relCycle s.unit) = some e) ∧
    (let k := { Bank.reset with debt := -1 }
     ¬ (9 : Int) ≤ k.debt + 9 ∧ (9 : Int) ≤ k.debt + 10) ∧ ¬ 9 ≤ 8 ∧ (9 ≤ 9 ∧ (bank63 open63).banks.length < 64) := by decide +kernel

/-- A service access of core 0. -/
def access (kind : AccessKind) (ea : Word) (pa : Nat) : Access :=
  { id := 1, core := some 0, peer := none, ctx := 0, kind := kind, ea := ea, pa := pa, base := 0, cmp := false, size := 8, width := 3, data := 1,
    data2 := 2, bytes := [], lp := some 0, tag := 0, hub := 0, word := 0, acq := false, arrived := none, after := [], result := none }
/-- A module with an access, one cycle after its issue, and one with a keyed port 23 to module 319. -/
def serving (a : Access) : State := withSys { Sys.reset with hub := 1, accesses := [a] }
def servingPort (a : Access) : State :=
  withSys { (serving a).cur with link := { LinkState.reset with ports := [(23, portTo)] } }
/-- Witness of ServiceArrivalsAndSlots: an access that may arrive, and one too early; each space; a slot with an access to serve, with a
conversion that ends and one that does not; a host request in both modes. -/
theorem witness_ServiceArrivalsAndSlots :
    let a := access .load 0 0
    (serving a).cur.access 1 = some a ∧ a.arrived = none ∧ 2 * a.hub + 2 ≤ (serving a).tickNow ∧ ¬ 2 * a.hub + 2 ≤ (withSys { (serving a).cur with hub := 0 }).tickNow ∧
    (∀ i ∈ a.after, (serving a).cur.access i = none) ∧ (∀ b ∈ (serving a).cur.accesses, ¬ b.id < a.id) ∧ (serving a).cur.access 2 = none ∧
    (servingPort (access .load 0xA027E00000000000 0)).cur.routeTo 319 = some 23 ∧ (withSys { (servingPort a).cur with link := { LinkState.reset with ports := [(23, { portTo with state := .rejoining })] } }).cur.routeTo 319 = some 23 ∧
    (servingPort a).cur.port 23 = portTo ∧ (confidential plain0).cur.trust.conf = true ∧ plain0.cur.trust.conf = false ∧
    (let b := { a with arrived := some 2 }
     b ∈ (serving b).cur.accesses ∧ b.arrived ≠ none ∧ b.result = none ∧ b.ea.toNat / 2 ^ 61 = 0 ∧ inHbm b.pa = true ∧ (placeOf b.pa).stack = 0 ∧
       (placeOf b.pa).pch = 0 ∧ b.cmp = false) ∧
    (inHbm 0 = true ∧ Sys.reset.hasMemory 0 = true ∧ Sys.reset.hasMemory (6 * 2 ^ 50) = false) ∧ ({ Pch.reset with conv := some (1, 536) }).conv = some (1, 536) ∧ (536 ≤ (stackAt 536 Pch.reset).tickNow ∧ ¬ 536 ≤ (stackAt 534 Pch.reset).tickNow) ∧
    Pch.reset.conv = none ∧ (0 + 1 - 1) / 64 - 0 / 64 + 1 = 1 ∧ (63 + 2 - 1) / 64 - 63 / 64 + 1 = 2 := by decide +kernel

/-- Witness of ServiceAccessesPerform: an access of each kind to HBM, to the tier, from the host, and to a compressed page whose unit expands; a
poisoned unit. -/
theorem witness_ServiceAccessesPerform :
    (∀ k ∈ [AccessKind.load, .store, .aadd, .amin, .amax, .aand, .aor, .axor, .axchg, .acas],
      let a := access k 0 (384 * 2 ^ 30 - 8)
      (serving a).cur.access 1 = some a ∧ a.result = none ∧ inTier a.pa = false ∧ inHbm a.pa = true ∧ a.cmp = false ∧ a.size = 8 ∧ a.bytes = []) ∧
    (∃ u ∈ [0], 0 < 64 * u + 64 ∧ 64 * u < 0 + 8) ∧ inTier 0x10000000000 = true ∧ inTier 0x2FFFFFFFFFF = true ∧ inTier 0x30000000000 = false ∧
    ({ access .load 0 0 with result := some (5, 0) }).result = some (5, 0) ∧
    (access .load 0xC000000000000000 0).ea.toNat / 2 ^ 61 = 6 ∧
    (let a := { access .store 0 4096 with cmp := true, arrived := some 2 }
     a.coded = (4288, 0) ∧ a.base % 64 = 0 ∧ { (serving a).cur with poison := [67] }.poisoned (64 * 67) = true ∧ (serving a).cur.poisoned (64 * 67) = false ∧
       a.base + 65536 ≤ 384 * 2 ^ 30 ∧ a.coded.2 + a.size ≤ 4096 ∧ inHbm a.coded.1 = true ∧ inTier a.coded.1 = false ∧
       (4288 < 64 * 67 + 64 ∧ 64 * 67 < 4288 + 4288) ∧ expandBlock (Mem.read (serving a).cur.hbm a.coded.1 0) = none ∧ ((serving a).cur.accesses.filter fun a => a.cmp && a.kind == .store && a.arrived.isSome && a.result.isNone &&
       a.pa / 65536 == 0) = [a]) := by decide +kernel

/-! ### Witnesses: queues and kernels -/

/-- A queue entry: type, object, argument, WAITQ, WAITV and CREC, allowing every variant. -/
def entry (t obj arg wq wv crec : Nat) : Bytes :=
  [BitVec.ofNat 8 t, 0, 0, 0] ++ natLe 4 15 ++ natLe 8 obj ++ natLe 8 arg ++ natLe 2 wq ++ natLe 6 0 ++ natLe 8 wv ++ natLe 8 crec ++ natLe 16 0
/-- A queue whose head is valid and ready, and one whose head is still to be read. -/
def readyQ (e : Bytes) : Queue := { queue0 with state := .waiting, tail := 1, ready := some 0, valid := true, entry := e }
def waitingQ : Queue := { queue0 with state := .waiting, tail := 1 }
/-- A graph of one launch, with eight bytes of parameters. -/
def graph0 : Graph :=
  { ctx := 0, launches := [(9, 15, [])], params := List.replicate 8 0, slot := none, waitList := [0], patch := none, begun := [], bound := false,
    done := [], ended := none }
/-- A module with a queue, a graph 5, and bytes on the context's page; its reserve carries a drain. -/
def queueSys (q : Queue) (page : Bytes) : Sys :=
  let y := kernelSys oneDie Core.reset
  { y with queues := [(0, q)], graphs := [(5, graph0)], hbm := Mem.write [] 0 page, kernels := [],
           power := { PowerState.reset with reserve := 1000000 } }

/-- Witness of QueueHeads: QTAIL at QTAIL and at QHEAD + CAP and past both; entries of every type that are well formed and some that are not;
heads that are due and not; ready heads of each type; a patch staged and none; CREC none, good and bad. -/
theorem witness_QueueHeads :
    let y := queueSys waitingQ (entry 4 0 0 0xFFFF 0 0)
    y.queue 0 = some waitingQ ∧ (waitingQ.tail ≤ 1 ∧ 4 ≤ waitingQ.head + waitingQ.cap) ∧ waitingQ.head + waitingQ.cap < 5 ∧ 0 < waitingQ.tail ∧
    y.trust.conf = false ∧ waitingQ.head < waitingQ.tail ∧ waitingQ.valid = false ∧ y.ringEntry 0 0 waitingQ = entry 4 0 0 0xFFFF 0 0 ∧
    (let good := fun (e : Bytes) => fieldLe e 2 2 == 0 && fieldLe e 26 6 == 0 && fieldLe e 56 8 == 0 && fieldLe e 1 1 ≤ 7 && 1 ≤ fieldLe e 4 4 &&
       fieldLe e 4 4 ≤ 15 && (fieldLe e 24 2 == 0xFFFF || (fieldLe e 24 2 < 16 && (y.queue (fieldLe e 24 2)).isSome)) &&
       (fieldLe e 40 8 == 0 || y.crecOk 0 (fieldLe e 40 8))
     (∀ t ∈ [1, 2, 3, 4], good (entry t 0 0 0xFFFF 0 0) = true) ∧ good (entry 4 0 0 0 0 64) = true ∧ good (entry 4 0 0 1 0 0) = false ∧
       good (entry 4 0 0 0xFFFF 0 4096) = false) ∧
    (SMap.get? y.objs 9).isSome = true ∧ SMap.get? y.graphs 5 = some graph0 ∧ y.crecOk 0 4032 = true ∧ y.crecOk 0 4096 = false ∧
    (readyQ (entry 4 0 0 0 0 0)).ready ≠ none ∧ fieldLe (entry 4 0 0 0 1 0) 32 8 ≤ 1 ∧ ¬ fieldLe (entry 4 0 0 0 1 0) 32 8 ≤ 0 ∧
    (fieldLe (entry 2 5 0 0xFFFF 0 0) 0 1 = 2 ∧ fieldLe (entry 2 5 0 0xFFFF 0 0) 8 8 = 5 ∧ fieldLe (entry 2 5 0 0xFFFF 0 0) 24 2 = 0xFFFF) ∧
    graph0.slot = none ∧ graph0.waitList = 0 :: [] ∧ graph0.patch = none ∧
    y.readPatch 0 0 graph0 = none ∧ ((queueSys waitingQ (natLe 16 1 ++ natLe 8 0 ++ natLe 8 7)).readPatch 0 0 graph0).isSome = true := by decide +kernel

/-- Witness of PatchLimitsAndSignals: a patch of one record at the last eight bytes, and one past them; a signal whose accesses have performed and
one whose have not; a completed kernel with a successor, with room in the queue and without. -/
theorem witness_PatchLimitsAndSignals :
    let bs := natLe 16 1 ++ natLe 8 0 ++ natLe 8 7
    (queueSys waitingQ bs).readPatch 0 0 graph0 = some bs ∧ (queueSys waitingQ (natLe 16 1 ++ natLe 8 8 ++ natLe 8 7)).readPatch 0 0 graph0 = none ∧
    fieldLe bs 0 4 = 1 ∧ fieldLe bs 16 8 + 8 ≤ graph0.params.length ∧
    (let q : Queue := { queue0 with raises := [{ kernel := 1, word := 15, value := 5, after := [1] }] }
     (q.raises = [{ kernel := 1, word := 15, value := 5, after := [1] }] ∧ (serving (access .store 0 0)).cur.performed 1 = false ∧ (serving (access .store 0 0)).cur.performed 2 = true) ∧
       ∀ r ∈ q.raises, (r.kernel ≠ 1 ∨ r.word ≠ 14) ∧ (r.kernel ≠ 2 ∨ r.word ≠ 15)) ∧
    (let x := { oneDie with state := .completed, succ := [(0, entry 4 0 0 0xFFFF 0 0)] }
     (kernelSys x Core.reset).kern 1 = some x ∧ queue0.tail < queue0.head + queue0.cap ∧ { queue0 with tail := 4 }.head + queue0.cap ≤ 4) := by
  decide +kernel

/-- A launch entry's offer. -/
def offer0 : Offer := { qi := 0, launch := none, back := none, obj := 9, arg := 0, varmask := 15 }
/-- A module that offers one launch. -/
def offering (vars : Nat) : Sys := queueSys (readyQ (entry 1 9 0 0xFFFF 0 0 |>.set 4 (BitVec.ofNat 8 vars))) []
/-- A section of a tile task of core 0 of cluster 0, as one index, and a timeline of one word for a logical stack. -/
def tileSection : Section := { type := 7, u0 := 0, u1 := 0, u2 := 0, u3 := 0, data := [0, 0] }
def timelineSection (k : Nat) : Section := { type := 10, u0 := k, u1 := 0, u2 := 0, u3 := 0, data := natLe 8 1 ++ natLe 8 0 ++ natLe 8 0 }
/-- A kernel in binding with a tile task and a timeline. -/
def binding : Sys :=
  let x := { oneDie with state := .binding }
  let y := { kernelSys x Core.reset with objs := [(9, { ctx := 0, saves := [0], file := [], sections := objOf 2 ++ [tileSection, timelineSection 0] })] }
  y.setCore 0 Core.reset
/-- Witness of LaunchAdmission: an offer that is admitted, one with no present variant, one that must wait for the reserve, and one with none that
fits; a region that cannot be placed; a kernel in binding with a tile task and a timeline. -/
theorem witness_LaunchAdmission :
    let y := offering 15
    (∀ x ∈ y.kernels, x.2.state ≠ .binding) ∧ y.admissionOpen = true ∧ y.offers = [offer0] ∧ (SMap.get? y.objs 9).isSome = true ∧
    State.reset.cur.offers = [] ∧
    (diesOfMask ((masksOf (objOf 2)).getD 3 0) = [3] ∧ y.diePresent 3 = true) ∧
    { Sys.reset with failed := 1 }.diePresent 0 = false ∧ { Sys.reset with trust := { TrustState.reset with form := 1 } }.diePresent 1 = false ∧
    regionsOf (objOf 2) = [] ∧ isLead (objOf 2) = false ∧ ranksOf (objOf 2) [0] = [] ∧ ranksOf (objOf 2 ++ [tileSection]) [0] = [0] ∧
    ({ Cluster.reset with owner := some 1 }).owner ≠ none ∧
    y.tlbBusy = false ∧ { y with invals := [{ no := 0, ranges := [], acks := [0], waits := [] }] }.tlbBusy = true ∧
    y.envelope 0 (objOf 2) true = true ∧ { y with power := PowerState.reset }.envelope 0 (objOf 2) true = false ∧
    (let k : KObj := { ctx := 0, saves := [0], file := [], sections := objOf 2 }
     (y.areaFor 9 0 k).isSome = true) ∧
    (y.pinRegions 0 0 [0] (objOf 2)).toOption.isSome = true ∧
    (let r : Section := { type := 3, u0 := 0, u1 := 0, u2 := 0, u3 := 0, data := natLe 8 1 ++ natLe 8 4096 ++ natLe 16 0 }
     (y.pinRegions 0 0 [0] (objOf 2 ++ [r])).toOption.isSome = false) ∧
    (binding.kernels.find? fun x => x.2.state == .binding && !SMap.has binding.saved x.1 && binding.equal x.2.dies).map (·.1) = some 1 ∧
    clustersIn (objOf 2 ++ [tileSection]) 0 = [0] ∧ sectionData (objOf 2 ++ [tileSection]) 7 0 0 0 = some [0, 0] ∧
    (sectionData (objOf 2 ++ [timelineSection 0]) 10 0 0 0).isSome = true ∧ ([0] : List Nat).Nodup := by decide +kernel

/-- A core whose work is finished. -/
def halted : Core := { Core.reset with task := .halted }
/-- Witness of KernelStartAndCompletion: a bound kernel whose stacks are free, and one with a stack still held; a kernel that is complete, and one
whose core still runs; an unfinished head. -/
theorem witness_KernelStartAndCompletion :
    (let x := { oneDie with state := .bound }
     let y := kernelSys x { Core.reset with task := .bound }
     y.kern 1 = some x ∧ y.stacksOf 1 = [] ∧ (∀ c ∈ y.coresOf 1, (y.core c).abandoned = false) ∧ y.link.announces = [] ∧ y.coresOf 1 = [0] ∧
       (∀ k ∈ ({ y with stks := [(0, { Stack.reset with kernel := some 1 })] }).stacksOf 1,
         (({ y with stks := [(0, { Stack.reset with kernel := some 1 })] }).stk k).driver = .idle) ∧
       (∃ k ∈ ({ y with stks := [(0, { Stack.reset with kernel := some 1, driver := .hold })] }).stacksOf 1,
         (({ y with stks := [(0, { Stack.reset with kernel := some 1, driver := .hold })] }).stk k).driver = .hold) ∧
       y.link.rejoining = false ∧ ({ y with link := { y.link with ports := [(23, { Port.reset with state := .rejoining, joins := [1] })] } } : Sys).link.rejoining = true ∧
       open63.opened = true ∧ since 92 92 (some 0) = true ∧ since 91 92 (some 0) = false) ∧
    (let y := { kernelSys oneDie halted with queues := [(0, readyQ (entry 1 9 0 0xFFFF 0 0))] }
     y.kern 1 = some oneDie ∧ y.complete 1 oneDie = true ∧ oneDie.launch = none ∧ (y.queue 0).isSome = true) ∧
    (kernelSys oneDie { Core.reset with task := .running }).complete 1 oneDie = false := by decide +kernel

/-- In a module whose memory one frame takes throughout a search finds none. -/
theorem findFree_none (y : Sys) (f : Frame) (hi size : Nat) (hf : y.frames = [(0, f)]) (h0 : 0 < size) (hs : hi + size ≤ f.size) (hr : y.retired = [])
    (hg : y.retiring = []) (pa fuel : Nat) : y.findFree size hi (fun _ => true) pa (fuel + 2) = none := by
  rw [Sys.findFree]
  split
  · rfl
  · rename_i h
    have h4 : y.offline pa = false := by simp [Sys.offline, hr, hg]
    have h1 : (y.frames.find? fun f => f.1 < pa + size && pa < f.1 + f.2.size) = some (0, f) := by
      rw [hf]; simp; omega
    rw [h4, h1]
    have h3 : hi < (0 + f.size + size - 1) / size * size + size :=
      Nat.lt_of_le_of_lt (by omega) (Nat.lt_div_mul_add (a := 0 + f.size + size - 1) h0)
    simp only [Bool.not_true, Bool.or_self, Bool.false_eq_true, if_false]
    rw [Sys.findFree, if_pos h3]

/-- Such a module has no free frame, whatever firmware chooses. -/
theorem freeFrame_none (y : Sys) (f : Frame) (n : Nat) (hf : y.frames = [(0, f)]) (hs : f.size = 2 ^ 41) (hr : y.retired = [])
    (hg : y.retiring = []) (hp : y.present.length ≤ 4) : y.freeFrame (2 ^ 21) none n = none := by
  have hi : 2 * y.present.length * stackBytes + 2 ^ 21 ≤ f.size := by rw [hs]; simp only [stackBytes]; omega
  have key : ∀ pa m, 2 ≤ m → y.findFree (2 ^ 21) (2 * y.present.length * stackBytes) (fun _ => true) pa m = none := by
    intro pa m hm
    obtain ⟨j, rfl⟩ := Nat.exists_eq_add_of_le' hm
    exact findFree_none y f _ _ hf (Nat.two_pow_pos 21) hi hr hg pa j
  have h8 : 2 ≤ 8192 + 2 * y.frames.length := Nat.le_add_right_of_le (by decide)
  unfold Sys.freeFrame
  simp only [key _ _ h8]

/-- Then no save area can be allocated for an object whose own are in use. -/
theorem areaFor_none (y : Sys) (f : Frame) (h n : Nat) (k : KObj) (hf : y.frames = [(0, f)]) (hs : f.size = 2 ^ 41) (hr : y.retired = [])
    (hg : y.retiring = []) (hp : y.present.length ≤ 4) (h1 : savePages k.sections = 1)
    (hu : (k.saves.find? fun a => !y.kernels.any fun x => x.2.obj == h && x.2.save == a && x.2.keepsArea) = none) : y.areaFor h n k = none := by
  have hn : ∀ va, y.ownPages k.ctx va (n + 1) 1 = none := by
    intro va
    rw [Sys.ownPages, show List.range 1 = [0] from rfl, List.foldlM_cons, Sys.ownPage, freeFrame_none y f _ hf hs hr hg hp]
    rfl
  unfold Sys.areaFor
  rw [hu]
  simp only [Sys.newArea, h1]
  cases y.freeVa k.ctx (1 * 2 ^ 21) (Config.pick n % 2 ^ 33 * 2 ^ 21) (2 * (y.ctx k.ctx).pages.length + 2) with
  | none => rfl
  | some va => simp only [Option.bind_eq_bind, Option.bind_some, hn]; rfl

/-- Witness of LaunchAdmission's case of a launch for which no save area can be allocated: its object's is in use, and memory is full. -/
theorem witness_LaunchAdmission_area :
    let f : Frame := { size := 2 ^ 41, owner := 0, refc := 1, state := .mapped, handle := 0, code := 0 }
    let y : Sys := { offering 15 with kernels := [(2, oneDie)], frames := [(0, f)] }
    (∀ x ∈ y.kernels, x.2.state ≠ .binding) ∧ y.admissionOpen = true ∧ y.offers = [offer0] ∧ y.tlbBusy = false ∧ y.envelope 0 (objOf 2) true = true ∧
    y.areaFor 9 0 { ctx := 0, saves := [0], file := [], sections := objOf 2 } = none := by
  exact ⟨by decide +kernel, by decide +kernel, by decide +kernel, by decide +kernel, by decide +kernel,
    areaFor_none _ _ _ _ _ rfl rfl rfl rfl (by decide +kernel) (by decide +kernel) (by decide +kernel)⟩

/-- A core whose next bundle is a HOLD.OUT, with OUTST at a value. -/
def holder (t : TaskState) (n : Word) : Core := { Core.reset with task := t, index := [(0, 1)], csr := { Csrs.reset with outst := n } }
/-- A module with a kernel whose die is in cycle `now`, and whose core 0 is a holder. -/
def holdSys (x : Kernel) (t : TaskState) (n : Word) (now : Nat) : Sys :=
  ((kernelSys x (holder t n)).setDie 0 { Die.reset with gnomon := now }).setCluster 0
    { Cluster.reset with dict := [(1, bundleOf ((encodeWord .holdOut).toList))] }
/-- A held kernel that waits at its first step point. -/
def heldKernel : Kernel :=
  { oneDie with state := .held, holds := { Holds.none with step := some 0, waiting := true, since := [(0, 0)] } }
/-- A stack of a kernel that a driver drives, past a seam or not. -/
def stackOf (d : Driver) (n : Option Nat) : Stack := { Stack.reset with kernel := some 1, driver := d, seam := n, prog := [0], pos := 0 }

/-- Witness of StepPointsAndHolds: a kernel at a step point and between two; a HOLD that is satisfied and one that waits; a seam check that holds
and one that fails; a halt due; a held kernel that may go on, with its release due or not, a lead and a follower; a wait of HOLDLIM and less; a
duty hold; an operating point with and without running dies. -/
theorem witness_StepPointsAndHolds :
    (let y := holdSys oneDie .running 0 64
     y.kern 1 = some oneDie ∧ oneDie.state = .running ∧ y.haltDue 1 oneDie = false ∧ stepAt (y.sections oneDie) (y.kernelNow oneDie - oneDie.start) = some 0 ∧
       stepAt (y.sections oneDie) 65 = none ∧ oneDie.holds.shed = false ∧ (y.waits 1 = [(0, .out)] ∧ y.satisfied oneDie (0, .out) = true) ∧
       y.seamFails 1 oneDie 0 = none ∧ (if oneDie.readyAt = 64 then 0 else y.dutyTicks 1 oneDie 0) = 0 ∧ (∀ o ∈ oneDie.ops, o.op ≠ 4)) ∧
    (let y := holdSys oneDie .running 1 64
     y.satisfied oneDie (0, .out) = false ∧ (y.setStk 1 (stackOf .compiled (some 9))).seamFails 1 oneDie 0 = some 1) ∧
    (kernelSys oneDie Core.reset).waits 1 = [] ∧
    (let h : Hibernation := { w := 0, since := 0, step := 1, reason := 1, chosen := [(1, false, 64)], request := none, drained := 0, slot := 0, serial := 0 }
     { holdSys oneDie .running 0 64 with power := { PowerState.reset with hib := some h } }.haltDue 1 oneDie = true) ∧
    (let y := holdSys heldKernel .held 0 64
     heldKernel.state = .held ∧ heldKernel.holds.duty = none ∧ heldKernel.saving = none ∧ (∀ v ∈ y.waits 1, y.satisfied heldKernel v = true) ∧
       y.stacksOf 1 = [] ∧ (y.setStk 0 (stackOf .hold none)).stacksOf 1 = [0] ∧ (stackOf .selfRefresh none).driver = .selfRefresh ∧
       (∀ c ∈ y.coresOf 1, (y.core c).abandoned = false) ∧
       (64 - (heldKernel.start + stepCycle (y.sections heldKernel) 0)) % 4096 = 0 ∧ (65 - (heldKernel.start + stepCycle (y.sections heldKernel) 0)) % 4096 ≠ 0 ∧
       { heldKernel with lead := false }.lead = false) ∧
    (let x := { oneDie with lead := false, holds := { Holds.none with shed := true } }
     let y := holdSys x .running 1 64
     y.kern 1 = some x ∧ x.state = .running ∧ y.haltDue 1 x = false ∧ stepAt (y.sections x) (y.kernelNow x - x.start) = some 0 ∧ y.seamFails 1 x 0 = none ∧
       x.lead = false ∧ (∀ o ∈ x.ops, o.op ≠ 4) ∧ ((holdSys x .running 1 64).setStk 1 (stackOf .compiled (some 9))).seamFails 1 x 0 ≠ none) ∧
    (let y := { holdSys heldKernel .held 1 64 with wallc := 100 }
     y.unsatisfied 1 heldKernel = [(0, .out)] ∧ SMap.getD heldKernel.holds.since 0 100 + 100 * holdlimOf (y.sections heldKernel) ≤ 100 ∧
       ¬ SMap.getD heldKernel.holds.since 0 99 + 100 * holdlimOf (y.sections heldKernel) ≤ 99) ∧
    ({ Holds.none with duty := some 5 }).duty = some 5 ∧ (∃ d ∈ oneDie.dies, d < 4 ∧ (Sys.reset.die d).run = .running) ∧
    (∀ x ∈ (sysCore Core.reset).kernels, x.2.lead = false) ∧ (∀ c ∈ (sysCore Core.reset).cores, c.2.abandoned = false ∧ c.2.mx.prior = [] ∧ c.2.mx.seq.pair = none) := by
  decide +kernel

/-- A report of core 0 for a bundle's fault, in word `w`. -/
def report (w : Nat) : Report :=
  { rank := 1, late := false, die := 0, cluster := 0, core := 0, word := w, cause := 0x33, detail := [0, 0, 0], pos := none, kernel := some 1 }
/-- Witness of TakingAnException: a cycle that ends with one fault of a running kernel, and with two of which the lower word counts first; a TRAP
that is due. -/
theorem witness_TakingAnException :
    let y := kernelSys oneDie { Core.reset with task := .running }
    let s := { withSys y with phase := 18 }
    s.cur.power.powered = true ∧ s.issue.active = false ∧ s.todo = [] ∧
    (cycleFaults { s with faults := [report 3] }).filter (fun r => !r.late) = [report 3] ∧
    (cycleFaults { s with faults := [report 3, report 2] }).filter (fun r => !r.late) = [report 3, report 2] ∧
    ((report 2).rank = 1 ∧ (report 3).rank = 1 ∧ (report 2).die = (report 3).die ∧ (report 2).cluster = (report 3).cluster ∧
      (report 2).core = (report 3).core ∧ (report 2).word < (report 3).word) ∧
    s.old.kern 1 = some oneDie ∧ oneDie.state = .running ∧ (report 3).kernel = some 1 ∧ (report 3).die ∈ oneDie.dies ∧ (∀ d ∈ oneDie.dies, d < 4) ∧
    (let r := { report 3 with late := true, cause := 0 }
     r.late = true ∧ r.rank = 1 ∧ r.cause = 0 ∧ r.kernel = some 1) := by decide +kernel

/-- A stopped kernel, with a report of cause 0x30 at address 8. -/
def stoppedBy (c : Nat) : Kernel :=
  let r := { report 0 with cause := c, detail := [8, 0, 0] }
  { oneDie with state := .stopped, stop := some { kind := .fault, boundary := 0, hub := 0, inval := none, report := some r, more := false, collateral := false } }
/-- Witness of StopsAndPreemption: a kernel that is active and one that is not; a boundary that is now, 8 cycles ahead, 9 ahead and past; a fault
that firmware resolves and one that it does not; a save at its limit and before it, with one access out. -/
theorem witness_StopsAndPreemption :
    (let y := kernelSys oneDie { Core.reset with task := .running }
     y.kern 1 = some oneDie ∧ oneDie.state = .running ∧ heldKernel.state = .held ∧ (stoppedBy 0x33).state = .stopped ∧ y.kernelNow oneDie = 0 ∧
       (0 < 8 ∧ 8 ≤ 0 + 8) ∧ 0 + 8 < 9 ∧ oneDie.saving = none) ∧
    (let y := kernelSys (stoppedBy 0x30) Core.reset
     y.pageAt 0 8 = some (pageWith 4) ∧ y.power.hib = none ∧ y.power.shed = false ∧ y.invalidating 0 (pageWith 4) = false ∧ y.pageReqs = [] ∧
       (withSys y).faultQueued 0 = false ∧ y.faultWaits 1 = true ∧ (∀ t ∈ (stoppedBy 0x30).stop, t.inval = none) ∧
       (∀ r ∈ (stoppedBy 0x30).stop.bind (·.report), r.detail.getD 2 0 = 0 ∧ (y.resolveFault 0 0 r).map (·.2) = some [] ∧ y.copyRanges 0 r = []) ∧
       (∀ r ∈ (stoppedBy 0x33).stop.bind (·.report), y.resolveFault 0 0 r = none)) ∧
    (let x := { stoppedBy 0x33 with saving := some 0 }
     let a := access .load 0 0
     let y := { kernelSys x { Core.reset with csr := { Csrs.reset with outst := 1 } } with
       wallc := 10000, accesses := [a], power := { PowerState.reset with shed := true } }
     x.saving = some 0 ∧ y.power.shed = true ∧ 0 + 10000 ≤ y.wallc.toNat ∧ (∃ c ∈ y.coresOf 1, (y.core c).csr.outst ≠ 0) ∧
       (y.accesses.filter fun a => a.core.any fun c => (y.core c).kernel == some 1) = [a] ∧ a.lp = some 0 ∧ y.pageReqs = [] ∧
       y.link.transfers = [] ∧ y.link.rejoins = [] ∧ (y.core 0).wrote = [] ∧ (9999 : Word).toNat < 0 + 10000) := by decide +kernel

/-- In a module with one frame, at the lowest addresses, a search finds the place after it. -/
theorem findFree_after (y : Sys) (f : Frame) (hi size : Nat) (hf : y.frames = [(0, f)]) (hz : f.size = size) (h0 : 0 < size) (hs : size + size ≤ hi)
    (hr : y.retired = []) (hg : y.retiring = []) (fuel : Nat) : y.findFree size hi (fun _ => true) 0 (fuel + 2) = some size := by
  have h4 : ∀ pa, y.offline pa = false := fun pa => by simp [Sys.offline, hr, hg]
  have h1 : (y.frames.find? fun f => f.1 < 0 + size && 0 < f.1 + f.2.size) = some (0, f) := by rw [hf]; simp; omega
  have h2 : (y.frames.find? fun f => f.1 < size + size && size < f.1 + f.2.size) = none := by rw [hf]; simp; omega
  have h3 : (0 + f.size + size - 1) / size * size = size := by
    rw [hz, show 0 + size + size - 1 = size * 1 + (size - 1) by omega, Nat.mul_add_div h0, Nat.div_eq_of_lt (by omega), Nat.add_zero, Nat.one_mul]
  rw [Sys.findFree, if_neg (by omega), h4, h1]
  simp only [Bool.not_true, Bool.or_self, Bool.false_eq_true, if_false, h3]
  rw [Sys.findFree, if_neg (by omega), h4, h2]
  simp
/-- A kernel that wrote to a page shared with another, and its module: the page's frame has two references. -/
def writer : Kernel := stoppedBy 0x31
def sharedPage : Sys :=
  { kernelSys writer Core.reset with
    ctxs := [(0, onePage 0x40)], accesses := [access .load 8 8],
    frames := [(0, { size := 4096, owner := 0, refc := 2, state := .mapped, handle := 0, code := 0x40 })] }
/-- Where every pseudo-channel of every stack is in the part of its period for memory work, work may fall on any run of memory. -/
theorem worksOn_all (y : Sys) (hs : y.stks = []) (h : ∀ p < 64, Stack.reset.works p (2 * y.hub) = true) (pa n : Nat) : y.worksOn pa n = true := by
  have hw : ∀ a, (y.stk (placeOf a).stack).works (placeOf a).pch (2 * y.hub) = true := fun a => by
    rw [Sys.stk, hs]
    exact h _ (Nat.mod_lt _ (by decide))
  rw [Sys.worksOn, Bool.or_eq_true]
  exact .inr (List.all_eq_true.2 fun i _ => hw _)
/-- Witness of StopsAndPreemption's case of a page to be copied: its translations are dropped first; an invalidation that has ended and two that
have not; and memory work that may fall once it has, whatever frame firmware chooses, and at the start of a period may not. -/
theorem witness_StopsAndPreemption_copy (n : Nat) : ∀ r ∈ writer.stop.bind (·.report),
    (∃ z l, sharedPage.resolveFault 0 n r = some (z, l) ∧ l ≠ [] ∧ (∀ m ∈ l, { sharedPage with hub := 1000 }.worksOn m.1 m.2 = true)) ∧
    sharedPage.copyRanges 0 r = [(0, 0, 4096)] ∧
    (let i : Inval := { no := 3, ranges := [(0, 0, 4096)], acks := [], waits := [2] }
     ([i].find? fun w => w.no == 3) = some i ∧ sharedPage.performed 2 = true ∧ sharedPage.performed 1 = false ∧ ¬ ({ i with acks := [3] } : Inval).acks = []) ∧
    sharedPage.kern 1 = some writer ∧ sharedPage.pageAt 0 8 = some (pageWith 0x40) ∧ sharedPage.worksOn 0 4096 = false := by
  intro r hr
  obtain rfl : r = { report 0 with cause := 0x31, detail := [8, 0, 0] } := by simpa [writer, stoppedBy] using hr.symm
  refine ⟨?_, by decide +kernel, by decide +kernel, by decide +kernel, by decide +kernel, by decide +kernel⟩
  have h : (sharedPage.frameFor 4 n).isSome = true := by
    have hd : ∀ m, 2 ≤ m → sharedPage.findFree (pageSize 4) (2 * sharedPage.present.length * stackBytes) (fun _ => true) 0 m = some (pageSize 4) := by
      intro m hm
      obtain ⟨j, rfl⟩ := Nat.exists_eq_add_of_le' hm
      exact findFree_after sharedPage { size := 4096, owner := 0, refc := 2, state := .mapped, handle := 0, code := 0x40 } _ _ rfl
        (by decide +kernel) (by decide +kernel) (by decide +kernel) rfl rfl j
    unfold Sys.frameFor Sys.freeFrame
    rw [if_pos (by decide +kernel)]
    simp only [hd _ (Nat.le_add_right_of_le (show 2 ≤ 8192 by decide))]
    split <;> rfl
  unfold Sys.resolveFault
  rw [show sharedPage.pageAt 0 (Report.address _) = some (pageWith 0x40) from by decide +kernel]
  obtain ⟨f, hf⟩ := Option.isSome_iff_exists.mp h
  rw [if_neg (by decide +kernel)]
  simp only []
  rw [if_neg (by decide +kernel), if_neg (by decide +kernel), if_pos (by decide +kernel), if_neg (by decide +kernel)]
  rw [show (pageWith 0x40).code &&& 0xFFBF ||| 4 = 4 from by decide +kernel, hf]
  exact ⟨_, _, rfl, by simp, fun m _ => worksOn_all _ rfl (by decide +kernel) _ _⟩

/-- Where no core that a module lists has an abandoned routine, none has. -/
theorem none_abandoned (y : Sys) (h : ∀ c ∈ y.cores, c.2.abandoned = false) (n : Nat) : (y.core n).abandoned = false := by
  have key : ∀ (l : SMap Core), (∀ c ∈ l, c.2.abandoned = false) → (SMap.getD l n Core.reset).abandoned = false := by
    intro l
    induction l with
    | nil => intro _; rfl
    | cons a l ih =>
      intro h
      obtain ⟨j, k⟩ := a
      by_cases hj : j = n
      · simpa [SMap.getD, SMap.get?, hj] using h (j, k) (List.mem_cons_self ..)
      · simpa [SMap.getD, SMap.get?, hj] using ih fun c hc => h c (List.mem_cons_of_mem _ hc)
  exact key y.cores h
/-- A core as it was saved. -/
def savedCore : Core := { Core.reset with kernel := some 1, task := .stopped }
/-- The records of a save of core 0. -/
def savedAt (n : Nat) : Saved :=
  { step := none, stepno := 0, boundary := n, valid := true, lost := false, mc := false, pairOpen := false, stop := none, retained := [],
    cores := [(0, savedCore)], clusters := [], stackRecs := [] }
/-- A module with a saved kernel that admission takes back. -/
def restoring (x : Kernel) : Sys :=
  let y := kernelSys x Core.reset
  { y.setCore 0 Core.reset with saved := [(1, savedAt 0)], queues := [(0, readyQ (entry 1 9 0 0xFFFF 0 0) |> fun q => { q with state := .running })],
                                power := { PowerState.reset with reserve := 1000000 } }
/-- Witness of SavesAndReturns: a save with its stores quiet, of a kernel stopped by a fault and of one held; a saved kernel that admission takes
back, and its binding; a resume that may not be, that marks, and that runs. -/
theorem witness_SavesAndReturns :
    (let x := { stoppedBy 0x33 with saving := some 0 }
     let y := kernelSys x { Core.reset with task := .stopped }
     y.kern 1 = some x ∧ x.saving ≠ none ∧ (∀ c ∈ y.coresOf 1, (y.core c).csr.outst = 0) ∧ y.stacksOf 1 = [] ∧ y.coresOf 1 = [0] ∧
       (∀ c ∈ y.cores, c.2.abandoned = false) ∧ y.power.hib = none ∧ y.power.shed = false) ∧
    ({ heldKernel with saving := some 0 }).stop = none ∧
    (let x := { oneDie with state := .saved }
     let y := restoring x
     y.kern 1 = some x ∧ SMap.get? y.saved 1 = some (savedAt 0) ∧ y.admissionOpen = true ∧ y.link.ports = [] ∧
       y.firstAction false y.offers = some ({ offer0 with back := some 1 }, .grant 0)) ∧
    (let x := { oneDie with state := .binding }
     let y := restoring x
     (∀ d ∈ x.dies, (y.die d).gnomon = (y.die (x.dies.headD 0)).gnomon ∧ (y.die d).run = .running) ∧ x.dies.Nodup ∧ (savedAt 0).step = none ∧
       y.tlbBusy = false) ∧
    (let t : Stop := { kind := .fault, boundary := 0, hub := 0, inval := none, report := none, more := false, collateral := true }
     let x := { oneDie with state := .stopped, stop := some t }
     let y := (kernelSys x { Core.reset with task := .stopped }).setDie 0 { Die.reset with run := .stopped }
     y.kern 1 = some x ∧ x.state = .stopped ∧ x.saving = none ∧ x.stop = some t ∧ t.collateral = true ∧ y.reach x.dies = [0] ∧
       x.holds.due = false ∧ (∃ d ∈ x.dies, d < 4) ∧ (∀ n ∈ y.stacksOf 1, (y.stk n).driver ≠ .hold)) ∧
    (stoppedBy 0x33).stop.map (·.collateral) = some false := by decide +kernel

/-- A module whose kernel's save area holds bytes, in a page of 64 MiB. -/
def withArea (x : Kernel) (m : Mem) : Sys := { restoring x with ctxs := [(0, onePage 7)], hbm := m }
/-- The save area of core 0: the fields of its header that are not zero, and the first bytes of its record. -/
def areaMem : Mem :=
  [(0, 0x41), (1, 0x53), (2, 0x39), (3, 0x4E), (4, 1), (6, 2), (0xC, 1)] ++ raised 4096 (headPiece 0 (partnerOf (savedAt 0) (0, savedCore)) savedCore).mem
/-- Witness of SavesAndReturns' cases of the area: a header that may be restored, one whose VERSION is wrong, one that is not valid, and a
record that stands as it was saved. -/
theorem witness_SavesAndReturns_area :
    (let x := { oneDie with state := .saved }
     let y := withArea x areaMem
     y.kern 1 = some x ∧ SMap.get? y.saved 1 = some (savedAt 0) ∧ (areaNat (y.areaOf x 4096) 0xC 4).testBit 0 = true ∧
       areaOk (y.areaOf x 4096) = true ∧ y.admissionOpen = true ∧ y.link.ports = [] ∧
       y.firstAction false y.offers = some ({ offer0 with back := some 1 }, .grant 0) ∧
       areaOk ((withArea x [(0xC, 1)]).areaOf x 4096) = false ∧ (areaNat ((withArea x [(0xC, 1)]).areaOf x 4096) 0xC 4).testBit 0 = true ∧
       (areaNat ((withArea x []).areaOf x 4096) 0xC 4).testBit 0 = false) ∧
    (let x := { oneDie with state := .binding }
     let y := { withArea x areaMem with objs := [(9, { ctx := 0, saves := [0], file := [], sections := objOf 2 ++ [tileSection] })] }
     let a := y.areaOf x (saveNeed (y.sections x))
     let k := savedCore
     (∀ d ∈ x.dies, (y.die d).gnomon = (y.die (x.dies.headD 0)).gnomon ∧ (y.die d).run = .running) ∧ x.dies.Nodup ∧
       x.dies[0]? = some 0 ∧ 0 ∈ clustersIn (y.sections x) 0 ∧ (savedAt 0).cores[0]? = some (0, k) ∧ areaNat a 6 2 = 2 ∧
       0 ∉ (savedAt 0).retained ∧ (headPiece 0 (partnerOf (savedAt 0) (0, k)) k).stands a 4096 = true ∧
       ∀ p ∈ fullPieces 0 k, p.off = 0x40000 → p.stands a 4096 = true) := by decide +kernel

/-- A page request of core 0. -/
def pageReq (op : Nat) (b : Bytes) : PageReq :=
  { hub := 0, req := none, core := 0, ctx := 0, op := op, block := b, lp := 0, tag := 0, ranges := [], acks := [], waits := [], dropped := 0, started := false }
/-- A frame of 4 KiB in a state. -/
def frame (st : PageState) : Frame := { size := 4096, owner := 0, refc := 1, state := st, handle := 7, code := 4 }
/-- A second module of the same page: with a request, a frame, a layer group in use or being retired, and its stacks' form. -/
def requesting (r : PageReq) : Sys := { paged 4 Core.reset with pageReqs := [r] }
/-- Witness of PageEvents: requests of each operation, before, while and after their invalidation, to a page that is there, of each state, and to none; a
locked page; dies that have answered or not; a request begun in a power-fail sequence, and one behind a fault. -/
theorem witness_PageEvents :
    let y := paged 4 Core.reset
    let begun := fun (r : PageReq) => { r with started := true }
    let r3 := pageReq 3 (pageBlock 0 0 4096 0)
    Sys.reset.pageReqs = [] ∧ y.pageAt 0 0 = some (pageWith 4) ∧ y.pageAt 0 4096 = none ∧ (pageWith 4).state = .mapped ∧
    (∀ st ∈ [PageState.retired, .releasing, .shared], ({ pageWith 4 with state := st } : Page).state = st) ∧
    (∃ p ∈ y.pageAt 0 8, p.va ≠ 8) ∧ y.lockedIn 0 0 4096 = false ∧
    (∃ d ∈ y.dies, ∃ e ∈ d.2.tlb, ({ e with locked := 1 } : TlbEntry).locked ≠ 0 ∧ e.ctx = 0 ∧ e.va < 0 + 4096 ∧ 0 < e.va + pageSize e.code) ∧
    (∀ op ∈ [3, 4, 5, 6], let x := requesting (pageReq op (pageBlock 0 0 0 0))
      x.pageReqs = pageReq op (pageBlock 0 0 0 0) :: [] ∧ x.power.hib = none ∧ x.faultWaits 0 = false ∧ (pageReq op []).started = false ∧ (pageReq op []).req = none) ∧
    (let x := kernelSys (stoppedBy 0x30) Core.reset
     x.faultWaits 1 = true) ∧
    (let h : Hibernation := { w := 0, since := 0, step := 1, reason := 1, chosen := [], request := none, drained := 0, slot := 0, serial := 0 }
     ({ PowerState.reset with hib := some h }).hib ≠ none) ∧
    (let r := { begun r3 with acks := [3], ranges := [(0, 0, 4096)] }
     r.started = true ∧ 3 ∈ r.acks ∧ 2 ∉ r.acks ∧ ¬ r.acks = []) ∧
    (let b := access .load 8 8
     let x := { requesting { begun r3 with acks := [0], ranges := [(0, 0, 4096)] } with accesses := [b] }
     b ∈ x.accesses ∧ b.result = none ∧ b.ctx = 0 ∧ b.ea.toNat / 2 ^ 61 = 0 ∧ b.core = some 0 ∧ 0 / 160 = 0 ∧
       ∃ e ∈ (x.die 0).tlb, (e.ctx == 0 && decide (e.va < 0 + 4096) && decide (0 < e.va + pageSize e.code)) = true ∧ e.va ≤ b.ea.toNat % 2 ^ 54 ∧
         b.ea.toNat % 2 ^ 54 < e.va + pageSize e.code) ∧
    (let r := { begun r3 with waits := [2] }
     r.acks = [] ∧ (∀ i ∈ r.waits, (serving (access .load 0 0)).cur.performed i = true) ∧ (serving (access .load 0 0)).cur.performed 1 = false) := by
  decide +kernel

/-- A host's request. -/
def hostReq (verb : Nat) (body : Bytes) : PageReq :=
  { pageReq verb body with req := some { session := 1, len := 24, rtag := 0, ctx := 0, queue := 0, reserved := 0 } }
/-- Witness of PageEvents' other cases: an offered frame that is accepted; a scrub reached or not; the host's requests that invalidate and that do not;
a layer group that may be retired and may not, in use and not, with its accesses performed and not; a page that leaves its frame. -/
theorem witness_PageEvents_frames :
    let y := paged 4 Core.reset
    (let b := pageBlock 4096 7 4 0
     let va := fieldLe b 0 8 % 2 ^ 61
     let code : BitVec 16 := ((BitVec.ofNat 16 (fieldLe b 16 8)) &&& 0x7FBF) ||| 0x8000
     { y with frames := [(0, frame .offered)] }.frames = [(0, frame .offered)] ∧ (frame .offered).owner = 0 ∧
     (frame .offered).handle.toNat = fieldLe b 8 8 ∧ pageSize code = (frame .offered).size ∧ va % 4096 = 0 ∧ y.overlaps 0 va 4096 = false ∧
       codeOk (fieldLe b 16 8) = true ∧ codeRefused code 0 = false ∧ y.mayRegister (if codeDclass code ≠ 0 then 4096 else 0) = true) ∧
    (let r := hostReq 0x21 (natLe 8 0)
     let x := requesting r
     r.req.isSome = true ∧ x.requestRanges r = [(0, 0, 4096)] ∧ (requestEffect x r 0).1 = 0 ∧ (requestEffect x { r with started := true } 0).1 = 0) ∧
    (let r := hostReq 0x21 (natLe 8 4096)
     (requesting r).requestRanges r = [] ∧ (requestEffect (requesting r) r 0).1 ≠ 0) ∧
    (frame .scrubbing).state = .scrubbing ∧ (frame .mapped).state ≠ .scrubbing ∧ (frame .offered).state = .offered ∧
    (let a := access .load 0 0
     a.result = none ∧ a.ea.toNat / 2 ^ 61 = 0 ∧ 0 ≤ a.pa ∧ a.pa < 0 + 4096 ∧ (access .load 0xE000000000000000 0).ea.toNat / 2 ^ 61 = 7) ∧
    (let within := fun (a : Nat) => inHbm a = true ∧ a / stackBytes = 7 ∧ a % stackBytes / 2 ^ 27 % 4 = 3
     within (384 * 2 ^ 30 - 4096) ∧ ¬ within 0 ∧
     (∀ f ∈ [(384 * 2 ^ 30 - 4096, frame .offered)], within f.1 ∧ f.2.state = .offered) ∧
     Sys.reset.trust.form = 3 ∧ (7, 3) ∉ Sys.reset.retired ∧ Sys.reset.frames = [] ∧ Sys.reset.ctxs = [] ∧ Sys.reset.retiring = [] ∧
     ([({ stack := 7, group := 3, inval := some 3 } : Retiring)].find? fun r => r.stack == 7 && r.group == 3) =
       some { stack := 7, group := 3, inval := some 3 } ∧
     (let i : Inval := { no := 3, ranges := [], acks := [], waits := [2] }
      let y := (serving (access .load 0 0)).cur
      ({ y with invals := [i] } : Sys).invalDone 3 = true ∧ ({ y with invals := [{ i with waits := [1] }] } : Sys).invalDone 3 = false ∧
      ({ y with invals := [{ i with acks := [3] }] } : Sys).invalDone 3 = false) ∧
     codePin (0x0C : BitVec 16) = true ∧ codeCC (0x10 : BitVec 16) = true) := by
  decide +kernel
/-- What a search finds lies past the one frame, and below the end. -/
theorem findFree_bounds (y : Sys) (f : Frame) (hi size : Nat) (hf : y.frames = [(0, f)]) (hz : f.size = size) (h0 : 0 < size)
    (hr : y.retired = []) (hg : y.retiring = []) (b fuel : Nat) :
    ∀ pa, y.findFree size hi (fun _ => true) pa fuel = some b → size ≤ b ∧ b + size ≤ hi := by
  have h4 : ∀ pa, y.offline pa = false := fun pa => by simp [Sys.offline, hr, hg]
  induction fuel with
  | zero => intro pa h; exact absurd h (by simp [Sys.findFree])
  | succ n ih =>
    intro pa h
    rw [Sys.findFree] at h
    split at h
    · exact absurd h (by simp)
    · rw [h4] at h
      simp only [Bool.not_true, Bool.or_self, Bool.false_eq_true, if_false, hf, List.find?_cons, List.find?_nil] at h
      split at h
      · exact ih _ h
      · rename_i hn
        have : pa = b := Option.some.inj h
        subst this
        split at hn
        · exact absurd hn (by simp)
        · rename_i hb
          simp at hb
          omega
/-- Witness of PageEvents' case of a page that leaves its frame: its module has another free, whatever firmware chooses. -/
theorem witness_PageEvents_leaves (n : Nat) :
    let y : Sys := { paged 4 Core.reset with frames := [(0, frame .mapped)], hub := 1000 }
    (y.ctx 0).pages = [pageWith 4] ∧ (pageWith 4).pa = 0 ∧ inTier 0 = false ∧ (∀ pa, y.worksOn pa 4096 = true) ∧
      ∃ b, y.freeFrame 4096 none n = some b ∧ b ≠ 0 ∧ inTier b = false := by
  refine ⟨by decide +kernel, by decide +kernel, by decide +kernel, fun _ => worksOn_all _ rfl (by decide +kernel) _ _, ?_⟩
  have hz : (frame .mapped).size = 4096 := rfl
  have hi : 2 * ({ paged 4 Core.reset with frames := [(0, frame .mapped)], hub := 1000 } : Sys).present.length * stackBytes = 412316860416 := by decide +kernel
  obtain ⟨j, hj⟩ := Nat.exists_eq_add_of_le' (Nat.le_add_right_of_le (show 2 ≤ 8192 by decide) :
    2 ≤ 8192 + 2 * ({ paged 4 Core.reset with frames := [(0, frame .mapped)], hub := 1000 } : Sys).frames.length)
  have h := findFree_after { paged 4 Core.reset with frames := [(0, frame .mapped)], hub := 1000 } (frame .mapped) 412316860416 4096 rfl hz (by decide)
    (by decide) rfl rfl j
  have key : ∀ b pa, ({ paged 4 Core.reset with frames := [(0, frame .mapped)], hub := 1000 } : Sys).findFree 4096 412316860416 (fun _ => true) pa (j + 2) = some b →
      b ≠ 0 ∧ inTier b = false := by
    intro b pa hb
    have := findFree_bounds _ _ _ _ rfl hz (by decide) rfl rfl b _ pa hb
    exact ⟨by omega, by simp [inTier]; omega⟩
  unfold Sys.freeFrame
  simp only [hi, hj]
  split
  · rename_i pa hpa
    exact ⟨pa, rfl, key pa _ hpa⟩
  · exact ⟨4096, h, key 4096 0 h⟩
/-- Witness of PageEvents' case of a retired page that comes back: its frame is free and in the part of its period for memory work; its release pending
or not, and its frame of the tier shared or not. -/
theorem witness_PageEvents_comeBack :
    let t := 0x10000000000
    let p : Page := { pageWith 4 with state := .retired, tier := some t }
    let y : Sys := { paged 4 Core.reset with ctxs := [(0, { onePage 4 with pages := [p] })], hub := 1000 }
    (y.ctx 0).pages = [p] ∧ inTier p.pa = false ∧ inTier t = true ∧ y.isFree p.pa 4096 = true ∧ y.worksOn p.pa 4096 = true ∧
      y.releasePending 0 0 = false ∧ ({ y with trust := { y.trust with releases := [(0, 0, { session := 1, len := 24, rtag := 0, ctx := 0, queue := 0, reserved := 0 })] } } : Sys).releasePending 0 0 = true ∧
      (SMap.get? [(t, { frame .mapped with refc := 2 })] t).map (·.refc) = some 2 ∧ codeRlg 0x1000 ≠ 0 ∧ codeRlg 4 = 0 := by
  decide +kernel

/-! ### Witnesses: the link, power, trust and verbs -/

/-- A module whose port 23 is so, with core 0 (of a kernel) holding window 15 in a state, and a link so. -/
def linkSys (p : Port) (st : Nat) (l : LinkState) : State :=
  let y := kernelSys oneDie { Core.reset with wins := [(15, window st)] }
  { withSys { y with link := { l with ports := [(23, p)] } } with unit := 23 }
/-- A flit of one granule for window 15 of core 0. -/
def flit (last : Bool) (csum : BitVec 32) : Flit :=
  { seq := 0, xfer := 7, dcore := 0, win := 15, last := last, goff := 0, csum := csum, data := List.replicate 64 1 }
/-- A transfer of core 0 through port 23. -/
def transfer : Transfer :=
  { core := 0, block := 0, start := 0, src := 0, port := 23, peer := 319, dcore := 0, win := 15, xfer := 7, ngran := 1, data := [], sent := true, resends := 3 }
/-- A rejoin of core 0 that waits for port 23. -/
def rejoin : Rejoin := { core := 0, block := 0, start := 0, coll := 1, step := 5, waiting := [23], refused := false }
/-- Witness of CopyEvents' transfers: one of this core that still reads, one of another core, one that has read all, and one that begins this cycle. -/
theorem witness_CopyEvents_transfers :
    transfer.core = 0 ∧ transfer.core ≠ 1 ∧ transfer.data.length < 64 * transfer.ngran ∧ transfer.start < 1 ∧ transfer.start ≤ 0 ∧
      64 * transfer.ngran ≤ ({ transfer with data := List.replicate 64 0 } : Transfer).data.length := by decide +kernel
/-- A space-5 request. -/
def peerRequest (off size : Nat) (k : AccessKind) : PeerRequest := { sender := 319, id := 1, kind := k, offset := off, size := size, data := 0, data2 := 0 }
/-- An export window of 4 KiB of context 0. -/
def exporting : Export := { ctx := 0, base := 0, size := 4096 }

/-- Witness of Flits: a data flit for a window and for none, the last with a right and with a wrong checksum; a window-open flit that counts and one
that does not; each answer to a transfer that is there and none; holds, rejoins, requests inside, past and without an export window, and to a page that
permits no store; a NAK at eight retries and fewer; each kind of uncorrectable flit. -/
theorem witness_Flits :
    let s := linkSys portTo 1 LinkState.reset
    let ok := crc32c (List.replicate 64 1)
    s.cur.link.incoming = [] ∧ (s.cur.core 0).wins = [(15, window 1)] ∧ (window 1).block.length = 64 ∧ (window 1).xfer = 7 ∧ (window 1).state = 1 ∧
    (s.cur.winPlace 0 fun k => (SMap.get? k.wins 15).any fun w => w.xfer == (flit true ok).xfer.toNat && [1, 2, 4, 6].contains w.state) = some (.core 0) ∧
    (s.cur.winPlace 0 fun k => (SMap.get? k.wins 14).any fun w => w.xfer == (flit true ok).xfer.toNat) = none ∧ ok ≠ ok + 1 ∧
    (let y := { s.cur.setCore 0 Core.reset with saved := [(1, { savedAt 0 with cores := [(0, { savedCore with wins := [(15, window 1)] })] })] }
     (y.winPlace 0 fun k => (SMap.get? k.wins 15).any fun w => w.xfer == 7 && [1, 2, 4, 6].contains w.state) = some (.saved 1 0) ∧
       (y.coreAt (.saved 1 0)).wins = [(15, window 1)] ∧ (savedAt 0).stop.bind (·.report) = none ∧ ((window 1).coll = 0 ∧ (window 1).coll ≠ 1) ∧
       ∀ k ∈ ({ y with kernels := [(1, { oneDie with state := .saved })] }).kernels, k.2.placed = false) ∧
    ((flit true ok).seq.toNat = portTo.rxSeq ∧ (flit true ok).seq.toNat < ({ portTo with rxSeq := 1 }).rxSeq ∧
      portTo.rxSeq < ({ flit true ok with seq := 1 }).seq.toNat ∧ portTo.ownHold = false ∧ ({ portTo with ownHold := true }).ownHold = true) ∧
    (let w : WindowOpen := { sender := 319, dcore := 0, win := 15, xfer := 7, ngran := 1, bar := 0x100000140, reopen := false }
     w ∉ portTo.resent ∧ w ∈ ({ portTo with resent := [w] }).resent) ∧
    (let bar : BitVec 64 := 0x100000140
     bar.toNat / 2 ^ 6 % 2 = 1 ∧ bar.toNat / 2 ^ 32 ≠ 0 ∧ (0 : BitVec 64).toNat / 2 ^ 6 % 2 ≠ 1) ∧ s.cur.coreNumbered 0 (fun _ => true) = some 0 ∧
    s.cur.coreNumbered 1 (fun _ => true) = none ∧
    (([transfer].find? fun z => z.port == 23 && z.xfer == 7) = some transfer ∧ ([transfer].find? fun z => z.port == 23 && z.xfer == 8) = none) := by
  decide +kernel
/-- Witness of the other cases of Flits. -/
theorem witness_Flits_cases :
    let s := linkSys portTo 1 LinkState.reset
    (¬ transfer.resends < 3 ∧ { transfer with resends := 2 }.resends < 3) ∧ SMap.rising (s.cur.core 0).wins = true ∧
    SMap.get? (s.cur.core 0).wins 15 = some (window 1) ∧ portTo.peer = some (window 1).peer ∧
    (rejoin.waiting = [23] ∧ rejoin.refused = false ∧ ({ portTo with joins := [1] }).joins.head? = some rejoin.coll ∧ portTo.joins.head? ≠ some rejoin.coll) ∧
    (portTo.state = .keyed ∧ Port.reset.state ∉ [PortState.keyed, .retrying, .answeringHold, .rejoining]) ∧ s.cur.link.exportWin = none ∧
    ((peerRequest 4088 8 .store).offset + 8 ≤ exporting.size ∧ exporting.size < (peerRequest 4089 8 .store).offset + 8) ∧
    ((s.cur.ctx 0).pages.find? fun p => p.state != .retired && decide (p.va ≤ 4088) && decide (4088 < p.va + pageSize p.code)) = some (pageWith 4) ∧
    storeOk 4 = true ∧ storeOk 0 = false ∧ s.cur.access 1 = none ∧ (serving (access .load 0 0)).cur.access 1 = some (access .load 0 0) ∧
    (8 < ({ portTo with retries := 8 }).retries + 1 ∧ ¬ 8 < portTo.retries + 1) ∧ portTo.nak ≠ some 1 ∧ ({ portTo with nak := some 1 }).nak = some 1 ∧
    (({ portTo with nakAhead := 1 }).nakAhead ≠ 0 ∧ portTo.nakAhead = 0) ∧ ({ portTo with state := .up }).state = .up ∧ (0 : BitVec 64).toNat = portTo.rxSeq ∧ (1 : BitVec 64).toNat ≠ portTo.rxSeq := by
  decide +kernel

/-- Witness of Ports: the greatest module, the greatest count and one past both; a window of a lost transfer and one that is not; dies with and
without a common kernel. -/
theorem witness_Ports :
    let s := linkSys portTo 2 LinkState.reset
    (320 ≤ 320 ∧ 319 ≤ 319) ∧ ¬ 321 ≤ 320 ∧ Port.reset.state = .down ∧ portTo.state ≠ .down ∧ Port.reset.peer = none ∧ portTo.peer ≠ some 0 ∧
    (({ portTo with state := .up }).state = .up ∧ portTo.state ≠ .up) ∧ SMap.rising (s.cur.core 0).wins = true ∧ SMap.get? (s.cur.core 0).wins 15 = some (window 2) ∧
    ((window 2).port = 23 ∧ (window 2).state = 2) ∧ (window 1).state ≠ 2 ∧ (s.cur.kernels.filter fun x => x.2.dies.contains 0).map (·.1) = [1] ∧
    (s.cur.kernels.filter fun x => x.2.dies.contains 1).map (·.1) = [] ∧
    (SMap.rising s.cur.link.ports = true ∧ (s.cur.link.ports.find? fun q => q.2.state == .keyed && q.2.peer == some 319) = some (23, portTo) ∧
      (∀ q ∈ s.cur.link.ports, q.2.usable = true → q.2.peer ≠ some 318) ∧ s.cur.routeTo 318 = some 23) ∧
    (let l := { LinkState.reset with transfers := [transfer] }
     let y := (linkSys portTo 2 l).cur.setCore 0 Core.reset
     (y.core 0).wrote = [] ∧ (y.core 0).wins = [] ∧ y.link.remotes = [] ∧ (y.link.transfers.filter fun x => x.port == 23) = [transfer] ∧
       ∀ z ∈ [{ transfer with sent := false }], z.sent = false) ∧
    (let e := { report 0 with cause := 0x33, detail := [8, 0, 0] }
     let r := { report 0 with rank := 0, cause := 0x73 }
     (kernelSys (stoppedBy 0x33) Core.reset).kern 1 = some (stoppedBy 0x33) ∧ (stoppedBy 0x33).stop.bind (·.report) = some e ∧ r.rank = 0 ∧ e.rank ≠ 0) := by
  decide +kernel

/-- A module with a power state and one kernel. -/
def powerSys (p : PowerState) (x : Kernel) : Sys := { kernelSys x Core.reset with power := p }
/-- A sequence of a reason at a step. -/
def hib (reason step : Nat) : Hibernation :=
  { w := 0, since := 0, step := step, reason := reason, chosen := [], request := none, drained := 0, slot := 0, serial := 1 }
/-- Witness of SupplyAndPowerFail: a held kernel, a next step point at 32,768 cycles and one past it; a module without a reserve, a sequence of a sag and
of another reason, a shed module, a waiting one, and none of these; kernels all saved or not; 10 ms of good supply and less; each supply state; 109 and
110 °C; rows to reopen or none. -/
theorem witness_SupplyAndPowerFail :
    (let y := powerSys PowerState.reset oneDie
     heldKernel.state = .held ∧ oneDie.state ≠ .held ∧ y.nextStep oneDie = some 64 ∧ 64 ≤ y.kernelNow oneDie + 32768 ∧
       (y.setDie 0 { Die.reset with gnomon := 129 }).nextStep oneDie = none ∧ y.kern 1 = some oneDie ∧ y.trust.form = 3 ∧
       (∀ x ∈ y.kernels, x.2.state ≠ .binding ∧ (x.2.state = .held → x.2.lead = false)) ∧ y.power.hib = none ∧ y.power.shed = false ∧
       y.power.waiting = false ∧ y.power.manifest ≠ .replaying ∧ { heldKernel with lead := false }.lead = false ∧ (y.core 0).kernel = some 1) ∧
    ({ PowerState.reset with manifest := .replaying }).manifest = .replaying ∧
    (¬ (Stack.reset.prog.length ≤ Stack.reset.pos) = False ∧ (stackOf .hold none).pos < (stackOf .hold none).prog.length) ∧
    (let y := powerSys PowerState.reset { heldKernel with lead := false }
     ∀ x ∈ y.kernels, x.2.state = .held ∧ x.2.lead = false) ∧
    { TrustState.reset with form := 1 }.form ≠ 3 ∧ (hib 0 1).reason = 0 ∧ (hib 1 1).reason ≠ 0 ∧ { PowerState.reset with shed := true }.shed = true ∧
    { PowerState.reset with waiting := true }.waiting = true ∧ (∃ x ∈ (powerSys PowerState.reset oneDie).kernels, x.2.admitted = true) ∧
    (∀ x ∈ (powerSys PowerState.reset { oneDie with state := .saved }).kernels, x.2.admitted = false) ∧
    (∃ g ∈ ({ PowerState.reset with good := some 0 }).good, g + 1000000 ≤ 1000000) ∧ ¬ 0 + 1000000 ≤ 999999 ∧
    (let y := powerSys { PowerState.reset with shed := true } oneDie
     y.trust.form = 3 ∧ y.power.hib = none ∧ y.power.shed = true ∧ (110 : Int) ≤ 110) ∧
    (stackOf .selfRefresh none).driver = .selfRefresh ∧ (stackOf .hold none).driver ≠ .selfRefresh ∧
    (powerSys PowerState.reset oneDie).beyondDuty = false ∧ ((109 : Int) < 110 ∧ (110 : Int) ≤ 110) ∧
    (let x := { Stack.reset with pchs := [(63, bank63 open63)] }
     ∃ c ∈ x.pchs, ∃ b ∈ c.2.banks, b.2.mode = .opened 12287) ∧
    ({ Stack.reset with reopen := [(63, 63, 12287)] }).reopen = [(63, 63, 12287)] ∧ Stack.reset.reopen = [] := by decide +kernel

/-- Witness of DrainSealAndReplay: a sequence that is ready at steps 4, 5 and 6, with a region to drain; each way that a seal goes on; a replay that
waits, and one that finds no slot. -/
theorem witness_DrainSealAndReplay :
    (let x := { oneDie with state := .saved }
     let y := { powerSys { PowerState.reset with hib := some (hib 1 4) } x with ctxs := [(0, { onePage 0x104 with queues := [] })], queues := [], objs := [] }
     (hib 1 4).reason ≠ 0 ∧ (∀ k ∈ y.kernels, k.2.admitted = false) ∧ y.pageReqs = [] ∧ (hib 1 4).step < 5 ∧ (hib 1 5).step = 5 ∧ (hib 1 6).step = 6 ∧
       y.pageAt 0 (((y.ctx 0).own.head?).getD 0) = some (pageWith 0x104) ∧ (pageWith 0x104).va = ((y.ctx 0).own.head?).getD 0 ∧
       codeCmp (pageWith 0x104).code = false ∧ y.trust.log.length ≤ pageSize (pageWith 0x104).code ∧ Sys.reset.pageAt 0 0 = none ∧
       ((hib 1 5).since + (4096 + 959) / 960 ≤ 5 ∧ ¬ (hib 1 5).since + (4096 + 959) / 960 ≤ 4) ∧
       { y with hub := 1000 }.allWork = true ∧ y.allWork = false ∧
       y.regions = [(0, 1, pageWith 0x104, 0)] ∧ inTier (pageWith 0x104).pa = false ∧ y.kern 1 = some x) ∧
    (let r : Req := { session := 0, len := 0, rtag := 0, ctx := 0, queue := 0, reserved := 0 }
     ({ hib 2 6 with request := some r }).request = some r) ∧ (hib 2 6).reason = 2 ∧ (hib 1 6).request = none ∧
    (PowerState.reset.supply = .normal ∧ ({ PowerState.reset with supply := .fail }).supply = .fail) ∧
    (Sys.reset.power.manifest ≠ .replaying) ∧
    (let y := { Sys.reset with power := { PowerState.reset with manifest := .replaying } }
     y.power.manifest = .replaying ∧ y.link.ports = [] ∧ y.newestSlot.isSome = false) ∧
    (let y := { Sys.reset with
       tier := [(0x2BC01000000, 3)], link := { LinkState.reset with ports := [(23, { portTo with state := .rejoining })] },
       power := { PowerState.reset with manifest := .replaying, joining := true } }
     y.newestSlot = some 1 ∧ y.power.joining = true ∧ (∃ p ∈ y.link.ports, p.2.state = .rejoining) ∧ PowerState.reset.joining = false ∧
       y.power.began + (fieldLe (Mem.read y.tier (0x2BC01000000 + 64) 256) 0x98 8 + 1919) / 1920 ≤ y.wallc.toNat) := by decide +kernel

/-- Witness of ResetsAndStart: a die without kernels, one with a running kernel, one with a bound kernel and one between seams; a start that is not a
scrub; fuses that refuse the image and fuses that do not, at both ends. -/
theorem witness_ResetsAndStart :
    (let on := fun (y : Sys) (d : Nat) => y.kernels.filter fun x => x.2.placed && x.2.dies.contains d
     on (kernelSys oneDie Core.reset) 3 = [] ∧ on (kernelSys oneDie Core.reset) 0 ≠ [] ∧ (∀ x ∈ (kernelSys oneDie Core.reset).kernels, x.2.state ≠ .binding) ∧
       (∀ x ∈ on (kernelSys oneDie Core.reset) 0, x.2.state ≠ .bound) ∧ (∃ x ∈ on (kernelSys { oneDie with state := .bound } Core.reset) 0, x.2.state = .bound) ∧
       ∃ x ∈ on (kernelSys oneDie Core.reset) 0, x.2.state = .running ∨ x.2.state = .held) ∧
    (let k := { stackOf .compiled none with pos := 1 }
     k.driver = .compiled ∧ k.seam = none ∧ k.pos ≠ 0) ∧ Sys.reset.trust.scrubbing = none ∧
    (let f := fun (n : Nat) => (List.replicate n (true, true) ++ List.replicate (64 - n) (false, false)).takeWhile fun p => p.1 || p.2
     1 < (f 2).length ∧ ¬ 1 < (f 1).length ∧ ¬ 64 < (f 64).length ∧ TrustState.reset.svn = 1) ∧ (64 < 65 ∧ ¬ 64 < 64) ∧
    (TrustState.reset.recovery = false ∧ ({ TrustState.reset with fwmeas := [1] }).fwmeas ≠ []) ∧
    (let f := [(true, true), (true, false)]
     (2 : Nat) = 1 + 1 ∧ f[1]? = some (true, false) ∧ f[0]? = some (true, true) ∧ (true, false) ≠ (true, true)) ∧
    { TrustState.reset with form := 1 }.form = 1 ∧ TrustState.reset.form ≠ 1 := by decide +kernel

/-- A request header. -/
def req (session ctx len queue : Nat) : Req :=
  { session := session, len := len, rtag := 5, ctx := BitVec.ofNat 16 ctx, queue := BitVec.ofNat 8 queue, reserved := 0 }
/-- A module that serves verbs: context 255 with a page and queue 15. -/
def verbSys : State :=
  let y := { Sys.reset with
    ctxs := [(255, { onePage 4 with queues := [15] })], queues := [(4095, queue0)], frames := [(0, frame .mapped)],
    power := { PowerState.reset with reserve := 1000000 } }
  withSys y

/-- What firmware carries out: a sessionless request with the form that its table gives, on a module of form N9-M in standard mode, outside a sequence, for a
context that is there. -/
theorem serving_intro (s : State) (i : Instr) (r : VerbRow) (hv : verbRow s i = some r) (hl : r.legal)
    (hr : r.req.reserved = 0 ∧ r.req.len = r.body.length ∧ r.req.session = 0)
    (hm : s.cur.trust.conf = false ∧ s.cur.trust.form = 3 ∧ s.cur.trust.recovery = false ∧ s.cur.trust.scrubbing = none)
    (hp : s.cur.power.hib = none ∧ s.cur.power.manifest ≠ .replaying ∧ s.cur.power.shed = false ∧ (s.cur.power.waiting = false ∨ r.early = true) ∧
      s.cur.trust.barred = false)
    (hc : r.named = false ∨ (r.req.ctx.toNat ≠ 0 ∧ r.req.ctx.toNat < 256 ∧ (s.cur.ctx r.req.ctx.toNat).state ∉ [CtxState.empty, .destroyed])) :
    s.serving i := by
  refine ⟨r, hv, ⟨hm.2.2.1, hm.2.2.2, .inl hr.2.2⟩, fun b hb => ?_⟩
  simp only [State.barred, List.mem_cons, List.not_mem_nil, or_false] at hb
  rcases hb with rfl | rfl | rfl | rfl | rfl
  · rintro (h | h | h)
    exacts [h hr.1, h hr.2.1, h hl]
  · rintro (h | h)
    · simp [hm.1] at h
    · exact h.2 hm.2.1
  · rintro ⟨h | h | h | h | h, he⟩
    · exact h hp.1
    · rcases hp.2.2.2.1 with w | w
      · simp [w] at h
      · simp [w] at he
    · simp [hp.2.2.1] at h
    · exact hp.2.1 h
    · simp [hp.2.2.2.2] at h
  · rintro ⟨hn, h | h | h⟩
    · rcases hc with w | w
      · simp [w] at hn
      · exact w.1 h
    · rcases hc with w | w
      · simp [w] at hn
      · exact absurd h (Nat.not_le.mpr w.2.1)
    · rcases hc with w | w
      · simp [w] at hn
      · exact w.2.2 (by simpa using h)
  · exact fun h => h.2.1 hr.2.2

/-- Witness of VerbEffects: a request of each verb that no check turns away, with the bodies at the ends of their forms. -/
theorem witness_VerbEffects :
    verbSys.serving (.identify (req 0 0 0 0) []) ∧ verbSys.serving (.configDigest (req 0 0 0 0) []) ∧
    verbSys.serving (.attestSession (req 0 0 32 0) (List.replicate 32 0)) ∧
    verbSys.serving (.createContext (req 0 0 38 0) (List.replicate 32 0 ++ [1] ++ natLe 4 1 ++ [4])) ∧
    verbSys.serving (.createContext (req 0 0 53 0) (List.replicate 32 0 ++ [16] ++ natLe 4 0 ++ List.replicate 16 16)) ∧
    verbSys.serving (.loadKernel (req 0 255 16 0) (natLe 8 0 ++ natLe 8 1)) ∧ verbSys.serving (.offerPage (req 0 255 9 0) (natLe 8 4096 ++ [3])) ∧
    verbSys.serving (.releaseRequest (req 0 255 8 0) (natLe 8 0)) ∧ verbSys.serving (.reclaimForce (req 0 255 8 0) (natLe 8 0)) ∧
    verbSys.serving (.destroyContext (req 0 255 0 0) []) ∧ verbSys.serving (.submit (req 0 255 64 15) (entry 4 0 0 0xFFFF 0 0)) ∧
    verbSys.serving (.queryQueue (req 0 255 0 15) []) ∧ verbSys.serving (.hibernateNow (req 0 0 0 0) []) ∧
    verbSys.serving (.resumeVerb (req 0 0 0 0) []) ∧ verbSys.serving (.scrubReset (req 0 0 1 0) [1]) := by
  refine ⟨?_, ?_, ?_, ?_, ?_, ?_, ?_, ?_, ?_, ?_, ?_, ?_, ?_, ?_, ?_⟩ <;>
    exact serving_intro _ _ _ rfl (by decide +kernel) (by decide +kernel) (by decide +kernel) (by decide +kernel) (by decide +kernel)

/-- The lowest frame of a module without frames is free. -/
theorem findFree_zero (y : Sys) (hi size n : Nat) (hf : y.frames = []) (hr : y.retired = []) (hg : y.retiring = []) (hs : size ≤ hi) (hn : 0 < n) :
    y.findFree size hi (fun _ => true) 0 n = some 0 := by
  obtain ⟨m, rfl⟩ := Nat.exists_eq_add_of_le' hn
  rw [Sys.findFree, if_neg (by omega), show y.offline 0 = false by simp [Sys.offline, hr, hg], hf]
  rfl

/-- A module without frames has a free frame, whatever firmware chooses. -/
theorem freeFrame_some (y : Sys) (n : Nat) (hf : y.frames = []) (hr : y.retired = []) (hg : y.retiring = []) (hp : 0 < y.present.length) :
    (y.freeFrame (2 ^ 21) none n).isSome := by
  have hs : 2 ^ 21 ≤ 2 * y.present.length * stackBytes := by simp only [stackBytes]; omega
  have h := findFree_zero y _ (2 ^ 21) (8192 + 2 * y.frames.length) hf hr hg hs (Nat.add_pos_left (by decide) _)
  unfold Sys.freeFrame
  simp only [h]
  split <;> rfl

/-- It has one for a page of firmware's. -/
theorem ownPages_one (y : Sys) (c va n : Nat) (hf : y.frames = []) (hr : y.retired = []) (hg : y.retiring = []) (hp : 0 < y.present.length) :
    (y.ownPages c va n 1).isSome := by
  obtain ⟨pa, h⟩ := Option.isSome_iff_exists.mp (freeFrame_some y n hf hr hg hp)
  unfold Sys.ownPages
  rw [show List.range 1 = [0] from rfl, List.foldlM_cons, Sys.ownPage, Nat.add_zero, h]
  rfl

/-- Witness of VerbEffects' case of a context that can be made, and of the other: one queue and one page, on a module with every frame free; a ring
larger than its pages. -/
theorem witness_VerbEffects_created (n : Nat) :
    (Sys.reset.createContext (List.replicate 32 0 ++ [1] ++ natLe 4 1 ++ [4]) n).isSome ∧
    Sys.reset.createContext (List.replicate 32 0 ++ [1] ++ natLe 4 0 ++ [16]) n = none := by
  have hn : ((List.range 256).filter fun c => c != 0 && !SMap.has Sys.reset.ctxs c).length = 255 := by decide +kernel
  refine ⟨?_, ?_⟩
  · have hp : fieldLe (List.replicate 32 0 ++ [1] ++ natLe 4 1 ++ [4]) 33 4 = 1 := by decide +kernel
    unfold Sys.createContext
    simp only [hn, hp]
    split
    · rename_i h
      rw [List.getElem?_eq_none_iff, hn] at h
      exact absurd h (by omega)
    · rw [if_neg (by decide +kernel), Option.isSome_map]
      exact ownPages_one _ _ _ _ rfl rfl rfl (show 0 < Sys.reset.present.length by decide +kernel)
  · unfold Sys.createContext
    simp only []
    split
    · rfl
    · exact if_pos (by decide +kernel)

/-- Witness of VerbEffects' cases: chunks in order and not, short of the file and complete; frames that are
free, not free, and not frames; pages mapped, releasing and not there; a queue with room and a full one; no routine abandoned. -/
theorem witness_VerbEffects_cases :
    let y := verbSys.cur
    (fileTrouble []).toOption.isSome = false ∧ SMap.get? y.trust.loads 255 = none ∧
    frameOk 4096 4096 = true ∧ frameOk 1 4096 = false ∧ y.isFree 4096 4096 = true ∧ y.isFree 0 4096 = false ∧ y.pageAt 255 0 = some (pageWith 4) ∧
    y.pageAt 255 4096 = none ∧ y.queue (16 * 255 + 15) = some queue0 ∧ queue0.tail < queue0.head + queue0.cap ∧
    { queue0 with tail := 4 }.head + queue0.cap ≤ 4 ∧ (∀ k ∈ y.cores, k.2.abandoned = false ∧ k.2.mx.prior = [] ∧ k.2.mx.seq.pair = none) ∧
    y.hasMemory 4096 = true ∧ y.hasMemory (2 ^ 48) = false ∧ (∀ r ∈ y.pageReqs, r.req = none) ∧
    y.power.waiting = false := by decide +kernel

/-- Witness of HostCommandsAndManagement: a request of each host command that no check turns away. -/
theorem witness_HostCommandsAndManagement :
    verbSys.serving (.mapPage (req 0 255 24 0) (natLe 8 4096 ++ natLe 8 4096 ++ natLe 8 4)) ∧ verbSys.serving (.unmapPage (req 0 255 8 0) (natLe 8 0)) ∧
    verbSys.serving (.setAttr (req 0 255 16 0) (natLe 8 0 ++ natLe 8 4)) ∧ verbSys.serving (.clearFailed (req 0 0 10 0) (natLe 10 1)) ∧
    verbSys.serving (.readSlot (req 0 0 13 0) ([1] ++ natLe 8 0xFFF040 ++ natLe 4 4032)) := by
  refine ⟨?_, ?_, ?_, ?_, ?_⟩ <;>
    exact serving_intro _ _ _ rfl (by decide +kernel) (by decide +kernel) (by decide +kernel) (by decide +kernel) (by decide +kernel)

/-- Witness of HostCommandsAndManagement's cases: a page to map that is free, one that is not, one that no room is left for, and one that is barred; pages
pinned, locked and neither; 31 sessions and 32; a register in the reserved range. -/
theorem witness_HostCommandsAndManagement_cases :
    let y := verbSys.cur
    let code : BitVec 16 := 4
    (frameOk 4096 (pageSize code) = true ∧ 4096 % pageSize code = 0 ∧ 4096 + pageSize code ≤ 2 ^ 54 ∧ codeRefused code 4096 = false ∧
      y.overlaps 255 4096 4096 = false ∧ inTier 4096 = false) ∧ y.isFree 4096 4096 = true ∧ y.isFree 0 4096 = false ∧ y.overlaps 255 0 4096 = true ∧
    y.mayRegister (if codeDclass (0x104 : BitVec 16) ≠ 0 then 4096 else 0) = true ∧
    { y with power := PowerState.reset }.mayRegister (if codeDclass (0x104 : BitVec 16) ≠ 0 then 4096 else 0) = false ∧ y.pageAt 255 0 = some (pageWith 4) ∧
    codePin (pageWith 4).code = false ∧ codePin (pageWith 0xC).code = true ∧ y.lockedIn 255 0 4096 = false ∧
    (let e : TlbEntry := { ctx := 255, va := 0, pa := 0, code := 4, locked := 1 }
     { y with dies := [(0, { Die.reset with tlb := [e] })] }.lockedIn 255 0 4096 = true) ∧
    32 ≤ (List.replicate 32 ({ id := 1, owner := none, transcript := 0, key := [], iv := [] } : Session)).length ∧ y.trust.sessions.length < 32 ∧ (0x80 ≤ 0x80) ∧
    codeOk 0x80 = false ∧ y.hasMemory 4096 = true ∧ y.hasMemory (2 ^ 48) = false ∧
    (y.trust.recovery = false ∧ y.trust.scrubbing = none ∧ { TrustState.reset with recovery := true }.recovery = true) ∧
    (y.sequencing = false ∧ { y with power := { PowerState.reset with shed := true } }.sequencing = true) ∧
    (1 ∉ y.trust.negotiated ∧ 1 ∈ ({ TrustState.reset with negotiated := [1] }).negotiated) ∧
    (y.trust.barred = false ∧ { TrustState.reset with barred := true }.barred = true) ∧
    (let x : Session := { id := 1, owner := none, transcript := 0, key := [], iv := [] }
     ([x].find? fun x => x.id == 1) = some x ∧ ([x].find? fun x => x.id == 2) = none) ∧
    (y.ecc.length = 4 ∧ ∀ c ∈ y.ecc, c < 2 ^ 16) ∧
    (let r := hostReq 0x22 (natLe 8 0 ++ natLe 8 4)
     r.op = 0x22 ∧ r.block = natLe 8 0 ++ natLe 8 4 ∧ r.ctx = 0) := by decide +kernel

/-- Witness of VerbsTurnedAway: a request that is heard and one that is not; a row of each kind, with each check that may turn it away. -/
theorem witness_VerbsTurnedAway :
    verbSys.heard 0 ∧ ¬ verbSys.heard 1 ∧ (verbRow verbSys (.identify (req 0 0 0 0) [])).isSome = true ∧
    (verbRow verbSys (.submit (req 7 255 64 15) [])).isSome = true ∧
    ((req 0 0 1 0).len ≠ ([] : Bytes).length ∧ (confidential verbSys).cur.trust.conf = true ∧ { TrustState.reset with form := 1 }.form ≠ 3 ∧
      ({ PowerState.reset with hib := some (hib 1 1) }).hib ≠ none ∧ (req 0 0 0 0).ctx.toNat = 0 ∧ 256 ≤ (req 0 256 0 0).ctx.toNat ∧
      (verbSys.cur.ctx 254).state ∈ [CtxState.empty, .destroyed] ∧ (verbSys.cur.ctx 255).owner = []) := by
  refine ⟨⟨rfl, rfl, .inl rfl⟩, ?_, rfl, rfl, by decide +kernel⟩
  rintro ⟨-, -, h | ⟨x, hx, -⟩⟩
  · exact absurd h (by decide)
  · exact absurd hx (by simp [verbSys, withSys, Sys.reset, TrustState.reset])

/-- Witness of StepKeepsMemoryForm: reset has memories in their form, and a step goes on from there. -/
theorem witness_StepKeepsMemoryForm :
    State.reset.memoriesWf ∧ ∃ t, step State.reset = .next t := by
  refine ⟨by unfold State.memoriesWf; decide +kernel, ?_⟩
  exact ⟨_, rfl⟩

end Sys2Proof.Tests
end

section
/-! PROOFS. Resets and starts (R24, R25, R254, R409, R410, R413): what each reset leaves of the module, and what a start makes of it. -/

namespace Sys2Proof

/-- A map filtered by its keys reads as before at the keys that stay, and as absent at the others. -/
theorem SMap.get?_filter_key {α : Type} (p : Nat → Bool) (m : SMap α) (k : Nat) :
    SMap.get? (m.filter fun c => p c.1) k = if p k then SMap.get? m k else none := by
  induction m with
  | nil => simp [SMap.get?]
  | cons c r ih =>
    obtain ⟨j, v⟩ := c
    by_cases hp : p j <;> by_cases hj : j = k
    · subst hj; simp [SMap.get?, hp]
    · simp [SMap.get?, hp, hj, ih]
    · subst hj; simp [hp, ih]
    · simp [SMap.get?, hp, hj, ih]

/-- A map whose values are changed key by key reads as the changed value. -/
theorem SMap.get?_map_val {α β : Type} (f : Nat → α → β) (m : SMap α) (k : Nat) :
    SMap.get? (m.map fun c => (c.1, f c.1 c.2)) k = (SMap.get? m k).map (f k) := by
  induction m with
  | nil => rfl
  | cons c r ih =>
    obtain ⟨j, v⟩ := c
    by_cases hj : j = k
    · subst hj; simp [SMap.get?]
    · simpa [SMap.get?, hj] using ih

/-- A map filtered by its keys, read with a default. -/
theorem SMap.getD_filter_key {α : Type} (p : Nat → Bool) (m : SMap α) (k : Nat) (d : α) :
    SMap.getD (m.filter fun c => p c.1) k d = if p k then SMap.getD m k d else d := by
  rw [SMap.getD, SMap.get?_filter_key]
  split <;> rfl

/-- A map whose values are changed key by key, read with a default that stays as it is. -/
theorem SMap.getD_map_val {α : Type} (f : Nat → α → α) (m : SMap α) (k : Nat) (d : α) (h : f k d = d) :
    SMap.getD (m.map fun c => (c.1, f c.1 c.2)) k d = f k (SMap.getD m k d) := by
  rw [SMap.getD, SMap.getD, SMap.get?_map_val]
  cases SMap.get? m k with
  | none => exact h.symm
  | some v => rfl

end Sys2Proof

namespace Sys2Proof.Machine

/-! ### Memory at reset -/

/-- Settles O59: both memories are empty at reset, and an unlisted byte reads as zero. -/
theorem memoryFormAtReset : Obligations.MemoryFormAtReset :=
  ⟨⟨Mem.wf_nil, Mem.wf_nil, Mem.wf_nil, Mem.wf_nil⟩, fun _ => ⟨rfl, rfl⟩⟩

/-! ### Die resets (Table 1.6) -/

/-- A core reset leaves the cores of other dies and blanks those of its own. -/
theorem Sys.core_clearCores (y : Sys) (d c : Nat) : (y.clearCores d).core c = if c / 160 = d then Core.reset else y.core c := by
  refine (SMap.getD_filter_key (fun i => dieOf i != d) y.cores c Core.reset).trans ?_
  by_cases h : c / 160 = d <;> simp [dieOf, h, Sys.core]

/-- A core reset empties the dictionaries of its die's clusters and changes nothing else of a cluster. -/
theorem Sys.cluster_clearCores (y : Sys) (d r : Nat) :
    (y.clearCores d).cluster r = if r / 20 = d then { y.cluster r with dict := [] } else y.cluster r := by
  refine (SMap.getD_map_val (fun i (x : Cluster) => if i / 20 == d then { x with dict := [] } else x) y.clusters r Cluster.reset ?_).trans ?_
  · exact ite_self (c := (r / 20 == d) = true) Cluster.reset
  · simp [Sys.cluster]

/-- A core reset empties the core TLBs of its die and leaves its die TLB. -/
theorem Sys.die_clearCores (y : Sys) (d f : Nat) :
    (y.clearCores d).die f = if f = d then { y.die d with coreTlbs := [] } else y.die f := by
  by_cases h : f = d
  · subst h; simp [Sys.clearCores]
  · simp only [h, if_false]
    exact Sys.die_setDie_other _ _ _ _ h

/-- The stage of an uncore reset before the stacks: the clusters and the die TLB of the die go. -/
def Sys.clearL2 (y : Sys) (d : Nat) : Sys :=
  let y := { y with clusters := y.clusters.filter fun c => c.1 / 20 != d }
  y.setDie d { y.die d with tlb := [] }

/-- An uncore reset is a core reset, the loss of L2 and of the die TLB, and the reset of the die's two stacks. -/
theorem Sys.clearUncore_eq (y : Sys) (d : Nat) : y.clearUncore d =
    (((y.clearCores d).clearL2 d).setStk (2 * d) { Stack.reset with driver := .selfRefresh }).setStk (2 * d + 1)
      { Stack.reset with driver := .selfRefresh } := rfl

theorem Sys.cluster_clearL2 (y : Sys) (d r : Nat) :
    (y.clearL2 d).cluster r = if r / 20 = d then Cluster.reset else y.cluster r := by
  refine (SMap.getD_filter_key (fun i => i / 20 != d) y.clusters r Cluster.reset).trans ?_
  by_cases h : r / 20 = d <;> simp [h, Sys.cluster]

theorem Sys.die_clearL2 (y : Sys) (d f : Nat) : (y.clearL2 d).die f = if f = d then { y.die d with tlb := [] } else y.die f := by
  by_cases h : f = d
  · subst h; simp only [Sys.clearL2, Sys.die_setDie, if_true]; rfl
  · simp only [h, if_false]
    exact Sys.die_setDie_other _ _ _ _ h

/-- The stacks after the reset of a die's two. -/
theorem Sys.stk_setPair (y : Sys) (d k : Nat) (x : Stack) :
    ((y.setStk (2 * d) x).setStk (2 * d + 1) x).stk k = if k / 2 = d then x else y.stk k := by
  by_cases h1 : k = 2 * d + 1
  · subst h1
    rw [Sys.stk_setStk, if_pos (by omega)]
  · rw [Sys.stk_setStk_other _ _ _ _ h1]
    by_cases h0 : k = 2 * d
    · subst h0
      rw [Sys.stk_setStk, if_pos (by omega)]
    · rw [Sys.stk_setStk_other _ _ _ _ h0, if_neg (by omega)]

/-- What a die reset clears, by whether it is the uncore's. -/
def Sys.clearDie (y : Sys) (uncore : Bool) (d : Nat) : Sys := if uncore then y.clearUncore d else y.clearCores d

/-- Beside what Table 1.6 clears, a die reset leaves the module. -/
theorem Sys.clearDie_frame (y : Sys) (e : Bool) (d : Nat) : ∃ cs rs ds sv ks,
    y.clearDie e d = { y with cores := cs, clusters := rs, dies := ds, saved := sv, stks := ks } := by
  cases e
  · exact ⟨_, _, _, _, y.stks, rfl⟩
  · exact ⟨_, _, _, _, _, rfl⟩

theorem Sys.core_clearDie (y : Sys) (e : Bool) (d c : Nat) :
    (y.clearDie e d).core c = if c / 160 = d then Core.reset else y.core c := by
  cases e
  · exact y.core_clearCores d c
  · exact y.core_clearCores d c

theorem Sys.cluster_clearDie (y : Sys) (e : Bool) (d r : Nat) : (y.clearDie e d).cluster r =
    if r / 20 = d then (if e then Cluster.reset else { y.cluster r with dict := [] }) else y.cluster r := by
  cases e
  · exact y.cluster_clearCores d r
  · refine (Sys.cluster_clearL2 (y.clearCores d) d r).trans ?_
    rw [Sys.cluster_clearCores]
    split <;> rfl

theorem Sys.die_clearDie (y : Sys) (e : Bool) (d f : Nat) : (y.clearDie e d).die f =
    if f = d then { y.die d with coreTlbs := [], tlb := if e then [] else (y.die d).tlb } else y.die f := by
  cases e
  · exact y.die_clearCores d f
  · refine (Sys.die_clearL2 (y.clearCores d) d f).trans ?_
    rw [Sys.die_clearCores, Sys.die_clearCores, if_pos rfl]
    split <;> rfl

theorem Sys.stk_clearDie (y : Sys) (e : Bool) (d k : Nat) : (y.clearDie e d).stk k =
    if e = true ∧ k / 2 = d then { Stack.reset with driver := .selfRefresh } else y.stk k := by
  cases e
  · rw [if_neg (by simp)]; rfl
  · simp only [Sys.clearDie, if_true, Sys.clearUncore_eq, Sys.stk_setPair, true_and]
    rfl

/-! ### When a die reset takes effect (R25, R304) -/

section
variable (d : Nat) (e : Event) (clear : Sys → Sys) (s : State)

/-- With no kernel on the die and none binding to it, the die is cleared. -/
theorem resetDie_clears (hon : s.cur.kernelsOn d = [])
    (hb : ∀ x ∈ s.cur.kernels, x.2.state = .binding → d ∉ x.2.dies) : resetDie d e clear s = .next (s.onCur clear) := by
  have hnone : (s.cur.kernels.filter fun x => x.2.state == .binding && x.2.dies.contains d) = [] := by
    simpa [List.filter_eq_nil_iff] using hb
  simp only [resetDie, hon, State.onCur, hnone]
  rfl

/-- While a kernel of the die is bound but has not started, or a timeline stands between seams, the reset waits. -/
theorem resetDie_waits (hon : s.cur.kernelsOn d ≠ [])
    (hw : (∃ x ∈ s.cur.kernelsOn d, x.2.state = .bound) ∨ ∃ k, (k = 2 * d ∨ k = 2 * d + 1) ∧ (s.cur.stk k).between = true) :
    resetDie d e clear s = .next { s with inputs := s.inputs ++ [{ time := s.cur.hub + 1, unit_ := 0, event := e }] } := by
  have hempty : (s.cur.kernelsOn d).isEmpty = false := by simpa using hon
  have hwait : ((s.cur.kernelsOn d).any (fun x => x.2.state == .bound) ||
      ([2 * d, 2 * d + 1] : List Nat).any fun k => (s.cur.stk k).between) = true := by
    simpa using hw
  simp only [resetDie, hempty, hwait, if_true]
  rfl

/-- Otherwise the kernels of the die that run or are held are stopped as by a forced pre-emption, and the reset comes again. -/
theorem resetDie_stops (hon : s.cur.kernelsOn d ≠ []) (hbound : ∀ x ∈ s.cur.kernelsOn d, x.2.state ≠ .bound)
    (hseam : ¬ ∃ k, (k = 2 * d ∨ k = 2 * d + 1) ∧ (s.cur.stk k).between = true)
    (hrun : ∃ x ∈ s.cur.kernelsOn d, x.2.state = .running ∨ x.2.state = .held) :
    resetDie d e clear s = .next { s.onCur (fun y => y.stopAt .preempt none false ((s.cur.kernelsOn d).map (·.1))
        ((s.cur.kernelsOn d).flatMap (·.2.dies))) with
      inputs := s.inputs ++ [{ time := s.cur.hub + 1, unit_ := 0, event := e }] } := by
  have hempty : (s.cur.kernelsOn d).isEmpty = false := by simpa using hon
  have hwait : ((s.cur.kernelsOn d).any (fun x => x.2.state == .bound) ||
      ([2 * d, 2 * d + 1] : List Nat).any fun k => (s.cur.stk k).between) = false := by
    rw [Bool.or_eq_false_iff]
    refine ⟨by simpa using hbound, ?_⟩
    simpa using hseam
  have hstop : ((s.cur.kernelsOn d).any fun x => x.2.state == .running || x.2.state == .held) = true := by
    simpa using hrun
  have hhub : ∀ qs ds, (s.cur.stopAt .preempt none false qs ds).hub = s.cur.hub := fun qs ds => by
    obtain ⟨_, _, _, h⟩ := s.cur.stopAt_frame .preempt none false qs ds
    rw [h]
  simp only [resetDie, hempty, hwait, hstop, if_true, State.onCur, hhub]
  rfl

end

/-! ### What a package reset or a start begins from (R24) -/

/-- What survives is the reset module with the tier, the vaults, the failed-cluster mask, what the host was told, the lasting part of the
security processor's store and, without loss of power, the clock and the supply's report. -/
theorem Sys.survive_frame (y : Sys) (clock : Bool) : ∃ vs acc num den tr p, y.survive clock = { Sys.reset with
      tier := y.tier, vaults := vs, failed := y.failed, hostOut := y.hostOut, trust := tr, power := p,
      hub := if clock then y.hub else 0, wallc := if clock then y.wallc else 0, wallAcc := acc, opNum := num, opDen := den } ∧
    tr.form = y.trust.form ∧ tr.fuses = y.trust.fuses ∧ tr.svn = y.trust.svn ∧ tr.image = y.trust.image ∧
    tr.scrubbing = y.trust.scrubbing ∧ p.powered = true := by
  cases clock
  · exact ⟨_, _, _, _, _, _, rfl, rfl, rfl, rfl, rfl, rfl, rfl⟩
  · exact ⟨_, _, _, _, _, _, rfl, rfl, rfl, rfl, rfl, rfl, rfl⟩

/-! ### The steps of a start (R413) -/

/-- The parts of the module that the later steps of a start leave as they are. -/
structure Sys.KeptByStart (y z : Sys) : Prop where
  hub : z.hub = y.hub
  wallc : z.wallc = y.wallc
  cores : z.cores = y.cores
  clusters : z.clusters = y.clusters
  stks : z.stks = y.stks
  hbm : z.hbm = y.hbm
  kernels : z.kernels = y.kernels
  failed : z.failed = y.failed
  link : z.link = y.link
  powered : z.power.powered = y.power.powered
  granted : z.power.granted = y.power.granted
  form : z.trust.form = y.trust.form
  fuses : z.trust.fuses = y.trust.fuses
  recovery : z.trust.recovery = y.trust.recovery
  fwmeas : z.trust.fwmeas = y.trust.fwmeas

theorem Sys.KeptByStart.refl (y : Sys) : y.KeptByStart y :=
  ⟨rfl, rfl, rfl, rfl, rfl, rfl, rfl, rfl, rfl, rfl, rfl, rfl, rfl, rfl, rfl⟩

theorem Sys.KeptByStart.trans {x y z : Sys} (h : x.KeptByStart y) (k : y.KeptByStart z) : x.KeptByStart z :=
  ⟨k.hub.trans h.hub, k.wallc.trans h.wallc, k.cores.trans h.cores, k.clusters.trans h.clusters, k.stks.trans h.stks,
    k.hbm.trans h.hbm, k.kernels.trans h.kernels, k.failed.trans h.failed, k.link.trans h.link, k.powered.trans h.powered,
    k.granted.trans h.granted, k.form.trans h.form, k.fuses.trans h.fuses, k.recovery.trans h.recovery, k.fwmeas.trans h.fwmeas⟩

/-- The digest log's page takes a frame and a place in context 0. -/
theorem Sys.keptByStart_logPage (y : Sys) (n : Nat) : y.KeptByStart (y.logPage n) := by
  unfold Sys.logPage Sys.ownPage
  cases y.freeFrame (2 ^ 21) none n with
  | none => exact .refl y
  | some pa => exact ⟨rfl, rfl, rfl, rfl, rfl, rfl, rfl, rfl, rfl, rfl, rfl, rfl, rfl, rfl, rfl⟩

/-- A digest record joins the chain and the log. -/
theorem Sys.keptByStart_extend (y : Sys) (code ctx : Nat) (data : Bytes) : y.KeptByStart (y.extend code ctx data) :=
  ⟨rfl, rfl, rfl, rfl, rfl, rfl, rfl, rfl, rfl, rfl, rfl, rfl, rfl, rfl, rfl⟩

/-- Replays that are given up extend the digest alone. -/
theorem Sys.keptByStart_endReplays (y : Sys) : y.KeptByStart y.endReplays := by
  unfold Sys.endReplays
  refine List.foldlRecOn (motive := y.KeptByStart) _ _ (.refl y) fun z hz n _ => ?_
  split
  · split
    · exact List.foldlRecOn (motive := y.KeptByStart) _ _ hz fun w hw c _ => hw.trans (w.keptByStart_extend _ _ _)
    · exact hz
  · exact hz

/-- The status block of a slot lies in the tier. -/
theorem Sys.keptByStart_setSlot (y : Sys) (n st fails serial : Nat) : y.KeptByStart (y.setSlot n st fails serial) := by
  obtain ⟨m, hm⟩ : ∃ m, y.setSlot n st fails serial = { y with tier := m } := ⟨_, rfl⟩
  rw [hm]
  exact ⟨rfl, rfl, rfl, rfl, rfl, rfl, rfl, rfl, rfl, rfl, rfl, rfl, rfl, rfl, rfl⟩

/-- Rejecting slots writes the tier alone. -/
theorem Sys.keptByStart_rejectSlots (y : Sys) : y.KeptByStart y.rejectSlots := by
  unfold Sys.rejectSlots
  refine List.foldlRecOn (motive := y.KeptByStart) _ _ (.refl y) fun z hz n _ => hz.trans ?_
  dsimp only
  split
  · exact z.keptByStart_setSlot _ _ _ _
  · exact .refl z

/-- A RESUME that found a cold start is answered. -/
theorem Sys.keptByStart_resumeCold (y : Sys) : y.KeptByStart y.resumeCold := by
  unfold Sys.resumeCold
  cases y.trust.resume with
  | none => exact .refl y
  | some r => exact ⟨rfl, rfl, rfl, rfl, rfl, rfl, rfl, rfl, rfl, rfl, rfl, rfl, rfl, rfl, rfl⟩

/-- Ports train alike in two modules of one form. -/
theorem Sys.KeptByStart.trainPorts {y z : Sys} (h : y.KeptByStart z) : y.trainPorts.KeptByStart z.trainPorts := by
  unfold Sys.trainPorts
  rw [h.form]
  split
  · exact h
  · exact { h with link := by simp only [h.link] }

/-- An N9-D has no ports to train. -/
theorem Sys.link_trainPorts_of_form_one (y : Sys) (h : y.trust.form = 1) : y.trainPorts.link = y.link := by
  simp [Sys.trainPorts, h]

/-- Elsewhere the host link and all 24 ports begin to train. -/
theorem Sys.link_trainPorts (y : Sys) (h : y.trust.form ≠ 1) : y.trainPorts.link.host = .up ∧
    ∀ p < 24, y.trainPorts.port p = { Port.reset with state := .training } := by
  have hform : (y.trust.form == 1) = false := by simpa using h
  rw [Sys.trainPorts, hform]
  refine ⟨rfl, ?_⟩
  show ∀ p < 24, SMap.getD ((List.range 24).map fun p => (p, { Port.reset with state := .training })) p Port.reset = _
  decide +kernel

/-- The module with its image measured, the firmware in charge and a new digest chain. -/
def Sys.measured (y : Sys) : Sys :=
  { y with trust := { y.trust with fwmeas := sha256 y.trust.image, recovery := false } }.newChain

/-- The end of a warm start: the slot is marked and its replay begins. -/
def Sys.beginReplay (z : Sys) (k : Nat) : Sys :=
  { z.setSlot k 3 (z.slotFails k + 1) (z.slotSerial k) with
    power := { z.power with manifest := .replaying, began := z.wallc.toNat, joining := false } }

/-- The end of a cold start: the die integrity keys are drawn. -/
def Sys.drawKeys (z : Sys) (n : Nat) : Sys :=
  let keys := (List.range 4).map fun d => (d, (List.range 32).map fun i => Config.randomByte n (32 * d + i))
  { z with trust := { z.trust with dieKeys := keys } }

theorem Sys.keptByStart_beginReplay (z : Sys) (k : Nat) : z.KeptByStart (z.beginReplay k) := by
  refine (z.keptByStart_setSlot k 3 (z.slotFails k + 1) (z.slotSerial k)).trans ?_
  unfold Sys.beginReplay
  obtain ⟨m, hm⟩ : ∃ m, z.setSlot k 3 (z.slotFails k + 1) (z.slotSerial k) = { z with tier := m } := ⟨_, rfl⟩
  rw [hm]
  exact ⟨rfl, rfl, rfl, rfl, rfl, rfl, rfl, rfl, rfl, rfl, rfl, rfl, rfl, rfl, rfl⟩

theorem Sys.keptByStart_drawKeys (z : Sys) (n : Nat) : z.KeptByStart (z.drawKeys n) :=
  ⟨rfl, rfl, rfl, rfl, rfl, rfl, rfl, rfl, rfl, rfl, rfl, rfl, rfl, rfl, rfl⟩

/-- The steps of a start from the third on, in order. -/
theorem Sys.startUp_eq (y : Sys) (n : Nat) : y.startUp n = match (y.measured.logPage n).warmSlot with
    | some k => (y.measured.logPage n).endReplays.rejectSlots.trainPorts.beginReplay k
    | none => ((y.measured.logPage n).endReplays.rejectSlots.trainPorts.drawKeys n).resumeCold := by
  unfold Sys.startUp Sys.measured
  dsimp only
  generalize Sys.logPage _ n = w
  cases w.warmSlot with
  | some k => rfl
  | none => rfl

/-- From its third step on a start keeps the measured module with its ports in training. -/
theorem Sys.keptByStart_startUp (y : Sys) (n : Nat) : y.measured.trainPorts.KeptByStart (y.startUp n) := by
  have htrained : y.measured.trainPorts.KeptByStart (y.measured.logPage n).endReplays.rejectSlots.trainPorts :=
    (((y.measured.keptByStart_logPage n).trans (Sys.keptByStart_endReplays _)).trans (Sys.keptByStart_rejectSlots _)).trainPorts
  refine htrained.trans ?_
  rw [Sys.startUp_eq]
  cases (y.measured.logPage n).warmSlot with
  | some k => exact Sys.keptByStart_beginReplay _ k
  | none => exact (Sys.keptByStart_drawKeys _ n).trans (Sys.keptByStart_resumeCold _)

/-- The module that a start works on, once what survives is in place, no scrub is due, interrupted fuse pairs are whole and an N9-P or N9-D
has its board's limit. -/
def Sys.readied (y : Sys) (clock : Bool) : Sys :=
  let y := y.survive clock
  let y := { y with trust := { y.trust with fuses := wholePairs y.trust.fuses } }
  if y.trust.form == 3 then y else { y with power := { y.power with granted := Config.boardLimit } }

/-- What a start works on has its time, its failed clusters and nothing in cores, stacks, HBM and kernels; its pairs are whole. -/
theorem Sys.readied_spec (y : Sys) (clock : Bool) :
    let r := y.readied clock
    r.hub = (if clock then y.hub else 0) ∧ r.wallc = (if clock then y.wallc else 0) ∧ r.cores = [] ∧ r.clusters = [] ∧ r.stks = [] ∧
    r.hbm = [] ∧ r.kernels = [] ∧ r.failed = y.failed ∧ r.tier = y.tier ∧ r.link = LinkState.reset ∧ r.power.powered = true ∧
    (y.trust.form ≠ 3 → r.power.granted = Config.boardLimit) ∧ r.trust.form = y.trust.form ∧
    r.trust.fuses = wholePairs y.trust.fuses ∧ r.trust.svn = y.trust.svn ∧ r.trust.image = y.trust.image := by
  obtain ⟨vs, acc, num, den, tr, p, hz, hform, hfuses, hsvn, himage, -, hp⟩ := y.survive_frame clock
  by_cases h3 : y.trust.form = 3
  · have hr : y.readied clock =
        { y.survive clock with trust := { (y.survive clock).trust with fuses := wholePairs (y.survive clock).trust.fuses } } := by
      simp [Sys.readied, hz, hform, h3]
    rw [hr, hz]
    exact ⟨rfl, rfl, rfl, rfl, rfl, rfl, rfl, rfl, rfl, rfl, hp, fun h => absurd h3 h, hform, congrArg wholePairs hfuses, hsvn, himage⟩
  · have hr : y.readied clock =
        { y.survive clock with
          trust := { (y.survive clock).trust with fuses := wholePairs (y.survive clock).trust.fuses }
          power := { (y.survive clock).power with granted := Config.boardLimit } } := by
      simp [Sys.readied, hz, hform, h3]
    rw [hr, hz]
    exact ⟨rfl, rfl, rfl, rfl, rfl, rfl, rfl, rfl, rfl, rfl, hp, fun _ => rfl, hform, congrArg wholePairs hfuses, hsvn, himage⟩

/-- The module after a start: the recovery image when a step fails, the firmware otherwise. -/
def Sys.started (r : Sys) (n : Nat) : Sys :=
  if r.trust.startFails n then { r with trust := { r.trust with recovery := true } } else r.startUp n

/-- A start without scrub begins the schedule again on the started module. -/
theorem execStart_eq (s : State) (h : s.cur.trust.scrubbing = none) :
    execStart s = .next { s.again (s.unit == 1) with
      old := (s.cur.readied (s.unit == 1)).started s.fresh, cur := (s.cur.readied (s.unit == 1)).started s.fresh,
      fresh := s.fresh + 2 } := by
  have hs : (s.again (s.unit == 1)).cur.trust.scrubbing = none := by
    obtain ⟨_, _, _, _, _, _, hz, -, -, -, -, hk, -⟩ := s.cur.survive_frame (s.unit == 1)
    show (s.cur.survive (s.unit == 1)).trust.scrubbing = none
    rw [hz]
    exact hk.trans h
  unfold execStart
  extract_lets t n kept trust whole power ready trust' done
  have hkept : kept = t.cur := by simp only [kept, t, hs]
  have hready : ready = s.cur.readied (s.unit == 1) := by
    simp only [ready, power, whole, trust, hkept]
    rfl
  have hdone : done = (s.cur.readied (s.unit == 1)).started s.fresh := by
    simp only [done, trust', hready]
    rfl
  rw [hdone]
  rfl

/-- A start fails when a step of it fails or the image is refused (R409, R413). -/
theorem TrustState.startFails_iff (t : TrustState) (n : Nat) : t.startFails n = true ↔
    Config.startFails n 1 = true ∨ Config.imageRefused Config.fusedKeyHash t.image = true ∨ t.svn < fuseCount t.fuses ∨ 64 < t.svn ∨
      Config.startFails n 3 = true := by
  simp [TrustState.startFails, TrustState.refuses, or_assoc]

/-- Whether it fails or not, a start keeps what it began from, but for the firmware in charge and the link. -/
theorem Sys.started_spec (r : Sys) (n : Nat) (hlink : r.link = LinkState.reset) :
    let z := r.started n
    (z.hub = r.hub ∧ z.wallc = r.wallc ∧ z.cores = r.cores ∧ z.clusters = r.clusters ∧ z.stks = r.stks ∧ z.hbm = r.hbm ∧
      z.kernels = r.kernels ∧ z.failed = r.failed ∧ z.power.powered = r.power.powered ∧ z.power.granted = r.power.granted ∧
      z.trust.fuses = r.trust.fuses) ∧
    (r.trust.startFails n = true → z.trust.recovery = true ∧ z.tier = r.tier ∧ z.link = LinkState.reset) ∧
    (r.trust.startFails n = false → z.trust.recovery = false ∧ z.trust.fwmeas = sha256 r.trust.image ∧
      (r.trust.form = 1 → z.link = LinkState.reset) ∧
      (r.trust.form ≠ 1 → z.link.host = .up ∧ ∀ p < 24, z.port p = { Port.reset with state := .training })) := by
  unfold Sys.started
  cases r.trust.startFails n
  case true => exact ⟨⟨rfl, rfl, rfl, rfl, rfl, rfl, rfl, rfl, rfl, rfl, rfl⟩, fun _ => ⟨rfl, rfl, hlink⟩, fun h => absurd h (by decide)⟩
  case false =>
    have hk := r.keptByStart_startUp n
    obtain ⟨k, ht⟩ : ∃ k, r.measured.trainPorts = { r.measured with link := k } := by
      unfold Sys.trainPorts
      split
      · exact ⟨_, rfl⟩
      · exact ⟨_, rfl⟩
    have hport : (r.startUp n).port = r.measured.trainPorts.port := by
      funext p
      rw [Sys.port, hk.link]
      rfl
    have hl := hk.link
    have hone := r.measured.link_trainPorts_of_form_one
    have hother := r.measured.link_trainPorts
    rw [← hport, ← hl] at hother
    rw [← hl] at hone
    rw [ht] at hk
    exact ⟨⟨hk.hub, hk.wallc, hk.cores, hk.clusters, hk.stks, hk.hbm, hk.kernels, hk.failed, hk.powered, hk.granted, hk.fuses⟩,
      fun h => absurd h (by decide), fun _ => ⟨hk.recovery, hk.fwmeas, fun h => (hone h).trans hlink, hother⟩⟩

/-! ### The anti-rollback counter (R410) -/

/-- With every pair below SVN whole, no bit is left to blow. -/
theorem TrustState.blowBit_whole (t : TrustState) (h : ∀ i < t.svn, ∀ p, t.fuses[i]? = some p → p = (true, true)) : t.blowBit = t := by
  have hnone : t.toBlow = none := by
    unfold TrustState.toBlow
    split
    · rfl
    · rw [List.find?_eq_none]
      intro i hi
      cases hp : t.fuses[i]? with
      | none => simp
      | some p => simp [h i (List.mem_range.1 hi) p hp]
  simp [TrustState.blowBit, hnone]

/-- Otherwise the first pair that is not whole gains its first bit, or with that its second. -/
theorem TrustState.blowBit_first (t : TrustState) (hr : t.recovery = false) (hm : t.fwmeas ≠ []) (i : Nat) (p : Bool × Bool)
    (hi : i < t.svn) (hp : t.fuses[i]? = some p) (hw : p ≠ (true, true))
    (hbelow : ∀ j < i, ∀ r, t.fuses[j]? = some r → r = (true, true)) :
    t.blowBit = { t with fuses := t.fuses.set i (true, p.1) } := by
  have hfirst : t.toBlow = some i := by
    have hverified : (t.recovery || t.fwmeas.isEmpty) = false := by simp [hr, hm]
    rw [TrustState.toBlow, hverified, if_neg Bool.false_ne_true, List.find?_range_eq_some]
    refine ⟨?_, List.mem_range.2 hi, fun j hj => ?_⟩
    · obtain ⟨a, b⟩ := p
      cases a <;> cases b <;> simp_all
    · cases hq : t.fuses[j]? with
      | none => rfl
      | some q => simp [hbelow j hj q hq]
  simp [TrustState.blowBit, hfirst, hp]

/-! ### The obligation -/

/-- The event that asks for a die reset. -/
def dieReset (uncore : Bool) (d : Nat) : Event := if uncore then .dieUncoreReset d else .dieCoreReset d

theorem exec_dieReset (e : Bool) (d : Nat) (s : State) :
    exec (if e then .dieUncoreReset d else .dieCoreReset d) s = resetDie d (dieReset e d) (fun y => y.clearDie e d) s := by
  cases e
  · rfl
  · rfl

/-- A stack between seams, as the fields of its timeline say it. -/
theorem Stack.between_iff (x : Stack) : x.between = true ↔ x.driver = .compiled ∧ x.seam = none ∧ x.pos ≠ 0 := by
  simp [Stack.between, and_assoc]

/-- What a package reset leaves (R24). -/
theorem execPackageReset_spec (s : State) : ∃ t, exec .packageReset s = .next t ∧ t.todo = [.ev 0 .start] ∧ t.faults = [] ∧
    t.issue.active = false ∧ t.cur = s.cur.survive false :=
  ⟨_, rfl, rfl, rfl, rfl, rfl⟩

/-- Settles O55: Table 1.6 field by field, R25's waits and stops, R413's steps of a start, and R410's counter. -/
theorem resetsAndStart : Obligations.ResetsAndStart := by
  refine ⟨fun s => ⟨execPackageReset_spec s, fun d e => ?_, fun hs => ?_⟩,
    fun t hr hm => ⟨t.blowBit_whole, t.blowBit_first hr hm⟩, ?_⟩
  · dsimp only
    rw [exec_dieReset]
    simp only [← Stack.between_iff]
    refine ⟨fun hon hb => ⟨_, resetDie_clears _ _ _ _ hon hb, ?_⟩, fun hon hw => resetDie_waits _ _ _ _ hon hw,
      fun hon hbound hseam hrun => resetDie_stops _ _ _ _ hon hbound hseam hrun⟩
    have hframe := s.cur.clearDie_frame e d
    refine ⟨s.cur.core_clearDie e d, s.cur.cluster_clearDie e d, s.cur.die_clearDie e d, s.cur.stk_clearDie e d, ?_⟩
    obtain ⟨_, _, _, _, _, h⟩ := hframe
    rw [State.onCur_cur, h]
    exact ⟨rfl, rfl, rfl, rfl⟩
  · obtain ⟨hhub, hwallc, hcores, hclusters, hstks, hhbm, hkernels, hfailed, htier, hlink, hpowered, hgranted, hform, hfuses, hsvn,
      himage⟩ := s.cur.readied_spec (s.unit == 1)
    obtain ⟨⟨khub, kwallc, kcores, kclusters, kstks, khbm, kkernels, kfailed, kpowered, kgranted, kfuses⟩, hbad, hgood⟩ :=
      (s.cur.readied (s.unit == 1)).started_spec s.fresh hlink
    have hiff := (s.cur.readied (s.unit == 1)).trust.startFails_iff s.fresh
    rw [himage, hsvn, hfuses] at hiff
    rw [himage, hform] at hgood
    rw [htier] at hbad
    simp only [beq_iff_eq] at hhub hwallc
    refine ⟨_, execStart_eq s hs, rfl, rfl, rfl, rfl, rfl, kcores.trans hcores, kclusters.trans hclusters, kstks.trans hstks,
      khbm.trans hhbm, kkernels.trans hkernels, kfailed.trans hfailed, kpowered.trans hpowered, khub.trans hhub, kwallc.trans hwallc,
      fun h => kgranted.trans (hgranted h), kfuses.trans hfuses, fun h => hbad (hiff.2 h), fun h => hgood ?_⟩
    exact Bool.eq_false_iff.2 fun hf => h (hiff.1 hf)
  · exact ⟨fun _ => rfl, rfl, rfl, rfl, rfl, rfl, rfl, rfl, rfl, rfl, rfl, fun n => ite_self (c := (n == 0) = true) _, fun _ => rfl,
      fun n => by cases n <;> rfl, fun n => by cases n <;> rfl, fun _ => rfl, fun _ _ => rfl, rfl⟩

end Sys2Proof.Machine
end

section
/-! PROOFS. The end of a port (R366, R370): a state in which losing a port still takes a SEQ of it. -/

namespace Sys2Proof.Machine

/-- An access that a peer has sent through port 0 (R367). -/
def peerAccess : Access :=
  { id := 1, core := none, peer := some 0, ctx := 0, kind := .load, ea := 0, pa := 0, base := 0, cmp := false, size := 8, width := 3,
    data := 0, data2 := 0, bytes := [], lp := none, tag := 0, hub := 0, word := 0, acq := false, arrived := none, after := [],
    result := none }

/-- A module on whose list of accesses sent through port 0 stands the number of an access that came in through it. -/
def peerAwaitsItself : State :=
  { State.reset with cur := { Sys.reset with
      accesses := [peerAccess], link := { LinkState.reset with remotes := [{ id := 1, port := 0 }] } } }

/-- The loss of port 0 ends that access with status 3, and its answer to the peer takes the port's next SEQ. -/
theorem txSeq_loseAll_peerAwaitsItself : ((loseAll peerAwaitsItself).cur.port 0).txSeq = 1 := by decide +kernel

/-- Refutes O52: over all states, a port that has lost its signal need not keep its SEQ, as the statement has it. An access of a peer whose number is also among the accesses sent
through the port is answered through it while what was on the port is lost, and a port that is down still counts that flit. -/
theorem not_ports : ¬ Obligations.Ports := by
  intro h
  obtain ⟨-, -, -, -, -, ⟨t, hstep, -, hport, -⟩, -⟩ := h peerAwaitsItself
  have ht : loseAll peerAwaitsItself = t := Host.Outcome.next.inj hstep
  have hkept : ((loseAll peerAwaitsItself).cur.port 0).txSeq = 0 := by
    rw [ht]
    exact congrArg Port.txSeq hport
  exact absurd (txSeq_loseAll_peerAwaitsItself.symm.trans hkept) (by decide)

end Sys2Proof.Machine
end

section
/-! PROOFS. Host commands, housekeeping registers, SPDM and MCTP (R363, R394, R397, R406, R407, R411, R417 to R419). -/

namespace Sys2Proof

/-- A field of `n` bytes has `n` bytes. -/
@[simp] theorem length_natLe (n x : Nat) : (natLe n x).length = n := by
  induction n generalizing x with
  | zero => rfl
  | succ n ih => simp [natLe, ih]

/-- A byte read as a number. -/
theorem leNat_read_one (m : Mem) (a : Nat) : leNat (Mem.read m a 1) = (Mem.get m a).toNat := by
  simp [Mem.read, leNat]

/-- The elements of a value, by their places. -/
theorem getD_unpackN (w n x i : Nat) (h : i < n) : (unpackN w n x).getD i 0 = x / 2 ^ (w * i) % 2 ^ w := by
  induction n generalizing x i with
  | zero => exact absurd h (Nat.not_lt_zero i)
  | succ n ih =>
    cases i with
    | zero => simp [unpackN]
    | succ i =>
      rw [unpackN, List.getD_cons_succ, ih _ _ (Nat.lt_of_succ_lt_succ h), Nat.div_div_eq_div_mul, ← Nat.pow_add, Nat.mul_succ,
        Nat.add_comm w]

/-- An element that was packed reads back at its place. -/
theorem packN_div_mod (w : Nat) (xs : List Nat) (h : ∀ x ∈ xs, x < 2 ^ w) (i : Nat) (hi : i < xs.length) :
    packN w xs / 2 ^ (w * i) % 2 ^ w = xs.getD i 0 := by
  rw [← getD_unpackN w xs.length _ i hi, unpackN_packN w xs h]

end Sys2Proof

namespace Sys2Proof.Machine

/-! ### Requests that are carried out (R403 to R405, R411) -/

/-- Firmware hears a session when it serves requests and the session is open. -/
theorem State.hears_iff_heard (s : State) (n : Nat) : s.cur.hears n = true ↔ s.heard n := by
  simp [Sys.hears, Sys.serves, State.heard, and_assoc]

theorem Sys.serves_iff (y : Sys) : y.serves = true ↔ y.trust.recovery = false ∧ y.trust.scrubbing = none := by
  simp [Sys.serves]

theorem Sys.serves_eq_false_iff (y : Sys) : y.serves = false ↔ ¬ (y.trust.recovery = false ∧ y.trust.scrubbing = none) := by
  rw [← Sys.serves_iff, Bool.not_eq_true]

/-- What a table gives a verb and what the model gives it are the same. -/
structure VerbKind.Fits (v : VerbKind) (ok : Bool) (r : VerbRow) : Prop where
  host : (v.cls == .host) = r.host
  owner : (v.cls == .owner) = r.owner
  named : v.named = r.named
  tier : v.tier = r.tier
  early : v.early = r.early
  legal : ok = true ↔ r.legal

/-- A request that no check of its row bars is not turned away. -/
theorem Sys.turnedAway_none (s : State) (r : VerbRow) (v : VerbKind) (ok : Bool) (hv : v.Fits ok r) (hb : ∀ b ∈ s.barred r, ¬ b.1) :
    s.cur.turnedAway v r.req ok r.body.length = none := by
  simp only [State.barred, List.forall_mem_cons, ← hv.host, ← hv.owner, ← hv.named, ← hv.tier, ← hv.early, ← hv.legal] at hb
  obtain ⟨h1, h2, h5, h4, h3, -⟩ := hb
  have malformed : (r.req.reserved != 0 || r.req.len != r.body.length || !ok) = false := by
    simpa [not_or, and_assoc] using h1
  have forbidden : ((s.cur.trust.conf && (v.cls == .host || r.req.session == 0)) || (v.tier && s.cur.trust.form != 3)) = false := by
    rw [← Bool.not_eq_true]
    simpa using h2
  have sequence : (s.cur.restricted && !v.early) = false := by
    rw [← Bool.not_eq_true]
    simpa [Sys.restricted, Sys.sequencing, Option.isSome_iff_ne_none, or_assoc] using h5
  have missing : (v.named && !s.cur.hasCtx r.req.ctx.toNat) = false := by
    rw [Bool.and_eq_false_iff, Bool.not_eq_false']
    refine (Bool.eq_false_or_eq_true v.named).symm.imp_right fun hn => ?_
    have hthere := fun hc => h4 ⟨hn, hc⟩
    simpa [Sys.hasCtx, not_or, and_assoc] using hthere
  have stranger : (v.cls == .owner && r.req.session != 0 && !s.cur.ownedBy r.req.session r.req.ctx.toNat) = false := by
    rw [← Bool.not_eq_true]
    intro h
    simp only [Bool.and_eq_true, bne_iff_ne, ne_eq, Bool.not_eq_true', Sys.ownedBy, List.any_eq_false, beq_iff_eq] at h
    exact h3 ⟨by simpa using h.1.1, h.1.2, by simpa using h.2⟩
  simp only [Sys.turnedAway, malformed, forbidden, sequence, missing, stranger, Bool.false_eq_true, if_false]

/-- A request that firmware serves has its own effect. -/
theorem exec_served (s : State) (i : Instr) (r : VerbRow) (v : VerbKind) (ok : Bool) (f : Sys → Sys) (hr : verbRow s i = some r)
    (hx : exec i s = verbOn v r.req r.body ok s f) (hv : v.Fits ok r) (h : s.serving i) : exec i s = .next (s.onCur f) := by
  obtain ⟨q, hq, hheard, hb⟩ := h
  obtain rfl : r = q := Option.some.inj (hr.symm.trans hq)
  exact hx.trans (verb_done _ _ _ _ _ _ ((State.hears_iff_heard s _).2 hheard) (Sys.turnedAway_none s r v ok hv hb))

/-- Changes that do alike to the module in turn do alike to the state. -/
theorem State.onCur_congr (s : State) {f g : Sys → Sys} (h : f s.cur = g s.cur) : s.onCur f = s.onCur g :=
  congrArg (fun y => { s with cur := y }) h

/-- Two changes of the module are one. -/
theorem State.onCur_onCur (s : State) (f g : Sys → Sys) : (s.onCur f).onCur g = s.onCur fun y => g (f y) := rfl

/-! ### Pages by host command (R411, Table 20.1) -/

@[simp] theorem Sys.ctx_setCtx (y : Sys) (c : Nat) (x : Context) : (y.setCtx c x).ctx c = x := SMap.getD_put_same _ _ _ _

/-- Re-arming the manifest changes the supply's state alone. -/
theorem Sys.rearm_frame (y : Sys) : ∃ p, y.rearm = { y with power := p } := ⟨_, rfl⟩

/-- A frame that loses a mapping changes the list of frames alone. -/
theorem Sys.unref_frame (y : Sys) (a : Nat) : ∃ fs, y.unref a = { y with frames := fs } := by
  unfold Sys.unref
  cases SMap.get? y.frames a with
  | none => exact ⟨y.frames, rfl⟩
  | some f =>
    dsimp only
    split
    · exact ⟨_, rfl⟩
    · exact ⟨_, rfl⟩

/-- A frame that loses a mapping has one reference less, and without one it waits to be scrubbed. -/
theorem Sys.get?_frames_unref (y : Sys) (a : Nat) (f : Frame) (h : SMap.get? y.frames a = some f) :
    SMap.get? (y.unref a).frames a =
      some (if 1 < f.refc then { f with refc := f.refc - 1 } else { f with refc := 0, state := .scrubbing }) := by
  simp only [Sys.unref, h]
  split
  · exact SMap.get?_put_same _ _ _
  · exact SMap.get?_put_same _ _ _

/-- The frame that a page loses is the tier's when the page is retired there. -/
theorem Sys.losePage_eq (y : Sys) (p : Page) : y.losePage p = y.unref (p.tier.getD p.pa) := by
  unfold Sys.losePage
  cases p.tier with
  | none => rfl
  | some t => rfl

/-- A page's frame is lost and the manifest re-armed: frames and the supply's state change, nothing else. -/
theorem Sys.rearm_losePage (y : Sys) (p : Page) :
    ∃ m, (y.losePage p).rearm = { y with frames := (y.unref (p.tier.getD p.pa)).frames, power := m } := by
  obtain ⟨fs, hfs⟩ := y.unref_frame (p.tier.getD p.pa)
  rw [Sys.losePage_eq, hfs]
  exact Sys.rearm_frame { y with frames := fs }

/-- An invalidation takes the entries that overlap its range out of every die TLB. -/
theorem Sys.tlb_invalidate (y : Sys) (c va size d : Nat) :
    ((y.invalidate c va size).die d).tlb = (y.die d).tlb.filter fun e => !e.overlaps c va size := by
  show (SMap.getD (y.dies.map fun k => (k.1, (k.2.invalidate c va size).1)) d Die.reset).tlb = _
  rw [SMap.getD_map_val (fun _ (x : Die) => (x.invalidate c va size).1) y.dies d Die.reset rfl]
  rfl

/-- What UNMAP-PAGE leaves of an unlocked, unpinned page: no mapping, no translation, one reference less. -/
theorem unmapPage_done (y : Sys) (c va : Nat) (p : Page) (hp : y.pageAt c va = some p) (hva : p.va = va)
    (hlock : y.lockedIn c p.va (pageSize p.code) = false) (hpin : codePin p.code = false) : ∃ z, unmapPage y c va = (0, 0, z) ∧
    (z.ctx c).pages = (y.ctx c).pages.filter (fun q => q.va != p.va) ∧ z.hbm = y.hbm ∧ z.tier = y.tier ∧
    (∀ d e, e ∈ (z.die d).tlb ↔ e ∈ (y.die d).tlb ∧ ¬ (e.ctx = c ∧ e.va < p.va + pageSize p.code ∧ p.va < e.va + pageSize e.code)) ∧
    ∀ f, SMap.get? y.frames (p.tier.getD p.pa) = some f → SMap.get? z.frames (p.tier.getD p.pa) =
      some (if 1 < f.refc then { f with refc := f.refc - 1 } else { f with refc := 0, state := .scrubbing }) := by
  subst hva
  let w := (y.dropPage c p.va).invalidate c p.va (pageSize p.code)
  obtain ⟨m, hz⟩ := w.rearm_losePage p
  have hpages : (w.ctx c).pages = (y.ctx c).pages.filter (fun q => q.va != p.va) := by
    show ((y.dropPage c p.va).ctx c).pages = _
    rw [Sys.dropPage, Sys.ctx_setCtx]
  have htlb : ∀ d e, e ∈ (w.die d).tlb ↔
      e ∈ (y.die d).tlb ∧ ¬ (e.ctx = c ∧ e.va < p.va + pageSize p.code ∧ p.va < e.va + pageSize e.code) := fun d e => by
    have hdie : (y.dropPage c p.va).die d = y.die d := rfl
    rw [Sys.tlb_invalidate, List.mem_filter, hdie, Bool.not_eq_true', ← Bool.not_eq_true]
    simp only [TlbEntry.overlaps, Bool.and_eq_true, beq_iff_eq, decide_eq_true_eq, and_assoc]
  refine ⟨{ w with frames := (w.unref (p.tier.getD p.pa)).frames, power := m }, ?_, hpages, rfl, rfl, htlb, w.get?_frames_unref _⟩
  rw [unmapPage, hp]
  simp only [bne_self_eq_false, hlock, hpin, Bool.false_eq_true, if_false]
  exact congrArg (fun z => (0, 0, z)) hz

/-- UNMAP-PAGE of an address at which no page begins answers 4. -/
theorem unmapPage_absent (y : Sys) (c va : Nat) (h : ∀ p, y.pageAt c va = some p → p.va ≠ va) : unmapPage y c va = (4, 0, y) := by
  unfold unmapPage
  cases hp : y.pageAt c va with
  | none => rfl
  | some p => exact if_pos (bne_iff_ne.2 (h p hp))

/-- A page with a locked translation stays, with status 5. -/
theorem unmapPage_locked (y : Sys) (c va : Nat) (p : Page) (hp : y.pageAt c va = some p) (hva : p.va = va)
    (hlock : y.lockedIn c p.va (pageSize p.code) = true) : unmapPage y c va = (5, 0, y) := by
  subst hva
  simp [unmapPage, hp, hlock, refuse]

/-- A pinned page stays, with status 2. -/
theorem unmapPage_pinned (y : Sys) (c va : Nat) (p : Page) (hp : y.pageAt c va = some p) (hva : p.va = va)
    (hlock : y.lockedIn c p.va (pageSize p.code) = false) (hpin : codePin p.code = true) : unmapPage y c va = (2, 0, y) := by
  subst hva
  simp [unmapPage, hp, hlock, hpin, refuse]

/-- What firmware does for a queued UNMAP-PAGE. -/
theorem requestEffect_unmapPage (y : Sys) (r : PageReq) (n : Nat) (h : r.op = 0x21) :
    requestEffect y r n = unmapPage y r.ctx (fieldLe r.block 0 8) := by
  rw [requestEffect, h]
  rfl

/-- What firmware does for a queued SET-ATTR. -/
theorem requestEffect_setAttr (y : Sys) (r : PageReq) (n : Nat) (h : r.op = 0x22) :
    requestEffect y r n = attrSet y r.ctx (fieldLe r.block 0 8) (fieldLe r.block 8 8) n := by
  rw [requestEffect, h]
  rfl

/-- What MAP-PAGE does once its checks have passed: the frame is taken, the page stands in the context, the manifest is re-armed. -/
def Sys.mapped (y : Sys) (c va pa : Nat) (code : BitVec 16) : Sys :=
  ((y.takeFrame pa (pageSize code) c .mapped code).addPage c
    { va := va, pa := pa, code := code, state := .mapped, rtag := none, tier := none }).rearm

/-- A page that MAP-PAGE has mapped, and what it left alone. -/
theorem Sys.mapped_spec (y : Sys) (c va pa : Nat) (code : BitVec 16) :
    ((y.mapped c va pa code).ctx c).pages =
      (y.ctx c).pages ++ [{ va := va, pa := pa, code := code, state := .mapped, rtag := none, tier := none }] ∧
    SMap.get? (y.mapped c va pa code).frames pa =
      some { size := pageSize code, owner := c, refc := 1, state := .mapped, handle := 0, code := code } ∧
    (y.mapped c va pa code).hbm = y.hbm ∧ (y.mapped c va pa code).tier = y.tier ∧ (y.mapped c va pa code).dies = y.dies ∧
    (y.mapped c va pa code).cores = y.cores ∧ (y.mapped c va pa code).queues = y.queues := by
  refine ⟨?_, SMap.get?_put_same _ _ _, rfl, rfl, rfl, rfl, rfl⟩
  exact congrArg Context.pages (Sys.ctx_setCtx (y.takeFrame pa (pageSize code) c .mapped code) c _)

/-- MAP-PAGE: its answers in the order of its checks (Table 20.1). -/
theorem exec_mapPage (s : State) (h : Req) (b : Bytes) (hs : s.serving (.mapPage h b)) :
    let y := s.cur
    let c := h.ctx.toNat
    let va := fieldLe b 0 8
    let pa := fieldLe b 8 8
    let code : BitVec 16 := (BitVec.ofNat 16 (fieldLe b 16 8)) &&& 0x7FBF
    let size := pageSize code
    let bad := codeOk (fieldLe b 16 8) = false ∨ frameOk pa size = false ∨ va % size ≠ 0 ∨ 2 ^ 54 < va + size ∨
      codeRefused code pa = true ∨ y.overlaps c va size = true ∨ y.hasMemory pa = false
    let room := y.tableFull c = false ∧ y.mayRegister (if codeDclass code ≠ 0 then size else 0) = true
    (bad → exec (.mapPage h b) s = .next (s.replies 0x20 h 2 [])) ∧
    (¬ bad → y.isFree pa size = false → exec (.mapPage h b) s = .next (s.replies 0x20 h 4 [])) ∧
    (¬ bad → y.isFree pa size = true → ¬ room → exec (.mapPage h b) s = .next (s.replies 0x20 h 6 [])) ∧
    (¬ bad → y.isFree pa size = true → room →
      exec (.mapPage h b) s = .next ((s.onCur fun y => y.mapped c va pa code).replies 0x20 h 0 [])) := by
  have hdone := exec_served s (.mapPage h b) _ _ _ _ rfl rfl ⟨rfl, rfl, rfl, rfl, rfl, by simp [and_assoc]⟩ hs
  intro y c va pa code size bad room
  have hbad : (!codeOk (fieldLe b 16 8) || !frameOk pa size || va % size != 0 || decide (2 ^ 54 < va + size) || codeRefused code pa ||
      y.overlaps c va size || !y.hasMemory pa) = true ↔ bad := by
    simp [bad, or_assoc]
  have hroom : (y.tableFull c || !y.mayRegister (if codeDclass code != 0 then size else 0)) = false ↔ room := by
    simp [room]
  have hfree : (!y.isFree pa size) = true ↔ y.isFree pa size = false := by
    simp
  have answers : ∀ g : Sys → Sys, _ → exec (.mapPage h b) s = .next (s.onCur g) := fun g hg =>
    hdone.trans (congrArg Host.Outcome.next (State.onCur_congr s hg))
  refine ⟨fun h1 => answers _ (if_pos (hbad.2 h1)), fun h1 h2 => answers _ ?_, fun h1 h2 h3 => answers _ ?_,
    fun h1 h2 h3 => answers (fun y => (y.mapped c va pa code).respond 0x20 h 0 []) ?_⟩
  · exact (if_neg (mt hbad.1 h1)).trans (if_pos (hfree.2 h2))
  · exact (if_neg (mt hbad.1 h1)).trans
      ((if_neg (mt hfree.1 (Bool.not_eq_false _ ▸ h2))).trans (if_pos (Bool.of_not_eq_false (mt hroom.1 h3))))
  · exact (if_neg (mt hbad.1 h1)).trans
      ((if_neg (mt hfree.1 (Bool.not_eq_false _ ▸ h2))).trans (if_neg (Bool.eq_false_iff.1 (hroom.2 h3))))

/-- UNMAP-PAGE and SET-ATTR join the queue of page requests behind what has begun or arrived before them (R411, R412). -/
theorem Sys.queueCommand_eq (y : Sys) (op : Nat) (h : Req) (b : Bytes) :
    let earlier := fun (q : PageReq) => q.started || decide (q.hub ≤ y.trust.stamp)
    y.queueCommand op h b = { y with pageReqs := y.pageReqs.takeWhile earlier ++ [{
      hub := y.trust.stamp, req := some h, core := 640, ctx := h.ctx.toNat, op := op, block := b, lp := 0, tag := 0, ranges := [],
      acks := [], waits := [], dropped := 0, started := false }] ++ y.pageReqs.dropWhile earlier } := by
  intro earlier
  rw [List.append_assoc]
  rfl

/-! ### Clusters and slots (R27, R394) -/

/-- The mask without the bits of a number, and the digest record of what is left of it. -/
def Sys.unfail (y : Sys) (bits : Nat) : Sys :=
  let y := { y with failed := y.failed &&& ~~~(BitVec.ofNat 80 bits) }
  y.extend 0xFF 0 y.failedBytes

/-- CLEAR-FAILED clears bits of the mask and adds a digest record of the mask that is left. -/
theorem exec_clearFailed (s : State) (h : Req) (b : Bytes) (hs : s.serving (.clearFailed h b)) :
    ∃ u : State, exec (.clearFailed h b) s = .next (u.replies 0x23 h 0 []) ∧
      u = { s with cur := { s.cur with failed := u.cur.failed, trust := u.cur.trust } } ∧
      (∀ i < 80, u.cur.failed.getLsbD i = (s.cur.failed.getLsbD i && !(leNat b).testBit i)) ∧
      u.cur.trust.log = s.cur.trust.log ++ (natLe 2 0xFF ++ natLe 2 0 ++ natLe 4 10 ++ natLe 10 u.cur.failed.toNat) ∧
      u.cur.trust.cdseq = s.cur.trust.cdseq + 1 := by
  have hdone := exec_served s (.clearFailed h b) _ _ _ _ rfl rfl ⟨rfl, rfl, rfl, rfl, rfl, by simp⟩ hs
  refine ⟨s.onCur fun y => y.unfail (leNat b), hdone, rfl, fun i hi => ?_, ?_, rfl⟩
  · show (s.cur.failed &&& ~~~(BitVec.ofNat 80 (leNat b))).getLsbD i = _
    simp only [BitVec.getLsbD_and, BitVec.getLsbD_not, BitVec.getLsbD_ofNat, hi, decide_true, Bool.true_and]
  · show _ ++ (natLe 2 0xFF ++ natLe 2 0 ++ natLe 4 (natLe 10 _).length ++ _) = _
    rw [length_natLe]
    rfl

/-- What READ-SLOT answers (Table 20.1, R419). -/
def Sys.slotAnswer (y : Sys) (h : Req) (n off len : Nat) : Sys :=
  if 1 < n then y.respond 0x24 h 4 []
  else if y.trust.conf && !inHeader off len then y.respond 0x24 h 2 []
  else if y.slotState n == 1 || y.slotState n == 2 || y.slotState n == 5 then y.respond 0x24 h 0 (y.slotRead n off len)
  else y.respond 0x24 h 4 []

/-- READ-SLOT is a verb of the host, or over MCTP in standard mode of any session. -/
theorem exec_readSlot_eq (s : State) (h : Req) (b : Bytes) (hserves : s.cur.serves = true)
    (hmode : (s.unit == 1 && s.cur.trust.conf) = false) :
    exec (.readSlot h b) s = verbOn ⟨0x24, if s.unit == 1 then .any else .host, false, true, false⟩ h b
      (b.length == 13 && decide (fieldLe b 9 4 ≤ 4032 && fieldLe b 1 8 + fieldLe b 9 4 ≤ 0x1000000)) s
      fun y => y.slotAnswer h (fieldLe b 0 1) (fieldLe b 1 8) (fieldLe b 9 4) := by
  show execReadSlot h b s = _
  simp only [execReadSlot, hserves, hmode]
  rfl

/-- READ-SLOT, where it is served: a slot that is draining, sealed or rejected is read (log 119). -/
theorem exec_readSlot (s : State) (h : Req) (b : Bytes) (hs : s.serving (.readSlot h b)) :
    let n := fieldLe b 0 1
    let base := 0x2BC00000000 + n * 0x1000000
    let state := leNat (Mem.read s.cur.tier base 1)
    exec (.readSlot h b) s = .next (if 1 < n then s.replies 0x24 h 4 []
      else if state = 1 ∨ state = 2 ∨ state = 5 then s.replies 0x24 h 0 (Mem.read s.cur.tier (base + fieldLe b 1 8) (fieldLe b 9 4))
      else s.replies 0x24 h 4 []) := by
  obtain ⟨r, hr, ⟨hrecovery, hscrub, -⟩, hbar⟩ := id hs
  have hmode : ¬ (s.unit = 1 ∧ s.cur.trust.conf = true) := fun hm => by
    rw [verbRow, if_pos hm] at hr
    exact absurd hr (by simp)
  have hrow := hr
  rw [verbRow, if_neg hmode] at hrow
  obtain rfl := Option.some.inj hrow
  have hconf : s.cur.trust.conf = false := by
    refine Bool.eq_false_iff.2 fun hc => hbar _ (List.mem_cons_of_mem _ List.mem_cons_self) (.inl ⟨hc, .inl ?_⟩)
    exact bne_iff_ne.2 fun hu => hmode ⟨hu, hc⟩
  have hfits : VerbKind.Fits ⟨0x24, if s.unit == 1 then .any else .host, false, true, false⟩
      (b.length == 13 && decide (fieldLe b 9 4 ≤ 4032 && fieldLe b 1 8 + fieldLe b 9 4 ≤ 0x1000000))
      ⟨0x24, s.unit != 1, false, false, true, false, h, b,
        b.length = 13 ∧ fieldLe b 9 4 ≤ 4032 ∧ fieldLe b 1 8 + fieldLe b 9 4 ≤ 0x1000000⟩ := by
    refine ⟨?_, ?_, rfl, rfl, rfl, by simp⟩
    · by_cases hu : s.unit = 1 <;> simp [hu]
    · by_cases hu : s.unit = 1 <;> simp [hu]
  have hdone := exec_served s _ _ _ _ _ hr (exec_readSlot_eq s h b ((Sys.serves_iff _).2 ⟨hrecovery, hscrub⟩) (by simp [hconf])) hfits hs
  intro n base state
  have hheld : (s.cur.slotState n == 1 || s.cur.slotState n == 2 || s.cur.slotState n == 5) = true ↔ state = 1 ∨ state = 2 ∨ state = 5 := by
    simp [Sys.slotState, Sys.slotRead, slotBase, state, base, or_assoc]
  have hanswer : s.cur.slotAnswer h n (fieldLe b 1 8) (fieldLe b 9 4) = if 1 < n then s.cur.respond 0x24 h 4 []
      else if state = 1 ∨ state = 2 ∨ state = 5 then s.cur.respond 0x24 h 0 (Mem.read s.cur.tier (base + fieldLe b 1 8) (fieldLe b 9 4))
      else s.cur.respond 0x24 h 4 [] := by
    simp only [Sys.slotAnswer, hconf, Bool.false_and, Bool.false_eq_true, if_false, hheld]
    rfl
  refine hdone.trans (congrArg Host.Outcome.next ?_)
  refine (congrArg (fun z => { s with cur := z }) hanswer).trans ?_
  split
  · rfl
  · split
    · rfl
    · rfl

/-! ### Housekeeping registers (R417 to R419, Tables 20.3 to 20.5) -/

/-- The first status byte of a slot, as a byte of the tier. -/
theorem Sys.slotState_lt (y : Sys) (n : Nat) : y.slotState n < 256 := by
  rw [Sys.slotState, Sys.slotRead, leNat_read_one]
  exact BitVec.isLt _

theorem Sys.slotFails_lt (y : Sys) (n : Nat) : y.slotFails n < 256 := by
  rw [Sys.slotFails, Sys.slotRead, leNat_read_one]
  exact BitVec.isLt _

/-- HKID: the form, the mode, the interface and the firmware's level. -/
theorem Sys.hkReg_id (y : Sys) (n : Nat) :
    (y.hkReg 0x00 n).toNat = y.trust.form % 4 + (if y.trust.conf then 256 else 0) + 0x2000 + 0x104 * 2 ^ 16 := by
  have hlevel : Config.fwLevel.toNat = 0x104 := rfl
  have hform : y.trust.form % 4 < 4 := Nat.mod_lt _ (by decide)
  show (BitVec.ofNat 64 (Config.fwLevel.toNat * 2 ^ 16 + 2 * 2 ^ 12 + (if y.trust.conf then 256 else 0) + y.trust.form % 4)).toNat = _
  rw [BitVec.toNat_ofNat, hlevel]
  split <;> omega

/-- HKPWR: its low half is the state of the supply. -/
theorem Sys.hkReg_supply (y : Sys) (n : Nat) : (y.hkReg 0x18 n).toNat % 2 ^ 16 = if y.power.forced then 4 else match y.power.supply with
    | .normal => 0
    | .limited => 1
    | .sag => 2
    | .fail => 3 := by
  have hlow : ∀ state : Nat, state < 5 →
      (BitVec.ofNat 64 (y.power.granted % 2 ^ 12 * 2 ^ 32 + y.power.reserve % 2 ^ 16 * 2 ^ 16 + state)).toNat % 2 ^ 16 = state := by
    intro state h
    rw [BitVec.toNat_ofNat]
    omega
  unfold Sys.hkReg
  dsimp only
  cases y.power.forced
  case true => exact hlow 4 (by decide)
  case false =>
    cases y.power.supply
    case normal => exact hlow 0 (by decide)
    case limited => exact hlow 1 (by decide)
    case sag => exact hlow 2 (by decide)
    case fail => exact hlow 3 (by decide)

/-- HKCECC: the four counts of corrected errors, 16 bits each. -/
theorem Sys.hkReg_ecc (y : Sys) (n : Nat) (hlen : y.ecc.length = 4) (hc : ∀ c ∈ y.ecc, c < 2 ^ 16) (i : Nat) (hi : i < 4) :
    (y.hkReg 0x30 n).toNat / 2 ^ (16 * i) % 2 ^ 16 = y.ecc.getD i 0 := by
  have hlt : packN 16 y.ecc < 2 ^ 64 := by
    have h := packN_lt 16 y.ecc
    rwa [hlen] at h
  show (BitVec.ofNat 64 (packN 16 y.ecc)).toNat / 2 ^ (16 * i) % 2 ^ 16 = _
  rw [BitVec.toNat_ofNat, Nat.mod_eq_of_lt hlt]
  exact packN_div_mod 16 y.ecc hc i (hlen ▸ hi)

/-- HKSLOT: STATE and FAILCNT of both slots. -/
theorem Sys.hkReg_slots (y : Sys) (n : Nat) : (y.hkReg 0x38 n).toNat =
    leNat (Mem.read y.tier 0x2BC00000000 1) + 2 ^ 8 * leNat (Mem.read y.tier 0x2BC00000001 1) +
      2 ^ 16 * leNat (Mem.read y.tier 0x2BC01000000 1) + 2 ^ 24 * leNat (Mem.read y.tier 0x2BC01000001 1) := by
  have hs0 := y.slotState_lt 0
  have hf0 := y.slotFails_lt 0
  have hs1 := y.slotState_lt 1
  have hf1 := y.slotFails_lt 1
  show (BitVec.ofNat 64 (y.slotState 0 + 2 ^ 8 * y.slotFails 0 + 2 ^ 16 * y.slotState 1 + 2 ^ 24 * y.slotFails 1)).toNat =
    y.slotState 0 + 2 ^ 8 * y.slotFails 0 + 2 ^ 16 * y.slotState 1 + 2 ^ 24 * y.slotFails 1
  rw [BitVec.toNat_ofNat]
  omega

/-- From 0x40 on the registers are those of the error log. -/
theorem Sys.hkReg_high (y : Sys) (n off : Nat) (h : 0x40 ≤ off) :
    y.hkReg off n = if off < 0x80 && off % 8 == 0 then y.trust.hklog.getD ((off - 0x40) / 8) 0 else 0 := by
  unfold Sys.hkReg
  dsimp only
  split
  iterate 8 exact absurd h (by decide)
  simp [h]

/-- HKLOG: the eight entries of the error log. -/
theorem Sys.hkReg_log (y : Sys) (n i : Nat) (hi : i < 8) : y.hkReg (0x40 + 8 * i) n = y.trust.hklog.getD i 0 := by
  have hin : (decide (0x40 + 8 * i < 0x80) && (0x40 + 8 * i) % 8 == 0) = true := by
    simp only [Bool.and_eq_true, decide_eq_true_eq, beq_iff_eq]
    omega
  have hplace : (0x40 + 8 * i - 0x40) / 8 = i := by omega
  rw [Sys.hkReg_high _ _ _ (Nat.le_add_right _ _), if_pos hin, hplace]

/-- No register stands from 0x80 on. -/
theorem Sys.hkReg_above (y : Sys) (n off : Nat) (h : 0x80 ≤ off) : y.hkReg off n = 0 := by
  rw [Sys.hkReg_high _ _ _ (by omega), if_neg]
  simp only [Bool.and_eq_true, decide_eq_true_eq]
  omega

/-! ### SPDM and MCTP (R397, R406, R407, R419) -/

/-- In an open session a message travels enciphered, and in one that has ended nothing does (R397). -/
theorem Sys.secured_session (y : Sys) (session : Nat) (bs : Bytes) (h : session ≠ 0) :
    y.secured session bs = match y.trust.sessions.find? fun x => x.id == session with
      | none => []
      | some x => x.secured (y.trust.out.filter fun r => r.session == session).length bs := by
  have hs : (session == 0) = false := by simpa using h
  rw [Sys.secured, hs, if_neg Bool.false_ne_true]
  cases y.trust.sessions.find? fun x => x.id == session <;> rfl

/-- READ-HK (R419): nothing from an image that serves no requests, status 5 during a sequence, else the registers. -/
theorem exec_readHk (s : State) (off n : Nat) :
    (s.cur.serves = false → exec (.readHk off n) s = .next s) ∧
    (s.cur.serves = true → s.cur.restricted = true → exec (.readHk off n) s = .next (s.onCur fun y => y.answer 0 (natLe 2 5))) ∧
    (s.cur.serves = true → s.cur.restricted = false → exec (.readHk off n) s = .next ({ s with fresh := s.fresh + 16 }.onCur fun y =>
      y.answer 0 ((List.range (Nat.min n 16)).flatMap fun i => natLe 8 (s.cur.hkReg (off + 8 * i) (s.fresh + i)).toNat))) := by
  refine ⟨fun h => ?_, fun h hr => ?_, fun h hr => ?_⟩ <;> show execReadHk off n s = _
  · simp [execReadHk, h]
  · simp [execReadHk, h, hr]
  · simp [execReadHk, h, hr]
    rfl

/-- The session that a key exchange opens, with its free key and initial value. -/
def Sys.newSession (y : Sys) (free : Nat) (key : Option Bytes) : Session :=
  { id := y.trust.nextSession, owner := key.map sha256, transcript := free, key := fixedLen 32 (Config.sessionKey free),
    iv := fixedLen 12 (Config.sessionIv free) }

/-- KEY_EXCHANGE (R406): ERROR before a negotiation, Busy beyond 32 sessions, else a session with keys of its own. -/
theorem exec_keyExchange (s : State) (who : Nat) (key : Option Bytes) :
    (s.cur.serves = false → exec (.keyExchange who key) s = .next s) ∧
    (s.cur.serves = true → who ∉ s.cur.trust.negotiated →
      exec (.keyExchange who key) s = .next (s.onCur fun y => y.answer 0 (spdmError 4))) ∧
    (s.cur.serves = true → who ∈ s.cur.trust.negotiated → 32 ≤ s.cur.trust.sessions.length →
      exec (.keyExchange who key) s = .next (s.onCur fun y => y.answer 0 (spdmError 3))) ∧
    (s.cur.serves = true → who ∈ s.cur.trust.negotiated → s.cur.trust.sessions.length < 32 →
      exec (.keyExchange who key) s = .next ({ s with
        fresh := s.fresh + 1
        cur := { s.cur with trust := { s.cur.trust with
          sessions := s.cur.trust.sessions ++ [s.cur.newSession s.fresh key]
          nextSession := s.cur.trust.nextSession + 1 } } }.onCur fun y =>
        y.answer 0 (natLe 1 0x13 ++ natLe 1 0x64 ++ natLe 2 0 ++ natLe 2 s.cur.trust.nextSession))) := by
  refine ⟨fun h => ?_, fun h hw => ?_, fun h hw hl => ?_, fun h hw hl => ?_⟩ <;> show execKeyExchange who key s = _
  · simp [execKeyExchange, h]
  · simp [execKeyExchange, h, hw]
  · simp [execKeyExchange, h, hw, hl]
  · simp [execKeyExchange, h, hw, Nat.not_le.2 hl]
    rfl

/-- A text cut or filled to a length has it. -/
theorem length_fixedLen (n : Nat) (bs : Bytes) : (fixedLen n bs).length = n := by
  simp [fixedLen]

/-- GET_MEASUREMENTS (R407): the contents of the index with the nonce, signed by the key of R400; ERROR for an index that has none. -/
theorem exec_getMeasurements (s : State) (session index : Nat) (nonce : Bytes) (h : s.heard session) :
    exec (.getMeasurements session index nonce) s = .next (s.onCur fun y => y.answer session (match y.measurement index with
      | some m => m ++ nonce ++ y.aliasSign (m ++ nonce)
      | none => spdmError 1)) := by
  show execGetMeasurements session index nonce s = _
  rw [execGetMeasurements, (State.hears_iff_heard s session).2 h, Bool.not_true, if_neg Bool.false_ne_true]
  refine congrArg Host.Outcome.next (State.onCur_congr s ?_)
  cases s.cur.measurement index <;> rfl

theorem exec_getMeasurements_unheard (s : State) (session index : Nat) (nonce : Bytes) (h : ¬ s.heard session) :
    exec (.getMeasurements session index nonce) s = .next s := by
  have hh : s.cur.hears session = false := Bool.eq_false_iff.2 (mt (State.hears_iff_heard s session).1 h)
  show execGetMeasurements session index nonce s = _
  rw [execGetMeasurements, hh]
  rfl

/-- The capabilities as one number. -/
theorem spdmCapabilities_eq : spdmCapabilities = 0x223D6 := rfl

/-- The module with the list of requesters with which algorithms stand agreed. -/
def Sys.agreed (y : Sys) (l : List Nat) : Sys := { y with trust := { y.trust with negotiated := l } }

/-- The negotiation with a requester (R406): without SPDM 1.3 and every algorithm it stands agreed with this one no longer; with them it is
answered with the capabilities, the agreement and the certificate chain. -/
theorem exec_algorithmNegotiation (s : State) (who : Nat) (v : BitVec 8) (base keying : Bool × Bool) :
    let others := s.cur.trust.negotiated.filter (· ≠ who)
    let ok := v = 0x13 ∧ base = (true, true) ∧ keying = (true, true)
    (s.cur.serves = false → exec (.algorithmNegotiation who v base keying) s = .next s) ∧
    (s.cur.serves = true → ¬ ok → exec (.algorithmNegotiation who v base keying) s = .next (s.onCur fun y =>
      (y.agreed others).answer 0 (spdmError (if v = 0x13 then 1 else 0x41)))) ∧
    (s.cur.serves = true → ok → exec (.algorithmNegotiation who v base keying) s = .next
      ((((s.onCur fun y => y.agreed (others ++ [who])).onCur fun y =>
        y.answer 0 (natLe 1 0x13 ++ natLe 1 0x61 ++ natLe 2 0 ++ natLe 4 0x223D6)).onCur fun y =>
        y.answer 0 (natLe 1 0x13 ++ natLe 1 0x63 ++ natLe 2 0)).onCur fun y =>
        y.answer 0 (natLe 1 0x13 ++ natLe 1 0x02 ++ natLe 2 0 ++ s.cur.certificateChain))) := by
  intro others ok
  have hok : (v == 0x13 && base.1 && base.2 && keying.1 && keying.2) = true ↔ ok := by
    simp [ok, Prod.ext_iff, and_assoc]
  have hothers : s.cur.trust.negotiated.filter (· != who) = others :=
    List.filter_congr fun n _ => Bool.eq_iff_iff.2 (by simp)
  refine ⟨fun h => ?_, fun h hn => ?_, fun h hy => ?_⟩ <;> show execAlgorithmNegotiation who v base keying s = _
  · simp [execAlgorithmNegotiation, h]
  · have hbad := Bool.eq_false_iff.2 (mt hok.1 hn)
    simp only [execAlgorithmNegotiation, h, hbad, hothers, beq_iff_eq]
    rfl
  · simp only [execAlgorithmNegotiation, h, hok.2 hy, hothers, spdmCapabilities_eq, Bool.not_true, Bool.false_eq_true, if_false,
      State.onCur_onCur]
    exact congrArg Host.Outcome.next (State.onCur_congr s rfl)

/-- MCTP control messages are answered by an image that serves requests (R419). -/
theorem exec_mctpControlMessage (s : State) (m : Bytes) : exec (.mctpControlMessage m) s =
    .next (if s.cur.trust.recovery || s.cur.trust.scrubbing.isSome then s else s.onCur fun y => y.answer 0 (Config.mctpAnswer m)) := by
  show Host.Outcome.next (if s.cur.serves then s.onCur fun y => y.answer 0 (Config.mctpAnswer m) else s) = _
  have hserves : s.cur.serves = !(s.cur.trust.recovery || s.cur.trust.scrubbing.isSome) := by
    simp [Sys.serves]
  rw [hserves]
  cases (s.cur.trust.recovery || s.cur.trust.scrubbing.isSome) <;> rfl

/-! ### The obligation -/

/-- Settles O58: each host command by its row and its checks, the registers field by field, and the answers of SPDM and MCTP. -/
theorem hostCommandsAndManagement : Obligations.HostCommandsAndManagement := by
  intro s h b
  have hserves := Sys.serves_iff s.cur
  have hsilent := Sys.serves_eq_false_iff s.cur
  refine ⟨fun hs => ?_, fun hs => ?_, fun hs => ?_, fun y r n hb hc => ⟨fun hop => ?_, fun hop hno => ?_, fun hop p hp hva => ?_⟩,
    exec_clearFailed s h b, exec_readSlot s h b, fun off n => ?_, fun n => ?_, fun who key => ?_, fun session index nonce => ?_,
    fun who v base keying => ?_, s.cur.secured_session, exec_mctpControlMessage s⟩
  · obtain ⟨h2, h4, h6, h0⟩ := exec_mapPage s h b hs
    exact ⟨h2, h4, h6, fun hbad hfree hroom => ⟨_, h0 hbad hfree hroom, Sys.mapped_spec _ _ _ _ _⟩⟩
  · exact (exec_served s (.unmapPage h b) _ _ _ _ rfl rfl ⟨rfl, rfl, rfl, rfl, rfl, by simp⟩ hs).trans
      (congrArg Host.Outcome.next (State.onCur_congr s (s.cur.queueCommand_eq 0x21 h b)))
  · exact (exec_served s (.setAttr h b) _ _ _ _ rfl rfl ⟨rfl, rfl, rfl, rfl, rfl, by simp⟩ hs).trans
      (congrArg Host.Outcome.next (State.onCur_congr s (s.cur.queueCommand_eq 0x22 h b)))
  · rw [requestEffect_setAttr y r n hop, hb, hc]
  · rw [requestEffect_unmapPage y r n hop, hb, hc]
    exact unmapPage_absent y _ _ hno
  · rw [requestEffect_unmapPage y r n hop, hb, hc]
    exact ⟨unmapPage_locked y _ _ p hp hva, unmapPage_pinned y _ _ p hp hva, unmapPage_done y _ _ p hp hva⟩
  · obtain ⟨hdeaf, hbusy, hread⟩ := exec_readHk s off n
    have hrestricted : s.cur.restricted = true ↔ s.cur.sequencing = true ∨ s.cur.trust.barred = true := by
      simp [Sys.restricted]
    refine ⟨fun hno => hdeaf (hsilent.2 hno), fun hyes hr => hbusy (hserves.2 hyes) (hrestricted.2 hr), fun hyes hq hbar => ?_⟩
    refine hread (hserves.2 hyes) (Bool.eq_false_iff.2 fun hr => ?_)
    simpa [hq, hbar] using hrestricted.1 hr
  · exact ⟨rfl, rfl, s.cur.hkReg_log n, s.cur.hkReg_above n, s.cur.hkReg_ecc n, s.cur.hkReg_id n, s.cur.hkReg_supply n,
      s.cur.hkReg_slots n⟩
  · obtain ⟨hdeaf, hearly, hbusy, hopen⟩ := exec_keyExchange s who key
    exact ⟨fun hno => hdeaf (hsilent.2 hno), fun hyes => hearly (hserves.2 hyes), fun hyes => hbusy (hserves.2 hyes),
      fun hyes hw hl => ⟨fixedLen 32 (Config.sessionKey s.fresh), fixedLen 12 (Config.sessionIv s.fresh), length_fixedLen 32 _,
        length_fixedLen 12 _, hopen (hserves.2 hyes) hw hl⟩⟩
  · refine ⟨exec_getMeasurements_unheard s session index nonce, fun hh => (exec_getMeasurements s session index nonce hh).trans ?_⟩
    refine congrArg Host.Outcome.next (State.onCur_congr s (congrArg (s.cur.answer session) ?_))
    match index with
    | 0 => rfl
    | 1 => rfl
    | 2 => rfl
    | 3 => rfl
    | 4 => rfl
    | _ + 5 => rfl
  · obtain ⟨hdeaf, hbad, hgood⟩ := exec_algorithmNegotiation s who v base keying
    refine ⟨fun hno => hdeaf (hsilent.2 hno), fun hyes hn => (hbad (hserves.2 hyes) hn).trans ?_, fun hyes => hgood (hserves.2 hyes)⟩
    exact congrArg (fun l => Host.Outcome.next (s.onCur fun y => (y.agreed l).answer 0 (spdmError (if v = 0x13 then 1 else 0x41))))
      (List.append_nil _).symm

end Sys2Proof.Machine
end

section
/-! PROOFS. The encoding (R54, R63, R76, R78, R82, R84, R86): the encoder and the decoder are inverse to each other in every space. -/

namespace Sys2Proof

/-! ### Fields of a concatenation -/

/-- The field of `n` bits at bit `s` of a word is `x`. -/
def Fills {n : Nat} (w : Word32) (s : Nat) (x : BitVec n) : Prop := x = w.extractLsb' s n

theorem fills_extract (w : Word32) (s n : Nat) : Fills w s (w.extractLsb' s n) := rfl

theorem fills_append {m n : Nat} (w : Word32) (s : Nat) (a : BitVec m) (b : BitVec n) :
    Fills w s (a ++ b) ↔ Fills w (s + n) a ∧ Fills w s b := by
  have cut : w.extractLsb' s (m + n) = w.extractLsb' (s + n) m ++ w.extractLsb' s n :=
    (BitVec.extractLsb'_append_extractLsb'_eq_extractLsb' rfl).symm
  rw [Fills, cut]
  constructor
  · intro h
    have high := congrArg (BitVec.extractLsb' n m) h
    have low := congrArg (BitVec.extractLsb' 0 n) h
    simp only [BitVec.extractLsb'_append_eq_left, BitVec.extractLsb'_append_eq_right] at high low
    exact ⟨high, low⟩
  · rintro ⟨ha, hb⟩
    rw [ha, hb]

/-- Fields that fill a whole word are the word. -/
theorem Fills.whole {w x : Word32} (h : Fills w 0 x) : some x = some w := by
  rw [Fills, BitVec.extractLsb'_eq_self] at h
  rw [h]

/-- What is known of the bits of a word: under the mask `m` it is `v`. -/
def Known (w m v : Word32) : Prop := w &&& m = v

theorem Known.or {w m v m' v' : Word32} (h : Known w m v) (h' : Known w m' v') : Known w (m ||| m') (v ||| v') := by
  subst h h'
  exact BitVec.and_or_distrib_left

theorem known_field {w : Word32} {s n k : Nat} (h : (w.extractLsb' s n).toNat = k) :
    Known w (BitVec.ofNat 32 ((2 ^ n - 1) * 2 ^ s)) (BitVec.ofNat 32 (k * 2 ^ s)) := by
  subst h
  apply BitVec.eq_of_getLsbD_eq
  intro i hi
  simp only [BitVec.getLsbD_and, BitVec.getLsbD_ofNat, BitVec.extractLsb'_toNat, Nat.testBit_mul_two_pow, Nat.testBit_two_pow_sub_one,
    Nat.testBit_mod_two_pow, Nat.testBit_shiftRight, hi, decide_true, Bool.true_and, BitVec.testBit_toNat]
  by_cases hs : s ≤ i
  · rw [Nat.add_sub_cancel' hs]
    simp only [hs, decide_true, Bool.true_and, Bool.and_comm]
  · simp only [hs, decide_false, Bool.false_and, Bool.and_false]

/-- A constant stands in a word where the bits of its place are known and are its own. -/
theorem Known.fills {w m v : Word32} (h : Known w m v) {s n : Nat} (c : BitVec n) (hm : m.extractLsb' s n = BitVec.allOnes n)
    (hv : v.extractLsb' s n = c) : Fills w s c := by
  rw [Fills, ← hv, ← h, BitVec.extractLsb'_and, hm, BitVec.and_allOnes]

/-- The bits of `x`, at bit `s` of a word, that the mask `r` of the word covers are zero. -/
def clearAt {n : Nat} (r : Word32) (s : Nat) (x : BitVec n) : Bool := x &&& r.extractLsb' s n == 0#n

theorem clearAt_zero_iff (r w : Word32) : clearAt r 0 w = true ↔ w &&& r = 0 := by
  rw [clearAt, BitVec.extractLsb'_eq_self, beq_iff_eq]
  rfl

theorem clearAt_append {m n : Nat} (r : Word32) (s : Nat) (a : BitVec m) (b : BitVec n) :
    clearAt r s (a ++ b) = (clearAt r (s + n) a && clearAt r s b) := by
  rw [Bool.eq_iff_iff, Bool.and_eq_true]
  simp only [clearAt, beq_iff_eq]
  have cut : r.extractLsb' s (m + n) = r.extractLsb' (s + n) m ++ r.extractLsb' s n :=
    (BitVec.extractLsb'_append_extractLsb'_eq_extractLsb' rfl).symm
  rw [cut, BitVec.and_append]
  constructor
  · intro h
    have high := congrArg (BitVec.extractLsb' n m) h
    have low := congrArg (BitVec.extractLsb' 0 n) h
    simp only [BitVec.extractLsb'_append_eq_left, BitVec.extractLsb'_append_eq_right, BitVec.extractLsb'_zero] at high low
    exact ⟨high, low⟩
  · rintro ⟨ha, hb⟩
    rw [ha, hb, BitVec.zero_append_zero]

/-- What no mask covers is clear. -/
theorem clearAt_free {n : Nat} {r : Word32} {s : Nat} (x : BitVec n) (h : r.extractLsb' s n = 0#n) : clearAt r s x = true := by
  rw [clearAt, h, BitVec.and_zero, beq_self_eq_true]

/-- A field below the seam of a concatenation is a field of its low part. -/
theorem field_append_low {m n : Nat} (a : BitVec m) (b : BitVec n) (s l : Nat) (h : s + l ≤ n) :
    (a ++ b).extractLsb' s l = b.extractLsb' s l := BitVec.extractLsb'_append_eq_of_add_le h

/-- A field above the seam of a concatenation is a field of its high part. -/
theorem field_append_high {m n : Nat} (a : BitVec m) (b : BitVec n) (s l : Nat) (h : n ≤ s) :
    (a ++ b).extractLsb' s l = a.extractLsb' (s - n) l := BitVec.extractLsb'_append_eq_of_le h

/-! ### Words of a bundle (R76, Tables 4.1 to 4.5) -/

/-- A word that is read as an instruction, with its reserved bits and its selector zero, is the one-word form of that instruction:
the constants of the form stand where the major opcode, the minor opcode and the reserved bits are known. -/
theorem encodeWord_of_parseWord {w r : Word32} {i : Instr} (hs : (w.extractLsb' 0 2).toNat = 0) (h : parseWord w = some (i, r))
    (hr : w &&& r = 0) : encodeWord i = some w := by
  unfold parseWord at h
  split at h
  case h_56 => cases h
  all_goals
    have K0 := (known_field hs).or (known_field (by assumption))
    dsimp only [parse00, parse01, parse02, parse03, parse04, parse05, parse06, parse07, parse08, parse09, parse0A, parse0B, parse0C,
      parse0D, parse0E, parse0F, parse10, parse11, parse12, parse13, parse14, parse15, parse16, parse17, parse18, parse19, parse1A,
      parse1B, parse1C, parse1D, parse1E, parse1F, parse20, parse21, parse22, parse23, parse24, parse25, parse26, parse27, parse28,
      parse29, parse2C, parse2D, parse2E, parse2F, parse30, parse34, parse38, parse39, parse3A, parse3B, parse3C, parse3D, parse3E] at h
  any_goals split at h
  all_goals have K1 := K0.or (known_field (by assumption))
  any_goals split at h
  all_goals
    cases h <;>
    (have K := (K1.or (known_field (by assumption))).or (show Known w _ 0 from hr)
     refine Fills.whole ?_
     simp (disch := decide) only [fills_append, fills_extract, K.fills, and_self])

/-- Whether the instruction is a PFX word (R63). -/
def Instr.isPfx : Instr → Bool
  | .pfx .. => true
  | _ => false

/-- The one-word form of an instruction other than a PFX has selector 0, is read as that instruction, and has its reserved bits
zero: the major opcode picks the row's parser, and every field it reads is a part of the concatenation. -/
theorem parseWord_of_encodeWord {w x : Word32} {i : Instr} (hx : x = w) (h : encodeWord i = some x) (hp : i.isPfx = false) :
    w.extractLsb' 0 2 = 0#2 ∧ ∃ r, parseWord w = some (i, r) ∧ clearAt r 0 w = true := by
  cases i <;> cases h
  case pfx => cases hp
  all_goals
    have hm := congrArg (fun x : Word32 => (x.extractLsb' 2 6).toNat) hx
    simp (disch := decide) only [field_append_low, BitVec.reduceExtractLsb', BitVec.reduceToNat] at hm
    unfold parseWord
    rw [← hm, ← hx]
    conv => arg 2; arg 1; ext r; arg 1; lhs; whnf
    simp (disch := decide) only [field_append_low, field_append_high, BitVec.getLsbD_eq_extractLsb', BitVec.reduceBEq,
      Bool.false_eq_true, if_false, BitVec.extractLsb'_eq_self, Nat.reduceSub, BitVec.reduceExtractLsb', BitVec.reduceToNat,
      Option.some.injEq, Prod.mk.injEq, true_and, exists_eq_left', clearAt_append, clearAt_free, Bool.and_eq_true, and_self] <;> decide

/-! ### The other spaces (R82, R84, R86, Tables 4.6 to 4.8) -/

theorem encode_of_encodeMx {i : Instr} {w : Word} (h : encodeMx i = some w) :
    encode i = some (.mx w) ∧ i.wf = (!i.illegal && !i.misfielded) ∧ i.misfielded = false := by
  cases i <;> cases h
  all_goals exact ⟨rfl, rfl, rfl⟩

theorem encode_of_encodeCmd {i : Instr} {w : Word} {dt : BitVec 10} (h : encodeCmd dt i = some w) :
    encode i = (encodeCmd 0 i).map .cmd ∧ i.wf = (!i.illegal && !i.misfielded) ∧ i.misfielded = false := by
  cases i <;> cases h
  all_goals exact ⟨rfl, rfl, rfl⟩

theorem encode_of_encodeNb {i : Instr} {w : Word32} (h : encodeNb i = some w) :
    encode i = some (.nb w) ∧ i.wf = (!i.illegal && !i.misfielded) ∧ i.misfielded = false := by
  cases i <;> cases h
  all_goals exact ⟨rfl, rfl, rfl⟩

/-- The parser of matrix micro-words reads back every field that the encoder places. -/
theorem parseMx_encodeMx {i : Instr} {w : Word} (h : encodeMx i = some w) : parseMx w = some i := by
  cases i <;> cases h
  all_goals
    simp (disch := decide) only [parseMx, field_append_low, field_append_high, BitVec.extractLsb'_eq_self, Nat.reduceSub,
      BitVec.reduceToNat]

/-- The parser of memory commands reads back every field that the encoder places, and the delta stands in bits 57 to 48. -/
theorem parseCmd_encodeCmd {i : Instr} {w : Word} {dt : BitVec 10} (h : encodeCmd dt i = some w) :
    parseCmd w = some i ∧ w.extractLsb' 48 10 = dt := by
  cases i <;> cases h
  all_goals
    simp (disch := decide) only [parseCmd, field_append_low, field_append_high, BitVec.extractLsb'_eq_self, Nat.reduceSub,
      BitVec.reduceToNat, and_self]

/-- The parser of near-bank words reads back every field that the encoder places. -/
theorem parseNb_encodeNb {i : Instr} {w : Word32} (h : encodeNb i = some w) : parseNb w = some i := by
  cases i <;> cases h
  all_goals
    simp (disch := decide) only [parseNb, field_append_low, field_append_high, BitVec.extractLsb'_eq_self, Nat.reduceSub,
      BitVec.reduceExtractLsb', BitVec.reduceToNat]

/-- A space whose decoder takes what its parser reads when it is within its limits and its encoding is the word itself, and whose
parser reads every encoding back, decodes exactly the encodings of the instructions within their limits. -/
theorem accepted_iff {α : Type} [BEq α] [LawfulBEq α] {parsed : Option Instr} {enc : Instr → Option α} {w : α} {i : Instr}
    (back : enc i = some w → parsed = some i) :
    (parsed.bind fun j => if !j.illegal && enc j == some w then some j else none) = some i ↔
      i.illegal = false ∧ enc i = some w := by
  rw [Option.bind_eq_some_iff]
  constructor
  · rintro ⟨j, -, hj⟩
    split at hj
    · next hok => cases hj; simpa using hok
    · cases hj
  · rintro ⟨hl, he⟩
    exact ⟨i, back he, by simp [hl, he]⟩

theorem decodeMx_iff {w : Word} {i : Instr} : decodeMx w = some i ↔ i.illegal = false ∧ encodeMx i = some w := by
  rw [← accepted_iff parseMx_encodeMx, decodeMx]
  cases parseMx w <;> rfl

theorem decodeCmd_iff {w : Word} {i : Instr} :
    decodeCmd w = some i ↔ i.illegal = false ∧ encodeCmd (w.extractLsb' 48 10) i = some w := by
  rw [← accepted_iff fun he => (parseCmd_encodeCmd he).1, decodeCmd]
  cases parseCmd w <;> rfl

theorem decodeNb_iff {w : Word32} {i : Instr} : decodeNb w = some i ↔ i.illegal = false ∧ encodeNb i = some w := by
  rw [← accepted_iff parseNb_encodeNb, decodeNb]
  cases parseNb w <;> rfl

/-! ### Index values (R54, R55, Table 3.1) -/

theorem encode_of_encodeIndex {i : Instr} {v : BitVec 16} (h : encodeIndex i = some v) : encode i = some (.index v) := by
  cases i <;> cases h
  all_goals rfl

/-- The ranges of Table 3.1 are those of the four index steps. -/
theorem encodeIndex_of_decodeIndex {v : BitVec 16} {i : Instr} (h : decodeIndex v = some i) :
    i.wf = true ∧ encodeIndex i = some v := by
  simp only [decodeIndex, beq_iff_eq] at h
  split at h
  · next h0 => cases h; exact ⟨rfl, congrArg some (BitVec.eq_of_toNat_eq h0.symm)⟩
  split at h
  · next h0 h1 =>
    cases h
    have e : (v.extractLsb' 0 13).toNat = v.toNat := by
      simp only [BitVec.extractLsb'_toNat, Nat.shiftRight_zero]
      omega
    refine ⟨?_, congrArg some (BitVec.eq_of_toNat_eq ?_)⟩
    · simp only [Instr.wf, bne_iff_ne, ne_eq]
      intro hz
      rw [hz] at e
      exact h0 e.symm
    · rw [BitVec.toNat_setWidth, e]
      omega
  split at h
  · cases h
  split at h
  · next h0 h1 h2 h3 =>
    cases h
    refine ⟨?_, congrArg some (BitVec.eq_of_toNat_eq ?_)⟩
    · simp only [Instr.wf, Bool.and_eq_true, decide_eq_true_eq]
      omega
    · rw [BitVec.toNat_ofNat]
      omega
  · next h0 h1 h2 h3 =>
    cases h
    refine ⟨rfl, congrArg some (BitVec.eq_of_toNat_eq ?_)⟩
    have := v.isLt
    show 0xFFFF = v.toNat
    omega

/-- The index of a well-formed index step lies in the range of that step. -/
theorem decodeIndex_of_encodeIndex {v : BitVec 16} {i : Instr} (hw : i.wf = true) (he : encodeIndex i = some v) :
    decodeIndex v = some i := by
  cases i <;> cases he
  case emptyBundle => rfl
  case literalBundle => rfl
  case dictionaryBundle e =>
    simp only [Instr.wf, bne_iff_ne, ne_eq] at hw
    have hz : e.toNat ≠ 0 := fun h => hw (BitVec.eq_of_toNat_eq h)
    have hl : (e.setWidth 16).toNat = e.toNat := by
      rw [BitVec.toNat_setWidth]; omega
    have hb : (e.setWidth 16).extractLsb' 0 13 = e := by
      apply BitVec.eq_of_toNat_eq
      rw [BitVec.extractLsb'_toNat, hl, Nat.shiftRight_zero]
      omega
    have := e.isLt
    simp only [decodeIndex, hl, hb, beq_iff_eq, hz, if_false]
    rw [if_pos (by omega)]
  case idleRun n =>
    simp only [Instr.wf, Bool.and_eq_true, decide_eq_true_eq] at hw
    have hl : (BitVec.ofNat 16 (0xFFC0 + n - 2)).toNat = 0xFFC0 + n - 2 := by
      rw [BitVec.toNat_ofNat]; omega
    simp only [decodeIndex, hl, beq_iff_eq]
    rw [if_neg (by omega), if_neg (by omega), if_neg (by omega), if_pos (by omega)]
    exact congrArg some (congrArg Instr.idleRun (by omega))

/-! ### Units of a bundle (R63, R69, R76, R78) -/

/-- The PFX that the fields of a word of selector 2 give (Table 3.3). -/
def prefixOf (w : Word32) : Instr :=
  .pfx (w.extractLsb' 20 12) (w.extractLsb' 19 1) (w.extractLsb' 18 1) (w.extractLsb' 12 6) (w.extractLsb' 11 1) (w.extractLsb' 9 2)
    (w.extractLsb' 8 1) (w.extractLsb' 7 1) (w.extractLsb' 4 3) (w.extractLsb' 3 1)

/-- Bit 2 of a PFX word is reserved: the check of R63 passes when it is zero and the fields pass without it. -/
theorem prefixFields_eq_zero {i : BitVec 12} {e v : BitVec 1} {p : BitVec 6} {t : BitVec 1} {s : BitVec 2} {r : BitVec 1}
    {m : BitVec 3} {x b : BitVec 1} : prefixFields i e v p t s r m x b = 0 ↔ b = 0#1 ∧ prefixFields i e v p t s r m x 0 = 0 := by
  by_cases hb : b = 0#1
  · simp [hb]
  · have refused : prefixFields i e v p t s r m x b = 8 := if_pos (by simp [hb])
    simp [refused, hb]

/-- What R69 asks of a parsed instruction: its limits, its reserved bits and its aligned register fields. -/
def Sound (w : Word32) (i : Instr) (r : Word32) : Prop :=
  parseWord w = some (i, r) ∧ i.illegal = false ∧ w &&& r = 0#32 ∧ i.misfielded = false

theorem decodeUnit_pfx {w : Word32} {w1 : Option Word32} {i : Instr} (hs : w.extractLsb' 0 2 = 2#2) :
    decodeUnit w w1 = .ok i ↔ i = prefixOf w ∧ w.extractLsb' 2 1 = 0#1 ∧ (prefixOf w).wf = true := by
  have wf_iff : w.extractLsb' 2 1 = 0#1 ∧ (prefixOf w).wf = true ↔ _ :=
      (and_congr_right fun _ => beq_iff_eq).trans prefixFields_eq_zero.symm
  rw [wf_iff, decodeUnit, hs]
  generalize prefixFields _ _ _ _ _ _ _ _ _ (w.extractLsb' 2 1) = n
  cases n with
  | zero => simp [prefixOf, eq_comm]
  | succ n => simp

theorem decodeUnit_plain {w : Word32} {w1 : Option Word32} {i : Instr} (hs : w.extractLsb' 0 2 = 0#2) :
    decodeUnit w w1 = .ok i ↔ ∃ r, Sound w i r := by
  unfold decodeUnit Sound
  rw [hs]
  constructor
  · intro h
    simp only [BitVec.toNat_ofNat, Nat.zero_mod] at h
    split at h
    · cases h
    next j r hp =>
    split at h
    · cases h
    next hl =>
    split at h
    · cases h
    next hc =>
    cases h
    simp only [Bool.or_eq_true, bne_iff_ne, ne_eq, not_or, not_not, Bool.not_eq_true] at hl hc
    exact ⟨r, hp, hl, hc⟩
  · rintro ⟨r, hp, hl, hr, hm⟩
    simp [hp, hl, hr, hm]

theorem decodeUnit_masked {w w1 : Word32} {i : Instr} (hs : w.extractLsb' 0 2 = 1#2) :
    decodeUnit w (some w1) = .ok i ↔ hasTwoWordForm (w.extractLsb' 2 6).toNat = true ∧ w1.extractLsb' 0 27 = 0#27 ∧
      ∃ j r, Sound w j r ∧ toMasked (w1.extractLsb' 28 4) (w1.extractLsb' 27 1) j = some i := by
  unfold decodeUnit Sound
  rw [hs]
  constructor
  · intro h
    simp only [BitVec.toNat_ofNat, Nat.reducePow, Nat.reduceMod] at h
    split at h
    · cases h
    next ht =>
    split at h
    · cases h
    next j r hp =>
    split at h
    · cases h
    next hl =>
    split at h
    · cases h
    next hc =>
    split at h
    next i' hi =>
      cases h
      simp only [Bool.or_eq_true, bne_iff_ne, ne_eq, not_or, not_not, Bool.not_eq_true, Bool.not_eq_false'] at ht hl hc
      exact ⟨ht, hc.2, j, r, ⟨hp, hl, hc.1⟩, hi⟩
    · cases h
  · rintro ⟨ht, hz, j, r, ⟨hp, hl, hr, hm⟩, hj⟩
    simp [ht, hz, hp, hl, hr, hm, hj, -BitVec.extractLsb'_toNat]

theorem selector_cases (w : Word32) :
    w.extractLsb' 0 2 = 0#2 ∨ w.extractLsb' 0 2 = 1#2 ∨ w.extractLsb' 0 2 = 2#2 ∨ w.extractLsb' 0 2 = 3#2 := by
  generalize w.extractLsb' 0 2 = x
  revert x
  decide

theorem decodeUnit_fill {w : Word32} {w1 : Option Word32} (hs : w.extractLsb' 0 2 = 3#2) : decodeUnit w w1 = .error 0x05 := by
  unfold decodeUnit
  rw [hs]
  rfl

theorem isTwoWord_iff (w : Word32) : isTwoWord w = true ↔ w.extractLsb' 0 2 = 1#2 := beq_iff_eq

/-! ### One-word units -/

theorem encode_of_encodeWord {i : Instr} {w : Word32} (h : encodeWord i = some w) :
    encode i = some (.one w) ∧ (i.isPfx = false → i.wf = (!i.illegal && !i.misfielded)) := by
  cases i <;> cases h
  case pfx => exact ⟨rfl, nofun⟩
  all_goals exact ⟨rfl, fun _ => rfl⟩

/-- A PFX that is encoded has selector 2 and a zero bit 2, and is the PFX of the fields of its word. -/
theorem prefixOf_of_encodeWord {i : Instr} {w : Word32} (hp : i.isPfx = true) (h : encodeWord i = some w) :
    w.extractLsb' 0 2 = 2#2 ∧ w.extractLsb' 2 1 = 0#1 ∧ prefixOf w = i := by
  cases i <;> cases hp
  cases h
  simp (disch := decide) only [prefixOf, field_append_low, field_append_high, BitVec.extractLsb'_eq_self, Nat.reduceSub,
    BitVec.reduceExtractLsb', and_self]

theorem encodeWord_prefixOf {w : Word32} (hs : w.extractLsb' 0 2 = 2#2) (hb : w.extractLsb' 2 1 = 0#1) :
    encodeWord (prefixOf w) = some w := by
  have K := (known_field (congrArg BitVec.toNat hs)).or (known_field (congrArg BitVec.toNat hb))
  refine Fills.whole ?_
  simp (disch := decide) only [fills_append, fills_extract, K.fills, and_self]

/-- What a plain word is read as is no PFX, is well formed, and has that word for its one-word form. -/
theorem Sound.encoded {w r : Word32} {i : Instr} (hs : w.extractLsb' 0 2 = 0#2) (h : Sound w i r) :
    encodeWord i = some w ∧ i.wf = true := by
  obtain ⟨hp, hl, hr, hm⟩ := h
  have he := encodeWord_of_parseWord (congrArg BitVec.toNat hs) hp hr
  have hi : i.isPfx = false := by
    by_contra hi
    have h2 := (prefixOf_of_encodeWord (Bool.eq_true_of_not_eq_false hi) he).1
    rw [hs] at h2
    exact absurd h2 (by decide)
  refine ⟨he, ?_⟩
  rw [(encode_of_encodeWord he).2 hi, hl, hm]
  rfl

theorem sound_of_encodeWord {w : Word32} {i : Instr} (h : encodeWord i = some w) (hp : i.isPfx = false) (hl : i.illegal = false)
    (hm : i.misfielded = false) : w.extractLsb' 0 2 = 0#2 ∧ ∃ r, Sound w i r := by
  obtain ⟨hs, r, hw, hc⟩ := parseWord_of_encodeWord rfl h hp
  exact ⟨hs, r, hw, hl, (clearAt_zero_iff r w).mp hc, hm⟩

theorem decode_one_of_encodeWord {w : Word32} {i : Instr} (hw : i.wf = true) (h : encodeWord i = some w) :
    decode (.one w) = some i := by
  have decoded : ∀ {x}, w.extractLsb' 0 2 = x → x ≠ 1#2 → decodeUnit w none = .ok i → decode (.one w) = some i := by
    intro x hs hx hu
    have ht : isTwoWord w = false := Bool.eq_false_iff.mpr fun ht => hx (hs ▸ (isTwoWord_iff w).mp ht)
    simp only [decode, ht, hu, Except.toOption, Bool.false_eq_true, if_false]
  cases hp : i.isPfx with
  | true =>
    obtain ⟨hs, hb, rfl⟩ := prefixOf_of_encodeWord hp h
    exact decoded hs (by decide) ((decodeUnit_pfx hs).mpr ⟨rfl, hb, hw⟩)
  | false =>
    rw [(encode_of_encodeWord h).2 hp, Bool.and_eq_true, Bool.not_eq_true', Bool.not_eq_true'] at hw
    obtain ⟨hs, r, hr⟩ := sound_of_encodeWord h hp hw.1 hw.2
    exact decoded hs (by decide) ((decodeUnit_plain hs).mpr ⟨r, hr⟩)

theorem encode_of_decode_one {w : Word32} {i : Instr} (h : decode (.one w) = some i) :
    i.wf = true ∧ encode i = some (.one w) := by
  have hu : w.extractLsb' 0 2 ≠ 1#2 ∧ decodeUnit w none = .ok i := by
    rw [decode] at h
    split at h
    · cases h
    next ht =>
      refine ⟨fun hs => ht ((isTwoWord_iff w).mpr hs), ?_⟩
      cases hd : decodeUnit w none with
      | error e => rw [hd] at h; cases h
      | ok j => rw [hd] at h; cases h; rfl
  obtain ⟨h1, hu⟩ := hu
  rcases selector_cases w with hs | hs | hs | hs
  · obtain ⟨r, hr⟩ := (decodeUnit_plain hs).mp hu
    exact ⟨(hr.encoded hs).2, (encode_of_encodeWord (hr.encoded hs).1).1⟩
  · exact absurd hs h1
  · obtain ⟨rfl, hb, hw⟩ := (decodeUnit_pfx hs).mp hu
    exact ⟨hw, (encode_of_encodeWord (encodeWord_prefixOf hs hb)).1⟩
  · rw [decodeUnit_fill hs] at hu
    cases hu

/-! ### Two-word units (R78, R135) -/

/-- A masked instruction and its one-word form determine each other. -/
theorem fromMasked_iff {i j : Instr} {k : BitVec 4} {zm : BitVec 1} : fromMasked i = some (j, k, zm) ↔ toMasked k zm j = some i := by
  constructor
  · intro h
    cases i <;> cases h <;> rfl
  · intro h
    cases j <;> cases h <;> rfl

theorem wf_of_fromMasked {i j : Instr} {k : BitVec 4} {zm : BitVec 1} (h : fromMasked i = some (j, k, zm)) :
    i.wf = (!j.illegal && !j.misfielded) ∧ j.isPfx = false := by
  cases i <;> cases h <;> exact ⟨rfl, rfl⟩

theorem encode_of_fromMasked {i j : Instr} {k : BitVec 4} {zm : BitVec 1} (h : fromMasked i = some (j, k, zm)) :
    encode i = (encodeWord j).map fun w => .two (w ||| 1#32) (k ++ zm ++ 0#27) := by
  rw [encode, h]

/-- The selector is no part of what a word is read as. -/
theorem parseWord_or_one (w : Word32) : parseWord (w ||| 1#32) = parseWord w := by
  have above (s n : Nat) (h : (1#32).extractLsb' s n = 0#n) : (w ||| 1#32).extractLsb' s n = w.extractLsb' s n := by
    rw [BitVec.extractLsb'_or, h, BitVec.or_zero]
  simp (disch := decide) only [parseWord, above, BitVec.getLsbD_eq_extractLsb', parse00, parse01, parse02, parse03, parse04,
      parse05, parse06, parse07, parse08, parse09, parse0A, parse0B, parse0C,
      parse0D, parse0E, parse0F, parse10, parse11, parse12, parse13, parse14, parse15, parse16, parse17, parse18, parse19, parse1A,
      parse1B, parse1C, parse1D, parse1E, parse1F, parse20, parse21, parse22, parse23, parse24, parse25, parse26, parse27, parse28,
      parse29, parse2C, parse2D, parse2E, parse2F, parse30, parse34, parse38, parse39, parse3A, parse3B, parse3C, parse3D, parse3E]

/-- No row with a two-word form has a reserved bit in its first word. -/
theorem reserved_of_hasTwoWordForm {w r : Word32} {i : Instr} (ht : hasTwoWordForm (w.extractLsb' 2 6).toNat = true)
    (h : parseWord w = some (i, r)) : r = 0 := by
  generalize hm : (w.extractLsb' 2 6).toNat = m at ht
  have range : m = 0x18 ∨ m = 0x19 ∨ m = 0x1A ∨ m = 0x1B ∨ m = 0x1C ∨ m = 0x1D ∨ m = 0x1E ∨
      m = 0x1F ∨ m = 0x20 ∨ m = 0x22 := by
    simp only [hasTwoWordForm, Bool.or_eq_true, Bool.and_eq_true, decide_eq_true_eq, beq_iff_eq] at ht
    omega
  rcases range with rfl | rfl | rfl | rfl | rfl | rfl | rfl | rfl | rfl | rfl
  all_goals
    simp only [parseWord, hm, parse18, parse19, parse1A, parse1B, parse1C, parse1D, parse1E, parse1F, parse20, parse22] at h
  any_goals split at h
  all_goals cases h <;> rfl

theorem hasTwoWordForm_of_fromMasked {i j : Instr} {k : BitVec 4} {zm : BitVec 1} {w : Word32} (h : fromMasked i = some (j, k, zm))
    (he : encodeWord j = some w) : hasTwoWordForm (w.extractLsb' 2 6).toNat = true := by
  cases i <;> cases h <;> cases he
  all_goals
    simp (disch := decide) only [field_append_low, BitVec.reduceExtractLsb', BitVec.reduceToNat]
    rfl

theorem selector_or_one (w : Word32) (hs : w.extractLsb' 0 2 = 0#2) : (w ||| 1#32).extractLsb' 0 2 = 1#2 := by
  rw [BitVec.extractLsb'_or, hs]
  rfl

theorem major_or_one (w : Word32) : (w ||| 1#32).extractLsb' 2 6 = w.extractLsb' 2 6 := by
  rw [BitVec.extractLsb'_or, show (1#32).extractLsb' 2 6 = 0#6 from rfl, BitVec.or_zero]

/-- A word with selector 1 is a word with selector 0 whose bit 0 is set. -/
theorem exists_plain {w : Word32} (hs : w.extractLsb' 0 2 = 1#2) : ∃ v : Word32, v.extractLsb' 0 2 = 0#2 ∧ v ||| 1#32 = w := by
  have cut : w = w.extractLsb' 2 30 ++ w.extractLsb' 0 2 := (BitVec.extractLsb'_append_extractLsb' (w := 30) (len := 2)).symm
  refine ⟨w.extractLsb' 2 30 ++ 0#2, BitVec.extractLsb'_append_eq_right, ?_⟩
  rw [show (1#32 : Word32) = 0#30 ++ 1#2 from rfl]
  conv => rhs; rw [cut, hs]
  exact BitVec.or_append.trans (by rw [BitVec.or_zero]; rfl)

/-- A row with a two-word form is sound with selector 0 exactly when it is with selector 1. -/
theorem sound_or_one {w r : Word32} {i : Instr} (ht : hasTwoWordForm (w.extractLsb' 2 6).toNat = true) :
    Sound (w ||| 1#32) i r ↔ Sound w i r := by
  unfold Sound
  rw [parseWord_or_one]
  refine and_congr_right fun hp => ?_
  rw [reserved_of_hasTwoWordForm ht hp, BitVec.ofNat_eq_ofNat, BitVec.and_zero, BitVec.and_zero]

theorem decode_two_of_encodeWord {i j : Instr} {k : BitVec 4} {zm : BitVec 1} {w : Word32} (hw : i.wf = true)
    (h : fromMasked i = some (j, k, zm)) (he : encodeWord j = some w) :
    decode (.two (w ||| 1#32) (k ++ zm ++ 0#27)) = some i := by
  obtain ⟨hwf, hp⟩ := wf_of_fromMasked h
  rw [hwf, Bool.and_eq_true, Bool.not_eq_true', Bool.not_eq_true'] at hw
  obtain ⟨hs, r, hr⟩ := sound_of_encodeWord he hp hw.1 hw.2
  have ht := hasTwoWordForm_of_fromMasked h he
  have hs1 := selector_or_one w hs
  have hj : toMasked ((k ++ zm ++ 0#27 : Word32).extractLsb' 28 4) ((k ++ zm ++ 0#27 : Word32).extractLsb' 27 1) j = some i := by
    simp (disch := decide) only [field_append_low, field_append_high, BitVec.extractLsb'_eq_self, Nat.reduceSub]
    exact fromMasked_iff.mp h
  have hu : decodeUnit (w ||| 1#32) (some (k ++ zm ++ 0#27)) = .ok i :=
    (decodeUnit_masked hs1).mpr ⟨by rw [major_or_one]; exact ht, field_append_low _ _ _ _ (by decide), j, r, (sound_or_one ht).mpr hr, hj⟩
  rw [decode, if_pos ((isTwoWord_iff _).mpr hs1), hu]
  rfl

theorem encode_of_decode_two {w0 w1 : Word32} {i : Instr} (h : decode (.two w0 w1) = some i) :
    i.wf = true ∧ encode i = some (.two w0 w1) := by
  have hu : w0.extractLsb' 0 2 = 1#2 ∧ decodeUnit w0 (some w1) = .ok i := by
    rw [decode] at h
    split at h
    next ht =>
      refine ⟨(isTwoWord_iff w0).mp ht, ?_⟩
      cases hd : decodeUnit w0 (some w1) with
      | error e => rw [hd] at h; cases h
      | ok j => rw [hd] at h; cases h; rfl
    · cases h
  obtain ⟨hs, hu⟩ := hu
  obtain ⟨ht, hz, j, r, hr, hj⟩ := (decodeUnit_masked hs).mp hu
  obtain ⟨v, hv, rfl⟩ := exists_plain hs
  rw [major_or_one] at ht
  have hm := fromMasked_iff.mpr hj
  obtain ⟨he, -⟩ := ((sound_or_one ht).mp hr).encoded hv
  obtain ⟨-, hl, -, ha⟩ := hr
  refine ⟨by rw [(wf_of_fromMasked hm).1, hl, ha]; rfl, ?_⟩
  have mask : w1.extractLsb' 28 4 ++ w1.extractLsb' 27 1 ++ 0#27 = w1 := by
    refine Option.some.inj (Fills.whole ?_)
    simp only [fills_append, fills_extract, and_self, true_and]
    exact hz.symm
  rw [encode_of_fromMasked hm, he, Option.map_some, mask]

/-! ### The obligations -/

/-- Settles O1: each encoder's words are read back by the parser of its space. -/
theorem decodeInvertsEncode : Obligations.DecodeInvertsEncode := by
  intro i c hw h
  cases hm : fromMasked i with
  | some p =>
    obtain ⟨j, k, zm⟩ := p
    rw [encode_of_fromMasked hm, Option.map_eq_some_iff] at h
    obtain ⟨w, he, rfl⟩ := h
    exact decode_two_of_encodeWord hw hm he
  | none =>
  cases he : encodeWord i with
  | some w =>
    rw [(encode_of_encodeWord he).1] at h
    cases h
    exact decode_one_of_encodeWord hw he
  | none =>
  cases hv : encodeIndex i with
  | some v =>
    rw [encode_of_encodeIndex hv] at h
    cases h
    exact decodeIndex_of_encodeIndex hw hv
  | none =>
  cases hx : encodeMx i with
  | some w =>
    obtain ⟨hc, hwf, -⟩ := encode_of_encodeMx hx
    rw [hc] at h
    rw [hwf, Bool.and_eq_true, Bool.not_eq_true'] at hw
    cases h
    exact decodeMx_iff.mpr ⟨hw.1, hx⟩
  | none =>
  cases hd : encodeCmd 0 i with
  | some w =>
    obtain ⟨hc, hwf, -⟩ := encode_of_encodeCmd hd
    rw [hc, hd] at h
    rw [hwf, Bool.and_eq_true, Bool.not_eq_true'] at hw
    cases h
    exact decodeCmd_iff.mpr ⟨hw.1, by rw [(parseCmd_encodeCmd hd).2]; exact hd⟩
  | none =>
  cases hn : encodeNb i with
  | some w =>
    obtain ⟨hc, hwf, -⟩ := encode_of_encodeNb hn
    rw [hc] at h
    rw [hwf, Bool.and_eq_true, Bool.not_eq_true'] at hw
    cases h
    exact decodeNb_iff.mpr ⟨hw.1, hn⟩
  | none =>
    rw [encode, hm, he, hv, hx, hd, hn] at h
    cases h

/-- Settles O2: each space's decoder takes exactly the words that its encoder gives. -/
theorem encodeInvertsDecode : Obligations.EncodeInvertsDecode := by
  intro c i h
  cases c with
  | index v =>
    obtain ⟨hw, he⟩ := encodeIndex_of_decodeIndex h
    exact ⟨hw, encode_of_encodeIndex he⟩
  | one w => exact encode_of_decode_one h
  | two w0 w1 => exact encode_of_decode_two h
  | mx w =>
    obtain ⟨hl, he⟩ := decodeMx_iff.mp h
    obtain ⟨hc, hw, hm⟩ := encode_of_encodeMx he
    exact ⟨by rw [hw, hl, hm]; rfl, hc⟩
  | cmd w =>
    obtain ⟨hl, he⟩ := decodeCmd_iff.mp h
    obtain ⟨-, hw, hm⟩ := encode_of_encodeCmd he
    exact ⟨by rw [hw, hl, hm]; rfl, he⟩
  | nb w =>
    obtain ⟨hl, he⟩ := decodeNb_iff.mp h
    obtain ⟨hc, hw, hm⟩ := encode_of_encodeNb he
    exact ⟨by rw [hw, hl, hm]; rfl, hc⟩

end Sys2Proof
end

section
/-! PROOFS. Indices and prefixes (R53 to R56, R63, R65): what an index issues, and what a PFX leaves for the word after it. -/

namespace Sys2Proof

/-- A concatenation as a number. -/
theorem toNat_append_eq {m n : Nat} (a : BitVec m) (b : BitVec n) : (a ++ b).toNat = a.toNat * 2 ^ n + b.toNat := by
  rw [BitVec.toNat_append, ← Nat.shiftLeft_add_eq_or_of_lt b.isLt, Nat.shiftLeft_eq]

/-- An immediate field extended by the twelve bits of a PFX is signed (R65). -/
theorem toInt_append_eq {m n : Nat} (a : BitVec m) (b : BitVec n) :
    (a ++ b).toInt = Int.bmod (a.toNat * 2 ^ n + b.toNat) (2 ^ (m + n)) := by
  rw [BitVec.toInt_eq_toNat_bmod, toNat_append_eq]
  push_cast
  rfl

theorem beq_zero_eq_not_beq_one (e : BitVec 1) : (e == 0) = !(e == 1) := by
  revert e
  decide

/-- The bits of a value that is put together from fields of `w` bits. -/
theorem getLsbD_foldl_fields {w N : Nat} (f : Nat → BitVec w) (n i : Nat) (hi : i < N) :
    ((List.range n).foldl (fun b k => b ||| ((f k).setWidth N <<< (w * k))) (0 : BitVec N)).getLsbD i =
      (decide (i < w * n) && (f (i / w)).getLsbD (i % w)) := by
  induction n with
  | zero => simp
  | succ n ih =>
    rw [List.range_succ, List.foldl_append, List.foldl_cons, List.foldl_nil, BitVec.getLsbD_or, ih, BitVec.getLsbD_shiftLeft,
      BitVec.getLsbD_setWidth, Nat.mul_succ]
    rcases Nat.lt_or_ge i (w * n) with below | above
    · simp [below, Nat.lt_add_right w below]
    rcases Nat.lt_or_ge i (w * n + w) with within | beyond
    · have quot : i / w = n := Nat.div_eq_of_lt_le (by rw [Nat.mul_comm]; exact above) (by rw [Nat.succ_mul, Nat.mul_comm]; exact within)
      have rest : i % w = i - w * n := by rw [← quot]; exact Nat.mod_eq_sub_mul_div
      simp [hi, within, quot, rest, Nat.not_lt.mpr above, Nat.sub_lt_of_lt hi]
    · have out : (f n).getLsbD (i - w * n) = false := BitVec.getLsbD_of_ge _ _ (by omega)
      simp [out, Nat.not_lt.mpr above, Nat.not_lt.mpr beyond]

/-- R56: a literal bundle is put together from the 24 positions after its escape. -/
theorem bundle_eq_foldl (b : BitVec 384) (f : Nat → BitVec 16) (h : ∀ j < 24, b.extractLsb' (16 * j) 16 = f j) :
    (List.range 24).foldl (fun x k => x ||| ((f k).setWidth 384 <<< (16 * k))) 0 = b := by
  apply BitVec.eq_of_getLsbD_eq
  intro i hi
  rw [getLsbD_foldl_fields f 24 i hi, ← h (i / 16) (by omega), BitVec.getLsbD_extractLsb']
  have place : 16 * (i / 16) + i % 16 = i := Nat.div_add_mod i 16
  simp [place, hi, Nat.mod_lt]

end Sys2Proof

namespace Sys2Proof.Machine

/-- Settles O3: the words are encodings of Tables 3.1, 3.3 and 4.1 to 4.8. -/
theorem encodedWords : Obligations.EncodedWords := by
  refine ⟨rfl, rfl, rfl, rfl, rfl, rfl, rfl, rfl, rfl, rfl, rfl, rfl, rfl, rfl, rfl, rfl, rfl, rfl, rfl, rfl, rfl, rfl, rfl, rfl, rfl⟩

/-- Settles O8: the fields wait in the bundle's issue, and every reading of a PFX finds them there. -/
theorem prefixModifiesNextWord : Obligations.PrefixModifiesNextWord := by
  intro i e v p t sr a r m x s
  refine ⟨_, rfl, rfl, ?_, ?_, rfl, ?_, fun f => ?_, fun f => ?_⟩
  · rw [beq_zero_eq_not_beq_one]
    rfl
  · simp [State.rm, State.me]
  · simp [State.tagWanted]
  · rw [State.immS]
    simp only [beq_iff_eq, toInt_append_eq]
    rfl
  · rw [State.immU]
    simp only [beq_iff_eq, toInt_append_eq]

/-- The literal bundle at an escape, position by position (R56). -/
theorem literalAt_eq (k : Core) (pos : Nat) (b : BitVec 384)
    (h : ∀ j < 24, b.extractLsb' (16 * j) 16 = SMap.getD k.index (pos + 1 + j) 0) : literalAt k pos = b :=
  bundle_eq_foldl b _ h

/-- Settles O6: each range of Table 3.1 has its own case of the issue. -/
theorem indexConsumption : Obligations.IndexConsumption := by
  intro s
  have runs (n : Nat) : exec (.idleRun n) s = execIdleRun n s := rfl
  have literal : exec .literalBundle s = execLiteralBundle s := rfl
  refine ⟨rfl, fun _ => rfl, fun n h => ?_, fun n h => ?_, fun b hip hb hi => ?_, fun b w cause hip hb hi => ?_, fun hip => ?_⟩
  · simp [runs, execIdleRun, h]
  · simp [runs, execIdleRun, h]
  · rw [literal, execLiteralBundle, if_neg (Nat.not_lt.mpr hip), literalAt_eq s.me s.me.ip b hi]
    simp only [hb]
  · rw [literal, execLiteralBundle, if_neg (Nat.not_lt.mpr hip), literalAt_eq s.me s.me.ip b hi]
    simp only [hb]
  · rw [literal, execLiteralBundle, if_pos hip]

end Sys2Proof.Machine
end

section
/-! PROOFS. The scratchpad at issue (R77, R104, R114, R117): LDS and STS. -/

namespace Sys2Proof

theorem toNat_extractLsb' {n : Nat} (x : BitVec n) (s l : Nat) : (x.extractLsb' s l).toNat = x.toNat / 2 ^ s % 2 ^ l := by
  rw [BitVec.extractLsb'_toNat, Nat.shiftRight_eq_div_pow]

theorem extractLsb'_beq {n l : Nat} (x : BitVec n) (s : Nat) (v : BitVec l) :
    (x.extractLsb' s l == v) = decide (x.toNat / 2 ^ s % 2 ^ l = v.toNat) := by
  rw [Bool.eq_iff_iff, beq_iff_eq, decide_eq_true_eq, ← toNat_extractLsb', BitVec.toNat_inj]

theorem leNat_lt (bs : Bytes) : leNat bs < 2 ^ (8 * bs.length) := by
  induction bs with
  | nil => simp [leNat]
  | cons b bs ih =>
    have e : leNat (b :: bs) = leNat bs * 256 + b.toNat := rfl
    have := b.isLt
    have grow : 2 ^ (8 * (bs.length + 1)) = 2 ^ (8 * bs.length) * 256 := Nat.pow_add 2 (8 * bs.length) 8
    rw [e, List.length_cons, grow]
    omega

theorem leNat_natLe (n x : Nat) : leNat (natLe n x) = x % 2 ^ (8 * n) := by
  induction n generalizing x with
  | zero => simp [natLe, leNat, Nat.mod_one]
  | succ n ih =>
    have e : leNat (natLe (n + 1) x) = leNat (natLe n (x / 256)) * 256 + x % 256 := by
      simp [natLe, leNat]
    have grow : 2 ^ (8 * (n + 1)) = 256 * 2 ^ (8 * n) := (Nat.pow_add 2 (8 * n) 8).trans (Nat.mul_comm _ _)
    rw [e, ih, grow, Nat.mod_mul]
    omega

/-- The two's complement reading of a number is its balanced residue. -/
theorem sval_eq_bmod (w a : Nat) (hw : 0 < w) : sval w a = Int.bmod a (2 ^ w) := by
  obtain ⟨v, rfl⟩ : ∃ v, w = v + 1 := ⟨w - 1, by omega⟩
  have double : 2 ^ (v + 1) = 2 * 2 ^ v := Nat.pow_succ'
  have half : (((2 ^ (v + 1) : Nat) : Int) + 1) / 2 = ((2 ^ v : Nat) : Int) := by omega
  have residue : (a : Int) % ((2 ^ (v + 1) : Nat) : Int) = ((a % 2 ^ (v + 1) : Nat) : Int) := (Int.natCast_emod _ _).symm
  simp only [sval, Int.bmod, Nat.add_sub_cancel, half, residue, Nat.cast_lt]
  push_cast
  split <;> split <;> omega

end Sys2Proof

namespace Sys2Proof.Machine

/-- A check in a sequence: what follows it, or its cause. -/
theorem need_bind {α : Type} (ok : Bool) (e : Trouble) (k : Except Trouble α) :
    (need ok e >>= fun _ => k) = if ok = true then k else .error e := by
  cases ok <;> rfl

/-- R114: the check of a scratchpad pointer is the rule written out. -/
theorem scratchEa_eq (core align : Nat) (ea : Word) : scratchEa core align ea = match scratchCause core align ea with
    | some c => .error (addrTrouble c ea)
    | none => .ok (ea.toNat % 2 ^ 21) := by
  have space : ea.toNat / 2305843009213693952 % 8 = ea.toNat / 2305843009213693952 := by have := ea.isLt; omega
  simp only [scratchEa, scratchCause, need_bind, extractLsb'_beq, toNat_extractLsb', clusterOf, Bool.or_eq_true, beq_iff_eq,
    decide_eq_true_eq, BitVec.ofNat_eq_ofNat, BitVec.toNat_ofNat, Nat.reducePow, Nat.reduceMod, ne_eq, space, ← not_or]
  by_cases h1 : ea.toNat / 2305843009213693952 = 1
  case neg => simp [h1]
  by_cases h2 : ea.toNat / 18014398509481984 % 128 = core / 8 ∨ ea.toNat / 18014398509481984 % 128 = 127
  case neg => simp [h1, h2]
  by_cases h3 : ea.toNat / 2097152 % 8589934592 = 0
  case neg => simp [h1, h2, h3]
  by_cases h4 : ea.toNat % align = 0
  case neg => simp [h1, h2, h3, h4]
  simp [h1, h2, h3, h4]

/-- The effective address of the scalar-memory forms is trunc(a + imm × size, 64) (R114). -/
theorem memEa_eq (s : State) (i : BitVec 8) (w : BitVec 3) (a : BitVec 6) :
    s.memEa i w a = wrap (sgn (s.sv a) + s.immS i * (widthSize w : Nat)) := by
  rw [State.memEa, wrap, sgn, BitVec.ofInt_add, BitVec.ofInt_toInt]

/-- The tag check of an access of the word in turn is the one that the PFX asks for (R65). -/
theorem tagWanted_map (s : State) (off : Nat) : s.tagWanted.map (fun t => (off, t)) = match s.issue.pfx with
    | some x => if x.t then some (off, x.i.toNat) else none
    | none => none := by
  unfold State.tagWanted
  cases s.issue.pfx with
  | none => rfl
  | some x =>
    by_cases ht : x.t = true
    · simp [ht]
    · simp [ht]

/-- A loaded value: zero-extended below width code 4, sign-extended from it on (R117). -/
theorem extendLoad_eq (w size : Nat) (bs : Bytes) (hs : 0 < size) :
    extendLoad w size (leNat bs) = wrap (if w < 4 then (leNat bs : Int) else Int.bmod (leNat bs) (2 ^ (8 * size))) := by
  unfold extendLoad wrap
  split
  · exact (BitVec.ofInt_natCast 64 _).symm
  · rw [sval_eq_bmod _ _ (by omega)]

/-- Settles O15: both words make the check of R114 first, at the same address. -/
theorem scalarScratchpad : Obligations.ScalarScratchpad := by
  intro i w a d s hg _
  have ld : exec (.lds i w a d) s = execLds i w a d s := rfl
  have st : exec (.sts i w a d) s = execSts i w a d s := rfl
  have check := scratchEa_eq s.unit (widthSize w) (s.memEa i w a)
  have hsize : 2 ^ (w.toNat % 4) = widthSize w := rfl
  simp only [hsize, ← memEa_eq]
  rw [ld, st, execLds, execSts]
  cases hc : scratchCause s.unit (widthSize w) (s.memEa i w a) with
  | some c =>
    rw [hc] at check
    exact ⟨word_error s _ _ hg (by simp only [check]; rfl), word_error s _ _ hg (by simp only [check]; rfl)⟩
  | none =>
    rw [hc] at check
    refine ⟨?_, natLe (widthSize w) (s.sv d).toNat, ?_, length_natLe _ _, leNat_natLe _ _⟩
    · rw [word_ok s _ _ hg (by simp only [check]; rfl), extendLoad_eq _ (widthSize w) _ (Nat.two_pow_pos _)]
      simp only [State.touch, if_true, tagWanted_map]
      rfl
    · rw [word_ok s _ _ hg (by simp only [check]; rfl)]
      rfl

end Sys2Proof.Machine
end

section
/-! PROOFS. Matrix words: the delivery of metadata (R75, R188, R189), and the words that set up the unit and reach its
accumulator (R171 to R173, R191, R195). -/

namespace Sys2Proof.Machine

/-- A delivery changes nothing but the state as it now stands (R75). -/
theorem deliver_frame {s t : State} (h : deliver s = .ok t) : ∃ y, t = { s with cur := y } := by
  unfold deliver at h
  simp only [need_bind] at h
  split at h
  · exact ⟨s.cur, (Except.ok.inj h).symm⟩
  · split at h
    · split at h
      · obtain rfl := Except.ok.inj h
        split
        · exact ⟨_, rfl⟩
        · exact ⟨_, rfl⟩
      · cases h
    · cases h

/-- A matrix word whose delivery and own checks pass. -/
theorem matrixWord_ok {s t u : State} {f : State → Except Trouble State} (hg : s.guardOn = true) (hd : deliver s = .ok t)
    (hf : f t = .ok u) : matrixWord s f = .next u.consumed := by
  obtain ⟨g, rfl⟩ := deliver_frame hd
  rw [matrixWord, hd]
  exact word_ok _ u f hg hf

/-- A matrix word whose own check fails after its delivery. -/
theorem matrixWord_error {s t : State} {e : Trouble} {f : State → Except Trouble State} (hg : s.guardOn = true)
    (hd : deliver s = .ok t) (hf : f t = .error e) : matrixWord s f = .next (t.raised e) := by
  obtain ⟨g, rfl⟩ := deliver_frame hd
  rw [matrixWord, hd]
  exact word_error _ e f hg hf

/-- The bytes of a whole number of bytes hold its value. -/
theorem leNat_natLe_toNat {n : Nat} (x : BitVec (8 * n)) : leNat (natLe n x.toNat) = x.toNat :=
  (leNat_natLe n _).trans (Nat.mod_eq_of_lt x.isLt)

/-- R172: the check of an accumulator pointer is the rule written out. -/
theorem accEa_eq (core align n : Nat) (ea : Word) : accEa core align n ea = match accCause core align n ea with
    | some c => .error (addrTrouble c ea)
    | none => .ok (ea.toNat % 2 ^ 20) := by
  have space : ea.toNat / 2305843009213693952 % 8 = ea.toNat / 2305843009213693952 := by have := ea.isLt; omega
  simp only [accEa, accCause, need_bind, extractLsb'_beq, toNat_extractLsb', clusterOf, Bool.or_eq_true, beq_iff_eq,
    decide_eq_true_eq, BitVec.ofNat_eq_ofNat, BitVec.toNat_ofNat, Nat.reducePow, Nat.reduceMod, ne_eq, space, ← not_or]
  by_cases h1 : ea.toNat / 2305843009213693952 = 2
  case neg => simp [h1]
  by_cases h2 : ea.toNat / 18014398509481984 % 128 = core / 8 ∨ ea.toNat / 18014398509481984 % 128 = 127
  case neg => simp [h1, h2]
  by_cases h3 : ea.toNat / 1048576 % 17179869184 = 0
  case neg => simp [h1, h2, h3]
  by_cases h4 : ea.toNat % 1048576 + n ≤ 1048576
  case neg => simp [h1, h2, h3, h4, Nat.lt_of_not_le h4]
  by_cases h5 : ea.toNat % 1048576 % align = 0
  case neg => simp [h1, h2, h3, h4, h5, Nat.not_lt_of_le h4]
  simp [h1, h2, h3, h4, h5, Nat.not_lt_of_le h4]

/-- R75: the metadata word of bundle `m`, from its two index positions. -/
theorem metaWord_eq (lo hi : BitVec 16) : hi ++ lo = BitVec.ofNat 32 (lo.toNat + 2 ^ 16 * hi.toNat) := by
  have := lo.isLt
  have := hi.isLt
  apply BitVec.eq_of_toNat_eq
  rw [toNat_append_eq, BitVec.toNat_ofNat, Nat.mod_eq_of_lt (by omega)]
  omega

/-- R173: MCLR's count of rows, one more than its operand, is positive exactly when the operand is not negative. -/
theorem toNat_succ_of_nonneg {n : Int} (h : 0 ≤ n) : (n + 1).toNat = n.toNat + 1 := by omega

theorem unitBusy_iff (s : State) : s.unitBusy = true ↔ s.mine.mx.seq.st = .running ∨ s.mine.mx.seq.st = .paired := by
  simp [State.unitBusy]

/-- R75, R188, R189: the delivery, case by case. -/
theorem deliver_cases (s : State) : deliver s =
    if s.me.mx.seeded = true then .ok s
    else if s.me.csr.mpc.toNat = 65535 then .error (trouble 0x0B)
    else
      let next := s.onMine fun k => { k with csr := { k.csr with mpc := BitVec.ofNat 64 (s.me.csr.mpc.toNat + 1) } }
      if s.me.mx.mmode = 0 then .ok next
      else if 16 ≤ s.me.mx.mqueue.length then if s.guardOn = true then .error (trouble 0x46) else .ok next
      else .ok (next.onMx fun x => { x with mqueue := x.mqueue ++
        [SMap.getD s.me.index (2 * s.me.csr.mpc.toNat + 1) 0 ++ SMap.getD s.me.index (2 * s.me.csr.mpc.toNat) 0] }) := by
  simp only [deliver, need_bind]
  by_cases hs : s.me.mx.seeded = true
  case pos => simp [hs]
  by_cases hm : s.me.csr.mpc.toNat = 65535
  case pos => simp [hs, hm]
  by_cases h0 : s.me.mx.mmode = 0
  case pos => simp [hs, hm, h0]
  by_cases hq : 16 ≤ s.me.mx.mqueue.length
  case pos => cases s.guardOn <;> simp [hs, hm, h0, hq, Nat.not_lt_of_le hq]
  simp [hs, hm, h0, hq, Nat.lt_of_not_le hq]


/-- R195: what MPAIR asks of its partner and descriptor, in numbers. -/
theorem pairChecks_iff (u : Nat) (i : BitVec 8) (v : Word) :
    ((i.toNat ≤ 19 && i.toNat != clusterOf u % 20) = true ∧
      (v.getLsbD 11 == false && v.extractLsb' 23 41 == 0 &&
        (v.extractLsb' 0 11).toNat + ((v.extractLsb' 12 11).toNat + 1) ≤ 2048) = true) ↔
    ¬(19 < i.toNat ∨ i.toNat = u / 8 % 20 ∨ v.toNat / 2 ^ 11 % 2 ≠ 0 ∨ v.toNat / 2 ^ 23 ≠ 0 ∨
      2048 < v.toNat % 2048 + (v.toNat / 2 ^ 12 % 2048 + 1)) := by
  have top : v.toNat / 8388608 % 2199023255552 = v.toNat / 8388608 := by have := v.isLt; omega
  have bit : v.getLsbD 11 = decide (v.toNat / 2 ^ 11 % 2 = 1) := Nat.testBit_eq_decide_div_mod_eq
  simp only [bit, extractLsb'_beq, toNat_extractLsb', clusterOf, Bool.and_eq_true, bne_iff_ne, ne_eq, decide_eq_true_eq,
    beq_iff_eq, decide_eq_false_iff_not, BitVec.ofNat_eq_ofNat, BitVec.toNat_ofNat, Nat.reducePow, Nat.zero_mod, top, Nat.div_one]
  omega

/-- Two checks in a row with one cause. -/
theorem need_need {α : Type} (a b : Bool) (e : Trouble) (k : Except Trouble α) :
    (need a e >>= fun _ => need b e >>= fun _ => k) = if a = true ∧ b = true then k else .error e := by
  cases a <;> cases b <;> rfl

section
variable {s t : State} (hg : s.guardOn = true) (hd : deliver s = .ok t)
include hg hd

/-- R77, R171: MOVA. -/
theorem exec_mova (i : BitVec 8) (a : BitVec 6) (d : BitVec 3) :
    ∃ m, exec (.mova i a d) s = .next (t.onMx fun x => { x with params := m }).consumed ∧
      ∀ n, SMap.getD m n 0 = if n = d.toNat then wrap (sgn (s.sv a) + s.immU i) else SMap.getD t.mine.mx.params n 0 := by
  obtain ⟨y, rfl⟩ := deliver_frame hd
  refine ⟨_, matrixWord_ok hg hd rfl, fun n => ?_⟩
  by_cases e : n = d.toNat
  · subst e
    rw [SMap.getD_set_same, if_pos rfl, wrap, sgn, BitVec.ofInt_add, BitVec.ofInt_toInt]
    rfl
  · rw [SMap.getD_set_other _ _ _ _ _ e, if_neg e]

/-- R171, R189: MSEED. -/
theorem exec_mseed (a : BitVec 6) : exec (.mseed a) s = .next (t.onMx fun x =>
    { x with m := if s.sv a = 0 then 0x9E3779B97F4A7C15 else s.sv a, seeded := true }).consumed := by
  obtain ⟨y, rfl⟩ := deliver_frame hd
  simp only [← beq_iff_eq (a := s.sv a)]
  exact matrixWord_ok hg hd rfl

/-- R171, R188: MMETA. -/
theorem exec_mmeta (i : BitVec 8) : exec (.mmeta i) s =
    .next (if i.toNat ≤ 1 then (t.onMx fun x => { x with seeded := false, mmode := i.toNat }).consumed
      else t.raised (trouble 0x45)) := by
  by_cases h : i.toNat ≤ 1
  · rw [if_pos h]
    exact matrixWord_ok hg hd (by simp only [need_bind, h, decide_true, if_true])
  · rw [if_neg h]
    exact matrixWord_error hg hd (by simp only [need_bind, h, decide_false, Bool.false_eq_true, if_false])

/-- R195: MPAIR. -/
theorem exec_mpair (i : BitVec 8) (a : BitVec 6) : exec (.mpair i a) s = .next (
    let v := (s.sv a).toNat
    let row0 := v % 2048
    let n := v / 2 ^ 12 % 2048 + 1
    if 19 < i.toNat ∨ i.toNat = s.unit / 8 % 20 ∨ v / 2 ^ 11 % 2 ≠ 0 ∨ v / 2 ^ 23 ≠ 0 ∨ 2048 < row0 + n then t.raised (trouble 0x45)
    else if t.mine.mx.seq.st = .running ∨ t.mine.mx.seq.st = .paired then t.raised (trouble 0x1B)
    else (t.onMx fun x => { x with
      arm := some { cluster := i.toNat, row0 := row0, nrows := n, word := 0, params := [], m := 0 },
      seq := { x.seq with st := .armed } }).consumed) := by
  obtain ⟨y, rfl⟩ := deliver_frame hd
  have checks := pairChecks_iff s.unit i (s.sv a)
  dsimp only
  split
  case isTrue bad => exact matrixWord_error hg hd ((need_need _ _ _ _).trans (if_neg fun h => checks.1 h bad))
  case isFalse fits =>
    have busy := unitBusy_iff { s with cur := y }
    have passes := fun k : Except Trouble State => (need_need _ _ (trouble 0x45) k).trans (if_pos (checks.2 fits))
    split
    case isTrue runs =>
      refine matrixWord_error hg hd ((passes _).trans ((need_bind _ _ _).trans ?_))
      rw [busy.2 runs]
      rfl
    case isFalse idle =>
      have row : ((s.sv a).extractLsb' 0 11).toNat = (s.sv a).toNat % 2048 :=
        (toNat_extractLsb' _ _ _).trans (congrArg (· % 2048) (Nat.div_one _))
      have count : ((s.sv a).extractLsb' 12 11).toNat = (s.sv a).toNat / 2 ^ 12 % 2048 := toNat_extractLsb' _ _ _
      refine matrixWord_ok hg hd ((passes _).trans ((need_bind _ _ _).trans ?_))
      rw [Bool.eq_false_iff.2 (mt busy.1 idle), ← row, ← count]
      rfl

/-- R173: MCLR. -/
theorem exec_mclr (i : BitVec 8) (a : BitVec 6) : exec (.mclr i a) s = .next (
    let n := s.immU i + 1
    if n < 1 then t.raised (addrTrouble 0x32 (s.sv a))
    else match accCause s.unit 512 (512 * n.toNat) (s.sv a) with
      | some c => t.raised (addrTrouble c (s.sv a))
      | none => t.inFlight [s.result 1 (.acc ((s.sv a).toNat % 2 ^ 20) (.clear (512 * n.toNat)) none) 0]) := by
  obtain ⟨y, rfl⟩ := deliver_frame hd
  dsimp only
  split
  case isTrue neg =>
    have failed : ¬0 ≤ s.immU i := by omega
    exact matrixWord_error hg hd ((need_bind _ _ _).trans (if_neg (mt of_decide_eq_true failed)))
  case isFalse pos =>
    have nonneg : 0 ≤ s.immU i := by omega
    have check := accEa_eq s.unit 512 (512 * ((s.immU i).toNat + 1)) (s.sv a)
    have passes := fun k : Except Trouble State => (need_bind _ (addrTrouble 0x32 (s.sv a)) k).trans (if_pos (decide_eq_true nonneg))
    rw [toNat_succ_of_nonneg nonneg]
    split
    case h_1 c hc =>
      rw [hc] at check
      exact matrixWord_error hg hd ((passes _).trans (congrArg (· >>= _) check))
    case h_2 hc =>
      rw [hc] at check
      exact matrixWord_ok hg hd ((passes _).trans (congrArg (· >>= _) check))

/-- R172: an accumulator word whose pointer fails its check. -/
theorem accWord_error {a : BitVec 6} {c : Nat} (h : accCause s.unit 512 512 (s.sv a) = some c)
    (f : State → Nat → Except Trouble State) :
    matrixWord s (fun s => accEa s.unit 512 512 (s.sv a) >>= f s) = .next (t.raised (addrTrouble c (s.sv a))) := by
  obtain ⟨y, rfl⟩ := deliver_frame hd
  have check := accEa_eq s.unit 512 512 (s.sv a)
  rw [h] at check
  exact matrixWord_error hg hd (congrArg (· >>= _) check)

/-- R172: an accumulator word whose pointer passes its check. -/
theorem accWord_ok {a : BitVec 6} {u : State} (h : accCause s.unit 512 512 (s.sv a) = none)
    (f : State → Nat → Except Trouble State) (hf : f t ((s.sv a).toNat % 2 ^ 20) = .ok u) :
    matrixWord s (fun s => accEa s.unit 512 512 (s.sv a) >>= f s) = .next u.consumed := by
  obtain ⟨y, rfl⟩ := deliver_frame hd
  have check := accEa_eq s.unit 512 512 (s.sv a)
  rw [h] at check
  exact matrixWord_ok hg hd ((congrArg (· >>= _) check).trans hf)

/-- R191: MRDAC. -/
theorem exec_mrdac (a d : BitVec 6) (h : accCause s.unit 512 512 (s.sv a) = none) :
    exec (.mrdac a d) s = .next (t.inFlight [s.result 4 (.vector (s.me.physv d.toNat)
      (BitVec.ofNat 4096 (leNat (Mem.read s.me.mx.acc ((s.sv a).toNat % 2 ^ 20) 512))) (BitVec.allOnes 4096)) 0]) := by
  refine accWord_ok hg hd h (fun s off => .ok (s.laterV 4 (s.me.physv d.toNat) (vecOfBytes (Mem.read s.me.mx.acc off 512))
    (BitVec.allOnes 4096) 0)) ?_
  obtain ⟨y, rfl⟩ := deliver_frame hd
  rfl

/-- R191: MWRAC. -/
theorem exec_mwrac (a d : BitVec 6) (h : accCause s.unit 512 512 (s.sv a) = none) :
    exec (.mwrac a d) s = .next (t.inFlight [s.result 2 (.acc ((s.sv a).toNat % 2 ^ 20)
      (.write (natLe 512 (s.me.vname d.toNat).toNat)) none) 0]) := by
  refine accWord_ok hg hd h (fun s off => .ok (s.later 2 (.acc off (.write (bytesOfVec (s.me.vname d.toNat))) none) 0)) ?_
  obtain ⟨y, rfl⟩ := deliver_frame hd
  rfl

end

/-- Settles O24: the delivery case by case, and each word as its delivery followed by its effect. -/
theorem matrixWords : Obligations.MatrixWords := by
  refine ⟨fun s => ⟨?_, ?_, ?_, ?_⟩,
    fun s t hg hd => ⟨exec_mova hg hd, exec_mseed hg hd, exec_mmeta hg hd, exec_mpair hg hd, ?_, ?_⟩⟩
  · intro hs
    rw [deliver_cases, if_pos hs]
  · intro hs hm
    simp only [deliver_cases, hs, hm, Bool.false_eq_true, if_false, if_true]
  · intro hs hm h0 hq
    simp only [deliver_cases, hs, hm, h0, hq, Bool.false_eq_true, if_false, if_true]
  · intro hs hm room
    simp only [deliver_cases, hs, hm, Bool.false_eq_true, if_false, metaWord_eq]
    by_cases h0 : s.me.mx.mmode = 0
    · simp only [h0, if_true]
    · have hq : ¬16 ≤ s.me.mx.mqueue.length := Nat.not_le_of_lt (room.resolve_left h0)
      simp only [h0, hq, if_false, State.onMx, State.onMine_onMine]
  · intro i a
    exact (exec_mclr hg hd i a).trans rfl
  · intro a d
    dsimp only
    split
    case h_1 c hc => exact ⟨accWord_error hg hd hc _, accWord_error hg hd hc _⟩
    case h_2 hc =>
      exact ⟨exec_mrdac hg hd a d hc, _, exec_mwrac hg hd a d hc, length_natLe _ _, leNat_natLe_toNat (n := 512) _⟩

end Sys2Proof.Machine
end

section
/-! PROOFS. Copies in flight (R219, R220, R225, R226, R374): what the events of a cycle do to each copy and to the module. -/

namespace Sys2Proof.Machine

/-! ### One step of every copy -/

/-- Steps of all copies, when on every state that the cycle goes through the step of a copy has effect `e` and leaves copy `g`. -/
theorem eachCopy_fold {f : State → Copy → State × Copy} {P : State → Prop} {e : State → Copy → State} {g : Copy → Copy}
    (hf : ∀ u c, P u → f u c = (e u c, g c)) (hP : ∀ u c, P u → P (e u c)) (cs : List Copy) (u : State) (done : List Copy) (hu : P u) :
    cs.foldl (fun (x : State × List Copy) c => let y := f x.1 c; (y.1, x.2 ++ [y.2])) (u, done) =
      (cs.foldl e u, done ++ cs.map g) ∧ P (cs.foldl e u) := by
  induction cs generalizing u done with
  | nil => exact ⟨by simp, hu⟩
  | cons c cs ih =>
    obtain ⟨fold, last⟩ := ih (e u c) (done ++ [g c]) (hP u c hu)
    refine ⟨?_, last⟩
    simp only [List.foldl_cons, hf u c hu, fold, List.map_cons, List.append_assoc, List.singleton_append]

theorem eachCopy_eq {f : State → Copy → State × Copy} {P : State → Prop} {e : State → Copy → State} {g : Copy → Copy} {s : State}
    (hs : P s) (hf : ∀ u c, P u → f u c = (e u c, g c)) (hP : ∀ u c, P u → P (e u c)) :
    eachCopy f s = (s.mine.copies.foldl e s).onMine (fun k => { k with copies := s.mine.copies.map g }) ∧
      P (s.mine.copies.foldl e s) := by
  obtain ⟨fold, last⟩ := eachCopy_fold hf hP s.mine.copies s [] hs
  exact ⟨by rw [eachCopy, fold, List.nil_append], last⟩

theorem getElem?_map_some {α β : Type} (g : α → β) {l : List α} {j : Nat} {c : α} (h : l[j]? = some c) :
    (l.map g)[j]? = some (g c) := by
  rw [List.getElem?_map, h, Option.map_some]

/-! ### Sectors read -/

/-- `u` is `s` with accesses of the banks noted. -/
def AddsUses (s u : State) : Prop := ∃ us, u = { s with uses := s.uses ++ us }

theorem AddsUses.refl (s : State) : AddsUses s s := ⟨[], by rw [List.append_nil]⟩

theorem AddsUses.touchBy {s u : State} (h : AddsUses s u) (code off n since group : Nat) (read : Bool) :
    AddsUses s (u.touchBy code off n since group read) := by
  obtain ⟨us, rfl⟩ := h
  exact ⟨us ++ [_], by rw [State.touchBy, ← List.append_assoc]⟩

theorem AddsUses.foldl {α : Type} {s u : State} {f : State → α → State} (hf : ∀ t x, AddsUses s t → AddsUses s (f t x))
    (h : AddsUses s u) (l : List α) : AddsUses s (l.foldl f u) := by
  induction l generalizing u with
  | nil => exact h
  | cons x l ih => exact ih (hf u x h)

theorem AddsUses.touchSector {s u : State} (h : AddsUses s u) (c : Copy) (d : CopyDesc) (i : Nat) : AddsUses s (u.touchSector c d i) := by
  unfold State.touchSector
  have first : AddsUses s (if spaceOf d.src == 1 then
      (d.units i).foldl (fun t p => t.touchBy 0x0A (d.srcAt p) 64 c.start (groupCopy c.start c.slot) true) u else u) := by
    split
    · exact h.foldl (fun t p ht => ht.touchBy _ _ _ _ _ _) _
    · exact h
  dsimp only
  split
  · exact first.foldl (fun t p ht => ht.touchBy _ _ _ _ _ _) _
  · exact first

theorem AddsUses.expStep {s u : State} (h : AddsUses s u) (c : Copy) (d : CopyDesc) (j m : Nat) :
    AddsUses s (expStep u c d j m).1 ∧ (expStep u c d j m).2 = (expStep s c d j m).2 := by
  obtain ⟨us, rfl⟩ := h
  have noted : AddsUses s { s with uses := s.uses ++ us } := ⟨us, rfl⟩
  unfold Machine.expStep
  cases SMap.get? c.offs j with
  | none => exact ⟨noted, rfl⟩
  | some off =>
    dsimp only
    generalize (if (m == 0) = true then nextBlock s.old s.unit d off else SMap.get? c.offs (j + 1)) = next
    split
    · exact ⟨noted, rfl⟩
    · split
      · exact ⟨noted.touchBy _ _ _ _ _ _, rfl⟩
      · exact ⟨noted, rfl⟩

theorem AddsUses.readOne {s u : State} (h : AddsUses s u) (c : Copy) :
    AddsUses s (readOne u c).1 ∧ (readOne u c).2 = (readOne s c).2 := by
  have now : u.cur.gn u.unit = s.cur.gn s.unit := by obtain ⟨us, rfl⟩ := h; rfl
  have bytes : u.old.copySector u.unit = s.old.copySector s.unit := by obtain ⟨us, rfl⟩ := h; rfl
  unfold Machine.readOne
  rw [now, bytes]
  dsimp only
  split
  · exact ⟨h, rfl⟩
  · split
    · split
      · exact h.expStep c _ _ _
      · exact ⟨h, rfl⟩
    · split
      · exact ⟨h.touchSector c _ _, rfl⟩
      · exact ⟨h, rfl⟩

/-- What a copy is after its read of the cycle (R220). -/
theorem readOne_copy (s : State) (c : Copy) : (readOne s c).2 =
    let d := copyDesc c.desc
    let x := s.cur.gn s.unit - (c.start + 1)
    if c.reread = true ∨ s.cur.gn s.unit ≤ c.start then c
    else if d.exp then (if x < 17 * d.nb then (expStep s c d (x / 17) (x % 17)).2 else c)
    else if x < d.n then { c with buf := SMap.put c.buf x (s.old.copySector s.unit c.conf d c.kind x) } else c := by
  unfold readOne
  simp only [Bool.or_eq_true, decide_eq_true_eq]
  split
  · rfl
  · split
    · split
      · rfl
      · rfl
    · split
      · rfl
      · rfl

theorem expStep_frame (s : State) (c : Copy) (d : CopyDesc) (j m : Nat) :
    (expStep s c d j m).2.desc = c.desc ∧ (expStep s c d j m).2.start = c.start := by
  unfold expStep
  cases SMap.get? c.offs j with
  | none => exact ⟨rfl, rfl⟩
  | some off =>
    dsimp only
    generalize (if (m == 0) = true then nextBlock s.old s.unit d off else SMap.get? c.offs (j + 1)) = next
    split
    · exact ⟨rfl, rfl⟩
    · exact ⟨rfl, rfl⟩

theorem readOne_frame (s : State) (c : Copy) : (readOne s c).2.desc = c.desc ∧ (readOne s c).2.start = c.start := by
  rw [readOne_copy]
  dsimp only
  split
  · exact ⟨rfl, rfl⟩
  · split
    · split
      · exact expStep_frame _ _ _ _ _
      · exact ⟨rfl, rfl⟩
    · split
      · exact ⟨rfl, rfl⟩
      · exact ⟨rfl, rfl⟩

/-- The reads of a cycle's copies note accesses and change the copies, each for itself. -/
theorem eachCopy_readOne (s : State) : ∃ us, eachCopy readOne s =
    { s.onMine (fun k => { k with copies := s.mine.copies.map fun c => (readOne s c).2 }) with uses := s.uses ++ us } := by
  obtain ⟨each, us, noted⟩ := eachCopy_eq (f := readOne) (P := AddsUses s) (e := fun u c => (readOne u c).1)
    (g := fun c => (readOne s c).2) (AddsUses.refl s) (fun u c h => Prod.ext rfl (h.readOne c).2) (fun u c h => (h.readOne c).1)
  exact ⟨us, by rw [each, noted]; rfl⟩

/-! ### Sectors written -/

/-- `u` stands in the cycle and on the core of `s`, with its context's fingerprint key. -/
structure SameCycle (s u : State) : Prop where
  unit : u.unit = s.unit
  gn   : u.cur.gn s.unit = s.cur.gn s.unit
  fkey : (u.cur.ctx (u.cur.ctxOf s.unit)).fkey = (s.cur.ctx (s.cur.ctxOf s.unit)).fkey

theorem SameCycle.refl (s : State) : SameCycle s s := ⟨rfl, rfl, rfl⟩

theorem SameCycle.now {s u : State} (h : SameCycle s u) : u.cur.gn u.unit = s.cur.gn s.unit := by rw [h.unit, h.gn]

theorem ctxOf_onMine (u : State) (f : Core → Core) (hf : (f u.mine).kernel = u.mine.kernel) (c : Nat) :
    (u.onMine f).cur.ctxOf c = u.cur.ctxOf c := by
  by_cases e : c = u.unit
  · subst e
    simp only [Sys.ctxOf, State.onMine_cur, Sys.core_setCore, hf, Sys.setCore_kernels]
    rfl
  · simp only [Sys.ctxOf, State.onMine_cur, Sys.core_setCore_other _ _ _ _ e, Sys.setCore_kernels]

theorem SameCycle.onMine {s u : State} (h : SameCycle s u) (f : Core → Core) (hf : (f u.mine).kernel = u.mine.kernel) :
    SameCycle s (u.onMine f) :=
  ⟨h.unit, h.gn, by rw [ctxOf_onMine u f hf]; exact h.fkey⟩

theorem SameCycle.writeUnit {s u : State} (h : SameCycle s u) (c : Copy) (d : CopyDesc) (p : Nat) (bs : Bytes) :
    SameCycle s (writeUnit u c d p bs) := by
  unfold Machine.writeUnit
  dsimp only
  split
  · exact SameCycle.onMine (u := u.touchBy 0x0B (d.dstAt p) 64 c.start (groupCopy c.start c.slot) false)
      ⟨h.unit, h.gn, h.fkey⟩ _ rfl
  · exact ⟨h.unit, h.gn, h.fkey⟩
  · exact h.onMine _ rfl

theorem SameCycle.foldl {α : Type} {s u : State} {f : State → α → State} (hf : ∀ t x, SameCycle s t → SameCycle s (f t x))
    (h : SameCycle s u) (l : List α) : SameCycle s (l.foldl f u) := by
  induction l generalizing u with
  | nil => exact h
  | cons x l ih => exact ih (hf u x h)

/-- Block `j` of an EXP copy expanded, or none when it fails its code (R223, R224). -/
def Copy.block (c : Copy) (j : Nat) : Option Bytes := (SMap.get? c.plain j).or (expandBlock (SMap.getD c.buf j []))

/-- The bytes of sector `i` of a copy that are compared or written, or none for a block that fails its code (R219, R224). -/
def Copy.sector (c : Copy) (i : Nat) : Option Bytes :=
  if (copyDesc c.desc).exp then (c.block (i / 16)).map fun b => (b.drop (256 * (i % 16))).take 256
  else some (SMap.getD c.buf i [])

/-- An EXP copy after sector `i`: its block is kept expanded until its last sector. -/
def Copy.keepBlock (c : Copy) (i : Nat) (blk : Option Bytes) : Copy :=
  if i % 16 = 15 then { c with plain := SMap.del c.plain (i / 16), buf := SMap.del c.buf (i / 16) }
  else { c with plain := match blk with | some b => SMap.put c.plain (i / 16) b | none => c.plain }

theorem Copy.keepBlock_frame (c : Copy) (i : Nat) (blk : Option Bytes) :
    (c.keepBlock i blk).desc = c.desc ∧ (c.keepBlock i blk).start = c.start ∧ (c.keepBlock i blk).cmp = c.cmp := by
  unfold keepBlock
  split
  · exact ⟨rfl, rfl, rfl⟩
  · exact ⟨rfl, rfl, rfl⟩

/-- What the write of a copy in cycle `now` does to the module (R219, R224). -/
def sectorEffect (now : Nat) (u : State) (c : Copy) : State :=
  match sectorDue c (copyDesc c.desc) (now - c.start) with
  | none => u
  | some i => match c.sector i with
    | none => engineFault u ⟨0x49, [c.slot + 16 * (i / 16), 0, 0]⟩
    | some bs => if c.kind = 3 then u else
        (((copyDesc c.desc).units i).zip (chunks 64 bs)).foldl (fun t x => writeUnit t c (copyDesc c.desc) x.1 x.2) u

theorem sectorOut_state (u : State) (c : Copy) (d : CopyDesc) (i : Nat) (bs : Bytes) : (sectorOut u c d i bs).1 =
    if c.kind = 3 then u else ((d.units i).zip (chunks 64 bs)).foldl (fun t x => writeUnit t c d x.1 x.2) u := by
  unfold sectorOut
  simp only [beq_iff_eq]
  split
  · rfl
  · rfl

theorem sectorOut_copy_state (s u : State) (c : Copy) (d : CopyDesc) (i : Nat) (bs : Bytes) :
    (sectorOut u c d i bs).2 = (sectorOut s c d i bs).2 := by
  unfold sectorOut
  split
  · rfl
  · rfl

/-- What a sector's turn leaves of its copy (R219, R225, R226). -/
theorem sectorOut_copy (s : State) (c : Copy) (d : CopyDesc) (i : Nat) (bs : Bytes) : let c' := (sectorOut s c d i bs).2
    c'.desc = c.desc ∧ c'.start = c.start ∧ c'.plain = c.plain ∧ (d.exp = false → c'.buf = SMap.del c.buf i) ∧
      c'.cmp = if c.kind = 3 then
        if c.cmp = 0 then firstDiff (256 * i) (bs.take (bs.length / 2)) (bs.drop (bs.length / 2)) else c.cmp else c.cmp := by
  unfold sectorOut Copy.hashSector
  simp only [beq_iff_eq]
  split
  · exact ⟨rfl, rfl, rfl, fun _ => rfl, rfl⟩
  · split
    · exact ⟨rfl, rfl, rfl, fun h => by rw [h]; rfl, rfl⟩
    · exact ⟨rfl, rfl, rfl, fun h => by rw [h]; rfl, rfl⟩

theorem writeOne_idle {s : State} {c : Copy} (h : sectorDue c (copyDesc c.desc) (s.cur.gn s.unit - c.start) = none) :
    writeOne s c = (s, c) := by
  simp only [writeOne, h]

theorem writeOne_bad {s : State} {c : Copy} {i : Nat} (h : sectorDue c (copyDesc c.desc) (s.cur.gn s.unit - c.start) = some i)
    (hb : c.sector i = none) : writeOne s c = (engineFault s ⟨0x49, [c.slot + 16 * (i / 16), 0, 0]⟩, c) := by
  simp only [writeOne, h]
  unfold Copy.sector Copy.block at hb
  by_cases hx : (copyDesc c.desc).exp = true
  · rw [if_pos hx, Option.map_eq_none_iff, Option.or_eq_none_iff] at hb
    simp only [hx, if_true, hb.1, hb.2]
  · rw [if_neg hx] at hb
    cases hb

theorem writeOne_out {s : State} {c : Copy} {i : Nat} {bs : Bytes}
    (h : sectorDue c (copyDesc c.desc) (s.cur.gn s.unit - c.start) = some i) (hb : c.sector i = some bs) :
    writeOne s c = ((sectorOut s c (copyDesc c.desc) i bs).1,
      if (copyDesc c.desc).exp then (sectorOut s c (copyDesc c.desc) i bs).2.keepBlock i (c.block (i / 16))
      else (sectorOut s c (copyDesc c.desc) i bs).2) := by
  simp only [writeOne, h]
  unfold Copy.sector Copy.block at hb
  by_cases hx : (copyDesc c.desc).exp = true
  · rw [if_pos hx] at hb
    obtain ⟨blk, hblk, rfl⟩ := Option.map_eq_some_iff.1 hb
    simp only [hx, if_true, beq_iff_eq, Copy.keepBlock, Copy.block]
    cases hp : SMap.get? c.plain (i / 16) with
    | some b =>
      obtain rfl : b = blk := by rw [hp] at hblk; exact Option.some.inj hblk
      rfl
    | none =>
      have he : expandBlock (SMap.getD c.buf (i / 16) []) = some blk := by rw [hp] at hblk; exact hblk
      rw [he]
      rfl
  · rw [if_neg hx] at hb
    obtain rfl := Option.some.inj hb
    simp only [hx, if_false, Bool.false_eq_true]

theorem writeOne_state (s : State) (c : Copy) : (writeOne s c).1 = sectorEffect (s.cur.gn s.unit) s c := by
  unfold sectorEffect
  cases hd : sectorDue c (copyDesc c.desc) (s.cur.gn s.unit - c.start) with
  | none => rw [writeOne_idle hd]
  | some i =>
    dsimp only
    cases hb : c.sector i with
    | none => rw [writeOne_bad hd hb]
    | some bs => exact (congrArg Prod.fst (writeOne_out hd hb)).trans (sectorOut_state s c _ i bs)

theorem writeOne_copy_state {s u : State} (h : SameCycle s u) (c : Copy) : (writeOne u c).2 = (writeOne s c).2 := by
  cases hd : sectorDue c (copyDesc c.desc) (s.cur.gn s.unit - c.start) with
  | none => rw [writeOne_idle hd, writeOne_idle (h.now ▸ hd)]
  | some i =>
    cases hb : c.sector i with
    | none => rw [writeOne_bad hd hb, writeOne_bad (h.now ▸ hd) hb]
    | some bs => rw [writeOne_out hd hb, writeOne_out (h.now ▸ hd) hb, sectorOut_copy_state s u]

theorem SameCycle.sectorEffect {s u : State} (h : SameCycle s u) (now : Nat) (c : Copy) : SameCycle s (sectorEffect now u c) := by
  unfold Machine.sectorEffect
  split
  · exact h
  · split
    · exact ⟨h.unit, h.gn, h.fkey⟩
    · split
      · exact h
      · exact h.foldl (fun t x ht => ht.writeUnit _ _ _ _) _

/-- What the write of sector `i` leaves of its copy (R219, R226). -/
theorem writeOne_written {s : State} {c : Copy} {i : Nat} {bs : Bytes}
    (hd : sectorDue c (copyDesc c.desc) (s.cur.gn s.unit - c.start) = some i) (hb : c.sector i = some bs) : let c' := (writeOne s c).2
    c'.desc = c.desc ∧ c'.start = c.start ∧
      (c'.cmp = if c.kind = 3 then
        if c.cmp = 0 then firstDiff (256 * i) (bs.take (bs.length / 2)) (bs.drop (bs.length / 2)) else c.cmp else c.cmp) ∧
      ((copyDesc c.desc).exp = false → c'.buf = SMap.del c.buf i ∧ c'.plain = c.plain) := by
  rw [writeOne_out hd hb]
  obtain ⟨hdesc, hstart, hplain, hbuf, hcmp⟩ := sectorOut_copy s c (copyDesc c.desc) i bs
  obtain ⟨kdesc, kstart, kcmp⟩ := (sectorOut s c (copyDesc c.desc) i bs).2.keepBlock_frame i (c.block (i / 16))
  dsimp only
  split
  case isTrue hx => exact ⟨kdesc.trans hdesc, kstart.trans hstart, kcmp.trans hcmp, fun h => absurd (hx.symm.trans h) Bool.noConfusion⟩
  case isFalse hx => exact ⟨hdesc, hstart, hcmp, fun h => ⟨hbuf h, hplain⟩⟩

/-- What the write of its cycle leaves of any copy (R219, R226). -/
theorem writeOne_copy (s : State) (c : Copy) : let c' := (writeOne s c).2
    let due := sectorDue c (copyDesc c.desc) (s.cur.gn s.unit - c.start)
    c'.desc = c.desc ∧ c'.start = c.start ∧ (due = none → c' = c) ∧
      ∀ i, due = some i → (c.sector i = none → c' = c) ∧ ∀ bs, c.sector i = some bs →
        (c.kind = 3 → c'.cmp = if c.cmp = 0 then firstDiff (256 * i) (bs.take (bs.length / 2)) (bs.drop (bs.length / 2)) else c.cmp) ∧
        (c.kind ≠ 3 → c'.cmp = c.cmp) ∧
        ((copyDesc c.desc).exp = false → c'.buf = SMap.del c.buf i ∧ c'.plain = c.plain) := by
  dsimp only
  cases hd : sectorDue c (copyDesc c.desc) (s.cur.gn s.unit - c.start) with
  | none =>
    rw [writeOne_idle hd]
    exact ⟨rfl, rfl, fun _ => rfl, fun i h => nomatch h⟩
  | some i =>
    cases hb : c.sector i with
    | none =>
      rw [writeOne_bad hd hb]
      refine ⟨rfl, rfl, fun _ => rfl, fun j hj => ?_⟩
      obtain rfl := Option.some.inj hj
      exact ⟨fun _ => rfl, fun bs h => by rw [hb] at h; cases h⟩
    | some bs =>
      obtain ⟨hdesc, hstart, hcmp, hbuf⟩ := writeOne_written hd hb
      refine ⟨hdesc, hstart, fun h => absurd h (Option.some_ne_none i), fun j hj => ?_⟩
      obtain rfl := Option.some.inj hj
      refine ⟨fun h => absurd (hb.symm.trans h) (Option.some_ne_none bs), fun bs' h => ?_⟩
      obtain rfl : bs = bs' := Option.some.inj (hb.symm.trans h)
      exact ⟨fun k => hcmp.trans (if_pos k), fun k => hcmp.trans (if_neg k), hbuf⟩

/-- The writes of a cycle's copies: their effects in turn, and each copy as its own write leaves it. -/
theorem eachCopy_writeOne (s : State) : eachCopy writeOne s = (s.mine.copies.foldl (sectorEffect (s.cur.gn s.unit)) s).onMine
    fun k => { k with copies := s.mine.copies.map fun c => (writeOne s c).2 } :=
  (eachCopy_eq (P := SameCycle s) (e := sectorEffect (s.cur.gn s.unit)) (g := fun c => (writeOne s c).2) (SameCycle.refl s)
    (fun u c h => Prod.ext (by rw [writeOne_state, h.now]) (writeOne_copy_state h c)) (fun u c h => h.sectorEffect _ c)).1

/-! ### The end of a copy -/

theorem exec_copyDataComplete (s : State) : exec .copyDataComplete s = .next (s.onMine fun k => { k with
    copies := s.mine.copies.map fun c =>
      if s.cur.gn s.unit = c.start + copyLD c.conf (copyDesc c.desc) then { c with buf := [], plain := [] } else c }) := by
  have each := (eachCopy_eq (P := fun u => u = s) (s := s) (e := fun u _ => u)
    (f := fun s c => if s.cur.gn s.unit == c.start + copyLD c.conf (copyDesc c.desc) then (s, { c with buf := [], plain := [] }) else (s, c))
    (g := fun c => if s.cur.gn s.unit = c.start + copyLD c.conf (copyDesc c.desc) then { c with buf := [], plain := [] } else c)
    rfl (fun u c h => by subst h; simp only [beq_iff_eq]; split <;> rfl) (fun u c h => h)).1
  rw [List.foldl_fixed] at each
  exact congrArg Host.Outcome.next each

/-- The write of what a copy of a kind has found, in the cycle before it completes (R225, R226). -/
def finishEffect (now kind : Nat) (out : Copy → Bytes) (u : State) (c : Copy) : State :=
  if c.kind = kind ∧ now + 1 = c.start + copyL c.conf (copyDesc c.desc) kind then
    (u.touchBy 0x0C c.raddr (out c).length c.start (groupCopy c.start c.slot) false).onMine fun k =>
      { k with spad := Mem.write k.spad c.raddr (out c) }
  else u

theorem SameCycle.finishEffect {s u : State} (h : SameCycle s u) (now kind : Nat) (out : Copy → Bytes) (c : Copy) :
    SameCycle s (finishEffect now kind out u c) := by
  unfold Machine.finishEffect
  split
  · exact SameCycle.onMine (u := u.touchBy 0x0C c.raddr (out c).length c.start (groupCopy c.start c.slot) false)
      ⟨h.unit, h.gn, h.fkey⟩ _ rfl
  · exact h

theorem finish_eq (s : State) (kind : Nat) (found : State → Copy → Bytes) (out : Copy → Bytes)
    (hout : ∀ u c, SameCycle s u → found u c = out c) : finish kind found s =
    .next ((s.mine.copies.foldl (finishEffect (s.cur.gn s.unit) kind out) s).onMine fun k => { k with copies := s.mine.copies }) := by
  have each := (eachCopy_eq (P := SameCycle s) (s := s) (e := finishEffect (s.cur.gn s.unit) kind out) (g := id)
    (f := fun s c =>
      let d := copyDesc c.desc
      if c.kind == kind && s.cur.gn s.unit + 1 == c.start + copyL c.conf d kind then
        let bs := found s c
        let t := s.touchBy 0x0C c.raddr bs.length c.start (groupCopy c.start c.slot) false
        (t.onMine fun k => { k with spad := Mem.write k.spad c.raddr bs }, c)
      else (s, c))
    (SameCycle.refl s)
    (fun u c h => by
      simp only [hout u c h, h.now, Bool.and_eq_true, beq_iff_eq, finishEffect, id]
      split <;> rfl)
    (fun u c h => h.finishEffect _ _ _ c)).1
  rw [List.map_id] at each
  exact congrArg Host.Outcome.next each

end Sys2Proof.Machine
end

section
/-! PROOFS. The accesses of a core in a cycle judged together (R203, R229, R453): early reads, collisions, tags. -/

namespace Sys2Proof.Machine

/-! ### One report of each word or engine -/

/-- The step of `oncePerWord`. -/
def joinReport (out : List Report) (r : Report) : List Report :=
  if out.any fun p => p.core == r.core && p.cluster == r.cluster && p.die == r.die && p.rank == r.rank && p.word == r.word
  then out else out ++ [r]

theorem oncePerWord_eq (l : List Report) : oncePerWord l = l.foldl joinReport [] := rfl

theorem joinReport_grows (out : List Report) (r : Report) : ∀ p ∈ out, p ∈ joinReport out r := by
  intro p hp
  unfold joinReport
  split
  · exact hp
  · exact List.mem_append_left _ hp

theorem foldl_joinReport_grows (out l : List Report) : ∀ p ∈ out, p ∈ l.foldl joinReport out := by
  induction l generalizing out with
  | nil => exact fun p hp => hp
  | cons r l ih => exact fun p hp => ih _ p (joinReport_grows out r p hp)

theorem mem_foldl_joinReport {out l : List Report} {p : Report} (h : p ∈ l.foldl joinReport out) : p ∈ out ∨ p ∈ l := by
  induction l generalizing out with
  | nil => exact .inl h
  | cons r l ih =>
    rcases ih h with hp | hp
    · unfold joinReport at hp
      split at hp
      · exact .inl hp
      · rcases List.mem_append.1 hp with hp | hp
        · exact .inl hp
        · exact .inr (List.mem_cons.2 (.inl (List.mem_singleton.1 hp)))
    · exact .inr (List.mem_cons_of_mem _ hp)

theorem joinReport_covers (out : List Report) (r : Report) : ∃ p ∈ joinReport out r, p.word = r.word := by
  unfold joinReport
  split
  case isTrue h =>
    obtain ⟨p, hp, same⟩ := List.any_eq_true.1 h
    simp only [Bool.and_eq_true, beq_iff_eq] at same
    exact ⟨p, hp, same.2⟩
  case isFalse => exact ⟨r, List.mem_append_right _ (List.mem_singleton_self r), rfl⟩

theorem mem_of_mem_oncePerWord {l : List Report} {r : Report} (h : r ∈ oncePerWord l) : r ∈ l :=
  (mem_foldl_joinReport h).resolve_left (List.not_mem_nil)

/-- Every report of a list has one of its word among those kept. -/
theorem oncePerWord_covers {l : List Report} {r : Report} (h : r ∈ l) : ∃ p ∈ oncePerWord l, p.word = r.word := by
  obtain ⟨a, b, rfl⟩ := List.append_of_mem h
  obtain ⟨p, hp, hw⟩ := joinReport_covers (a.foldl joinReport []) r
  refine ⟨p, ?_, hw⟩
  rw [oncePerWord_eq, List.foldl_append]
  exact foldl_joinReport_grows _ b p hp

theorem mem_oncePerWord_append {a b : List Report} {r : Report} (h : r ∈ oncePerWord a) : r ∈ oncePerWord (a ++ b) := by
  rw [oncePerWord_eq, List.foldl_append]
  exact foldl_joinReport_grows _ b r h

/-! ### Granules and banks of an access -/

theorem mem_span {lo hi n : Nat} : n ∈ (List.range (hi + 1 - lo)).map (fun j => lo + j) ↔ lo ≤ n ∧ n ≤ hi := by
  simp only [List.mem_map, List.mem_range]
  constructor
  · rintro ⟨j, hj, rfl⟩
    omega
  · rintro ⟨hlo, hhi⟩
    exact ⟨n - lo, by omega, by omega⟩

theorem BankUse.mem_granules {u : BankUse} {g : Nat} : g ∈ u.granules ↔ u.off / 64 ≤ g ∧ g ≤ (u.off + u.size - 1) / 64 := mem_span

theorem BankUse.mem_banks {u : BankUse} {b : Nat} : b ∈ u.banks ↔ u.off / 65536 ≤ b ∧ b ≤ (u.off + u.size - 1) / 65536 := mem_span

/-! ### Early reads -/

theorem Copy.arms_iff (c : Copy) (now g : Nat) : c.arms now g = true ↔
    (copyDesc c.desc).chk = true ∧ c.kind ≠ 3 ∧ spaceOf (copyDesc c.desc).dst = 1 ∧ c.start + 1 ≤ now ∧
      now < c.start + copyLD c.conf (copyDesc c.desc) ∧ ∃ j < (copyDesc c.desc).bytes / 64, (copyDesc c.desc).dstAt (64 * j) / 64 = g := by
  simp only [arms, Bool.and_eq_true, bne_iff_ne, beq_iff_eq, decide_eq_true_eq, List.any_eq_true, List.mem_range, ne_eq, and_assoc]

/-- R229: access `u` reads granule `g` while copy `p` arms it. -/
def Sys.EarlyRead (y : Sys) (u : BankUse) (g : Nat) (p : Copy) : Prop :=
  u.checked = true ∧ g ∈ u.granules ∧ p ∈ (y.core u.core).copies ∧ p.arms (y.gn u.core) g = true

theorem earlyRead_some {y : Sys} {u : BankUse} {g slot : Nat} (h : y.earlyRead u = some (g, slot)) :
    ∃ p, y.EarlyRead u g p ∧ p.slot = slot := by
  unfold Sys.earlyRead at h
  split at h
  · cases h
  case isFalse hc =>
    obtain ⟨g', hg, found⟩ := List.exists_of_findSome?_eq_some h
    obtain ⟨p, hp, e⟩ := Option.map_eq_some_iff.1 found
    obtain ⟨rfl, rfl⟩ := Prod.mk.inj e
    have armed : p.arms (y.gn u.core) g' = true := List.find?_some (p := fun c : Copy => c.arms (y.gn u.core) g') hp
    exact ⟨p, ⟨by simpa using hc, hg, List.mem_of_find?_eq_some hp, armed⟩, rfl⟩

theorem earlyRead_isSome {y : Sys} {u : BankUse} {g : Nat} {p : Copy} (h : y.EarlyRead u g p) : ∃ e, y.earlyRead u = some e := by
  obtain ⟨hc, hg, hp, ha⟩ := h
  rw [← Option.isSome_iff_exists]
  unfold Sys.earlyRead
  simp only [hc, Bool.not_true, Bool.false_eq_true, if_false, List.findSome?_isSome_iff]
  refine ⟨g, hg, ?_⟩
  rw [Option.isSome_map, List.find?_isSome]
  exact ⟨p, hp, ha⟩

/-! ### Collisions -/

/-- The choice of `collider` between two accesses. -/
def aheadOf (a b : BankUse) : Bool := match a.word, b.word with
  | some i, some j => decide (i < j)
  | some _, none => true
  | none, some _ => false
  | none, none => decide (a.since < b.since)

/-- The step of `collider`. -/
def takeAhead (o : Option BankUse) (u : BankUse) : Option BankUse := match o with
  | none => some u
  | some v => if aheadOf u v then some u else some v

theorem collider_eq (l : List BankUse) : collider l = l.foldl takeAhead none := rfl

theorem foldl_takeAhead (l : List BankUse) (v : BankUse) : ∃ u, l.foldl takeAhead (some v) = some u ∧ (u = v ∨ u ∈ l) := by
  induction l generalizing v with
  | nil => exact ⟨v, rfl, .inl rfl⟩
  | cons w l ih =>
    have step : ∃ x, takeAhead (some v) w = some x ∧ (x = v ∨ x = w) := by
      unfold takeAhead
      dsimp only
      split
      · exact ⟨w, rfl, .inr rfl⟩
      · exact ⟨v, rfl, .inl rfl⟩
    obtain ⟨x, hx, from_⟩ := step
    obtain ⟨u, hu, mem⟩ := ih x
    refine ⟨u, by rw [List.foldl_cons, hx, hu], ?_⟩
    rcases mem with rfl | mem
    · exact from_.imp_right fun e => List.mem_cons.2 (.inl e)
    · exact .inr (List.mem_cons_of_mem _ mem)

/-- Some access of a list that is not empty is the one reported. -/
theorem collider_cons (v : BankUse) (l : List BankUse) : ∃ u ∈ v :: l, collider (v :: l) = some u := by
  obtain ⟨u, hu, mem⟩ := foldl_takeAhead l v
  exact ⟨u, List.mem_cons.2 mem, hu⟩

theorem collider_of_mem {l : List BankUse} {v : BankUse} (h : v ∈ l) : ∃ u ∈ l, collider l = some u := by
  cases l with
  | nil => cases h
  | cons w l => exact collider_cons w l

theorem mem_of_collider {l : List BankUse} {u : BankUse} (h : collider l = some u) : u ∈ l := by
  cases l with
  | nil => cases h
  | cons v l =>
    obtain ⟨w, hw, e⟩ := collider_cons v l
    obtain rfl := Option.some.inj (e.symm.trans h)
    exact hw

theorem mem_of_collision {l : List BankUse} {b : Nat} {u v : BankUse} (h : collision l b = some (u, v)) :
    (u ∈ l ∧ b ∈ u.banks) ∧ (v ∈ l ∧ b ∈ v.banks) ∧ u.group ≠ v.group := by
  unfold collision at h
  obtain ⟨u', hu, h⟩ := Option.bind_eq_some_iff.1 h
  obtain ⟨v', hv, e⟩ := Option.map_eq_some_iff.1 h
  obtain ⟨rfl, rfl⟩ := Prod.mk.inj e
  have mu := mem_of_collider hu
  obtain ⟨mv, other⟩ := List.mem_filter.1 (mem_of_collider hv)
  simp only [List.mem_filter, List.contains_iff_mem] at mu mv
  exact ⟨mu, mv, fun e => bne_iff_ne.1 other e.symm⟩

theorem collision_isSome {l : List BankUse} {b : Nat} {u v : BankUse} (hu : u ∈ l ∧ b ∈ u.banks) (hv : v ∈ l ∧ b ∈ v.banks)
    (hne : u.group ≠ v.group) : ∃ c, collision l b = some c := by
  have mem : ∀ w, w ∈ l ∧ b ∈ w.banks → w ∈ l.filter fun u => u.banks.contains b := by
    intro w hw
    rw [List.mem_filter, List.contains_iff_mem]
    exact hw
  obtain ⟨x, _, hx⟩ := collider_of_mem (mem u hu)
  have other : ∃ w, w ∈ (l.filter fun u => u.banks.contains b).filter fun v => v.group != x.group := by
    by_cases e : u.group = x.group
    · exact ⟨v, List.mem_filter.2 ⟨mem v hv, bne_iff_ne.2 fun h => hne (e.trans h.symm)⟩⟩
    · exact ⟨u, List.mem_filter.2 ⟨mem u hu, bne_iff_ne.2 e⟩⟩
  obtain ⟨w, hw⟩ := other
  obtain ⟨z, _, hz⟩ := collider_of_mem hw
  exact ⟨(x, z), by simp only [collision, hx, Option.bind_some, hz, Option.map_some]⟩

/-! ### Tags -/

theorem tagReport_some {y : Sys} {u : BankUse} {r : Report} (h : tagReport y u = some r) : ∃ t, u.tag = some t ∧
    (y.core u.core).tag (t.1 / 64) ≠ t.2 ∧
      r = u.report y 0x11 [t.2 + 2 ^ 16 * ((y.core u.core).tag (t.1 / 64) % 4096), t.1 / 64, 0] := by
  obtain ⟨t, ht, h⟩ := Option.bind_eq_some_iff.1 h
  dsimp only at h
  split at h
  · cases h
  case isFalse ne => exact ⟨t, ht, by simpa using ne, (Option.some.inj h).symm⟩

theorem tagReport_of_wrong {y : Sys} {u : BankUse} {t : Nat × Nat} (ht : u.tag = some t) (ne : (y.core u.core).tag (t.1 / 64) ≠ t.2) :
    tagReport y u = some (u.report y 0x11 [t.2 + 2 ^ 16 * ((y.core u.core).tag (t.1 / 64) % 4096), t.1 / 64, 0]) := by
  simp only [tagReport, ht, Option.bind_some, beq_iff_eq, ne, if_false]

/-! ### The reports of a core -/

/-- The early reads of a core with their reports. -/
def earlies (y : Sys) (l : List BankUse) : List (BankUse × Report) :=
  l.filterMap fun u => (y.earlyRead u).map fun e => (u, earlyReport y u e.1 e.2)

/-- The accesses that are of no early read. -/
def lateUses (y : Sys) (l : List BankUse) : List BankUse := l.filter fun u => !(earlies y l).any fun e => e.1.one u

/-- The collisions of a list of accesses with their reports. -/
def hitsOf (y : Sys) (l : List BankUse) : List ((BankUse × BankUse) × Report) :=
  (l.flatMap BankUse.banks).eraseDups.filterMap fun b => (collision l b).map fun c => (c, collisionReport y b c)

/-- The failed tag checks of the accesses that no collision struck. -/
def tagFaults (y : Sys) (l : List BankUse) : List Report :=
  (l.filter fun u => !(hitsOf y l).any fun h => h.1.1.group == u.group || h.1.2.group == u.group).filterMap (tagReport y)

theorem coreBankReports_eq (y : Sys) (l : List BankUse) : coreBankReports y l =
    oncePerWord ((earlies y l).map (·.2) ++ (hitsOf y (lateUses y l)).map (·.2) ++ tagFaults y (lateUses y l)) := rfl

theorem eraseDups_of_forall_eq {l : List Nat} {c : Nat} (h : ∀ x ∈ l, x = c) (ne : l ≠ []) : l.eraseDups = [c] := by
  cases l with
  | nil => exact absurd rfl ne
  | cons a l =>
    have none_left : l.filter (fun b => !b == a) = [] := by
      rw [List.filter_eq_nil_iff]
      intro x hx
      rw [h x (List.mem_cons_of_mem _ hx), h a List.mem_cons_self]
      simp
    rw [List.eraseDups_cons, none_left, List.eraseDups_nil, h a List.mem_cons_self]

theorem bankReports_of_core {l : List BankUse} {c : Nat} (y : Sys) (h : ∀ u ∈ l, u.core = c) : bankReports y l = coreBankReports y l := by
  by_cases ne : l = []
  · subst ne
    rfl
  · have one : (l.map (·.core)).eraseDups = [c] :=
      eraseDups_of_forall_eq (by simpa using h) (fun e => ne (List.map_eq_nil_iff.1 e))
    have all : l.filter (fun u => u.core == c) = l := List.filter_eq_self.2 fun u hu => beq_iff_eq.2 (h u hu)
    rw [bankReports, one, List.flatMap_singleton, all]

theorem mem_earlies {y : Sys} {l : List BankUse} {x : BankUse × Report} (h : x ∈ earlies y l) :
    x.1 ∈ l ∧ ∃ g p, y.EarlyRead x.1 g p ∧ x.2 = earlyReport y x.1 g p.slot := by
  obtain ⟨u, hu, h⟩ := List.mem_filterMap.1 h
  obtain ⟨e, he, rfl⟩ := Option.map_eq_some_iff.1 h
  obtain ⟨p, hp, slot⟩ := earlyRead_some he
  exact ⟨hu, e.1, p, hp, by rw [slot]⟩

theorem earlies_of_early {y : Sys} {l : List BankUse} {u : BankUse} {g : Nat} {p : Copy} (hu : u ∈ l) (h : y.EarlyRead u g p) :
    ∃ g slot, (u, earlyReport y u g slot) ∈ earlies y l := by
  obtain ⟨e, he⟩ := earlyRead_isSome h
  exact ⟨e.1, e.2, List.mem_filterMap.2 ⟨u, hu, by rw [he]; rfl⟩⟩

theorem mem_hitsOf {y : Sys} {l : List BankUse} {x : (BankUse × BankUse) × Report} (h : x ∈ hitsOf y l) : ∃ b,
    (x.1.1 ∈ l ∧ b ∈ x.1.1.banks) ∧ (x.1.2 ∈ l ∧ b ∈ x.1.2.banks) ∧ x.1.1.group ≠ x.1.2.group ∧ x.2 = collisionReport y b x.1 := by
  obtain ⟨b, _, h⟩ := List.mem_filterMap.1 h
  obtain ⟨e, he, rfl⟩ := Option.map_eq_some_iff.1 h
  obtain ⟨hu, hv, ne⟩ := mem_of_collision (u := e.1) (v := e.2) he
  exact ⟨b, hu, hv, ne, rfl⟩

theorem hitsOf_of_meet {y : Sys} {l : List BankUse} {b : Nat} {u v : BankUse} (hu : u ∈ l ∧ b ∈ u.banks) (hv : v ∈ l ∧ b ∈ v.banks)
    (ne : u.group ≠ v.group) : ∃ x, x ∈ hitsOf y l := by
  obtain ⟨e, he⟩ := collision_isSome hu hv ne
  exact ⟨_, List.mem_filterMap.2 ⟨b, List.mem_eraseDups.2 (List.mem_flatMap.2 ⟨u, hu⟩), by rw [he]; rfl⟩⟩

/-- R203: an early read is reported, at its word. -/
theorem reports_early {y : Sys} {l : List BankUse} {u : BankUse} {g : Nat} {p : Copy} (hu : u ∈ l) (h : y.EarlyRead u g p) :
    ∃ r ∈ coreBankReports y l, r.cause = 0x13 ∧ r.word = u.word.getD 0 := by
  obtain ⟨g, slot, he⟩ := earlies_of_early hu h
  obtain ⟨r, hr, hw⟩ := oncePerWord_covers (List.mem_map_of_mem (f := (·.2)) he)
  obtain ⟨x, hx, rfl⟩ := List.mem_map.1 (mem_of_mem_oncePerWord hr)
  obtain ⟨_, _, _, _, rep⟩ := mem_earlies hx
  refine ⟨x.2, ?_, by rw [rep]; rfl, hw⟩
  rw [coreBankReports_eq, List.append_assoc]
  exact mem_oncePerWord_append hr

section
variable {y : Sys} {l : List BankUse} (calm : ∀ u ∈ l, ∀ g p, ¬y.EarlyRead u g p)
include calm

theorem earlies_of_calm : earlies y l = [] := by
  refine List.eq_nil_iff_forall_not_mem.2 fun x hx => ?_
  obtain ⟨hu, g, p, he, _⟩ := mem_earlies hx
  exact calm _ hu g p he

theorem coreBankReports_of_calm :
    coreBankReports y l = oncePerWord ((hitsOf y l).map (·.2) ++ tagFaults y l) := by
  have none := earlies_of_calm calm
  have all : lateUses y l = l := by
    rw [lateUses, none]
    exact List.filter_eq_self.2 fun u _ => rfl
  rw [coreBankReports_eq, none, all]
  rfl

/-- R203: without an early read a collision is reported. -/
theorem reports_collision {b : Nat} {u v : BankUse} (hu : u ∈ l ∧ b ∈ u.banks) (hv : v ∈ l ∧ b ∈ v.banks) (ne : u.group ≠ v.group) :
    ∃ r ∈ coreBankReports y l, r.cause = 0x12 := by
  obtain ⟨x, hx⟩ := hitsOf_of_meet (y := y) hu hv ne
  obtain ⟨r, hr, _⟩ := oncePerWord_covers (List.mem_map_of_mem (f := (·.2)) hx)
  obtain ⟨z, hz, rfl⟩ := List.mem_map.1 (mem_of_mem_oncePerWord hr)
  obtain ⟨_, _, _, _, rep⟩ := mem_hitsOf hz
  refine ⟨z.2, ?_, by rw [rep]; rfl⟩
  rw [coreBankReports_of_calm calm]
  exact mem_oncePerWord_append hr

/-- R203: without an early read or a collision a tag that differs is reported, at its word. -/
theorem reports_tag (apart : ∀ u ∈ l, ∀ v ∈ l, ∀ b ∈ u.banks, b ∈ v.banks → u.group = v.group) {u : BankUse} (hu : u ∈ l)
    {t : Nat × Nat} (ht : u.tag = some t) (ne : (y.core u.core).tag (t.1 / 64) ≠ t.2) :
    ∃ r ∈ coreBankReports y l, r.cause = 0x11 ∧ r.word = u.word.getD 0 := by
  have noHits : hitsOf y l = [] := by
    refine List.eq_nil_iff_forall_not_mem.2 fun x hx => ?_
    obtain ⟨b, ⟨h1, b1⟩, ⟨h2, b2⟩, differ, _⟩ := mem_hitsOf hx
    exact differ (apart _ h1 _ h2 b b1 b2)
  have tags : tagFaults y l = l.filterMap (tagReport y) := by
    rw [tagFaults, noHits]
    exact congrArg _ (List.filter_eq_self.2 fun u _ => rfl)
  rw [coreBankReports_of_calm calm, noHits, tags, List.map_nil, List.nil_append]
  obtain ⟨r, hr, hw⟩ := oncePerWord_covers (List.mem_filterMap.2 ⟨u, hu, tagReport_of_wrong ht ne⟩)
  obtain ⟨v, _, hv⟩ := List.mem_filterMap.1 (mem_of_mem_oncePerWord hr)
  obtain ⟨_, _, _, rep⟩ := tagReport_some hv
  exact ⟨r, hr, by rw [rep]; rfl, hw⟩

end

/-- R203: nothing is reported but early reads, collisions and tags that differ. -/
theorem mem_coreBankReports {y : Sys} {l : List BankUse} {r : Report} (h : r ∈ coreBankReports y l) :
    (∃ u ∈ l, ∃ g p, y.EarlyRead u g p ∧ r = earlyReport y u g p.slot) ∨
    (∃ u ∈ l, ∃ v ∈ l, ∃ b, b ∈ u.banks ∧ b ∈ v.banks ∧ u.group ≠ v.group ∧ r = collisionReport y b (u, v)) ∨
    ∃ u ∈ l, tagReport y u = some r := by
  rw [coreBankReports_eq] at h
  have late : ∀ u ∈ lateUses y l, u ∈ l := fun u hu => List.mem_of_mem_filter hu
  rcases List.mem_append.1 (mem_of_mem_oncePerWord h) with h | h
  · rcases List.mem_append.1 h with h | h
    · obtain ⟨x, hx, rfl⟩ := List.mem_map.1 h
      obtain ⟨hu, g, p, he, rep⟩ := mem_earlies hx
      exact .inl ⟨x.1, hu, g, p, he, rep⟩
    · obtain ⟨x, hx, rfl⟩ := List.mem_map.1 h
      obtain ⟨b, ⟨hu, bu⟩, ⟨hv, bv⟩, ne, rep⟩ := mem_hitsOf hx
      exact .inr (.inl ⟨x.1.1, late _ hu, x.1.2, late _ hv, b, bu, bv, ne, rep⟩)
  · obtain ⟨u, hu, rep⟩ := List.mem_filterMap.1 h
    exact .inr (.inr ⟨u, late _ (List.mem_of_mem_filter hu), rep⟩)

end Sys2Proof.Machine
end

section
/-! PROOFS. The events of copies in flight and the bank faults of a cycle (R203, R219, R220, R229, R374). -/

namespace Sys2Proof.Machine

theorem Sys.earlyRead_iff (y : Sys) (u : BankUse) (g : Nat) (p : Copy) : y.EarlyRead u g p ↔ u.read = true ∧
    u.code ∈ ([0x01, 0x03, 0x04, 0x06, 0x07, 0x09, 0x0A, 0x0D, 0x0E, 0x0F, 0x10, 0x12, 0x16] : List Nat) ∧
    u.off / 64 ≤ g ∧ g ≤ (u.off + u.size - 1) / 64 ∧ p ∈ (y.core u.core).copies ∧ (copyDesc p.desc).chk = true ∧ p.kind ≠ 3 ∧
    spaceOf (copyDesc p.desc).dst = 1 ∧ p.start + 1 ≤ y.gn u.core ∧ y.gn u.core < p.start + copyLD p.conf (copyDesc p.desc) ∧
    ∃ j < (copyDesc p.desc).bytes / 64, (copyDesc p.desc).dstAt (64 * j) / 64 = g := by
  rw [Sys.EarlyRead, Copy.arms_iff, BankUse.mem_granules, BankUse.checked, Bool.and_eq_true, List.contains_iff_mem]
  simp only [and_assoc]

/-- R374: what a link transfer reads in a cycle. -/
theorem readTransfer_cases (s : State) (x : Transfer) : let i := s.cur.gn s.unit - x.start - 1
    let n := Nat.min 256 (64 * x.ngran - 256 * i)
    (x.core ≠ s.unit ∨ 64 * x.ngran ≤ x.data.length ∨ s.cur.gn s.unit ≤ x.start → readTransfer s x = s) ∧
    (x.core = s.unit → x.data.length < 64 * x.ngran → x.start < s.cur.gn s.unit → readTransfer s x =
      (s.touchBy 0x16 (x.src + 256 * i) n x.start (groupCopy x.start 0) true).onCur fun y =>
        (y.setTransfer x { x with data := x.data ++ Mem.read s.me.spad (x.src + 256 * i) n }).sendReady x.port x.peer) := by
  have guard : (x.core != s.unit || x.whole || decide (s.cur.gn s.unit ≤ x.start)) = true ↔
      x.core ≠ s.unit ∨ 64 * x.ngran ≤ x.data.length ∨ s.cur.gn s.unit ≤ x.start := by
    simp only [Transfer.whole, Bool.or_eq_true, bne_iff_ne, decide_eq_true_eq, or_assoc, ne_eq]
  dsimp only
  refine ⟨fun h => if_pos (guard.2 h), fun hc hd ht => (if_neg fun h => ?_).trans rfl⟩
  rcases guard.1 h with h | h | h
  · exact h hc
  · omega
  · omega

theorem mem_cycleFaults_of_bank (s : State) : ∀ r ∈ bankReports s.old s.uses, r ∈ cycleFaults s :=
  fun _ hr => List.mem_append_left _ hr

/-- Settles O32: each event steps the copies one by one, and the bank faults come in three groups. -/
theorem copyEvents : Obligations.CopyEvents := by
  refine ⟨fun s => ⟨?_, readTransfer_cases s, ?_, exec_copyDataComplete s, ?_, rfl, mem_cycleFaults_of_bank s⟩, fun y l c hc => ?_⟩
  · obtain ⟨us, read⟩ := eachCopy_readOne s
    refine ⟨us, s.mine.copies.map fun c => (readOne s c).2, ?_, List.length_map _, fun j c hj =>
      ⟨(readOne s c).2, getElem?_map_some _ hj, (readOne_frame s c).1, (readOne_frame s c).2, readOne_copy s c⟩⟩
    exact congrArg (fun t => Host.Outcome.next (s.cur.link.transfers.foldl readTransfer t)) read
  · exact ⟨s.mine.copies.map fun c => (writeOne s c).2, congrArg Host.Outcome.next (eachCopy_writeOne s), List.length_map _,
      fun j c hj => ⟨(writeOne s c).2, getElem?_map_some _ hj, writeOne_copy s c⟩⟩
  · rintro fkey i kind out (⟨rfl, rfl, rfl⟩ | ⟨rfl, rfl, rfl⟩)
    · exact finish_eq s 2 _ _ fun u c h => congrArg c.digest (by rw [h.unit, h.fkey])
    · exact finish_eq s 3 _ (fun c => natLe 8 c.cmp) fun u c _ => rfl
  · rw [bankReports_of_core y hc]
    have early := fun u (hu : u ∈ l) g p => hc u hu ▸ y.earlyRead_iff u g p
    refine ⟨fun u hu ⟨g, p, h⟩ => reports_early hu ((early u hu g p).2 h), fun calm => ?_, fun r hr => ?_⟩
    · replace calm : ∀ u ∈ l, ∀ g p, ¬y.EarlyRead u g p := fun u hu g p h => calm u hu g p ((early u hu g p).1 h)
      refine ⟨fun ⟨u, hu, v, hv, ne, b, ulo, uhi, vlo, vhi⟩ => ?_, fun apart u hu t ⟨ht, ne⟩ => ?_⟩
      · exact reports_collision calm ⟨hu, BankUse.mem_banks.2 ⟨ulo, uhi⟩⟩ ⟨hv, BankUse.mem_banks.2 ⟨vlo, vhi⟩⟩ ne
      · refine reports_tag calm (fun u hu v hv b bu bv => ?_) hu ht (hc u hu ▸ ne)
        obtain ⟨ulo, uhi⟩ := BankUse.mem_banks.1 bu
        obtain ⟨vlo, vhi⟩ := BankUse.mem_banks.1 bv
        exact by_contra fun ne => apart u hu v hv ⟨ne, b, ulo, uhi, vlo, vhi⟩
    · rcases mem_coreBankReports hr with ⟨u, hu, g, p, he, rep⟩ | ⟨u, hu, v, hv, b, bu, bv, ne, rep⟩ | ⟨u, hu, rep⟩
      · exact .inl ⟨u, hu, g, p, (early u hu g p).1 he, rep⟩
      · obtain ⟨ulo, uhi⟩ := BankUse.mem_banks.1 bu
        obtain ⟨vlo, vhi⟩ := BankUse.mem_banks.1 bv
        exact .inr (.inl ⟨u, hu, v, hv, ⟨ne, b, ulo, uhi, vlo, vhi⟩, b, rep⟩)
      · obtain ⟨t, ht, ne, rep⟩ := tagReport_some rep
        exact .inr (.inr ⟨u, hu, t, ⟨ht, hc u hu ▸ ne⟩, hc u hu ▸ rep⟩)

end Sys2Proof.Machine
end

section
/-! PROOFS. Taking an exception (R97, R126, R289 to R291) beside the requests of the same boundary (R412). -/

namespace Sys2Proof.Machine

/-- A running kernel on die 0. -/
def trapKernel : Kernel :=
  { state := .running, ctx := 0, queue := 0, obj := 0, arg := 0, variant := 0, dies := [0], lead := true, start := 0, readyAt := 0,
    holds := Holds.none, stop := none, barriers := [], rings := [], ops := [], succ := [], pinned := [], status := 0, cause := 0,
    save := 0, saving := none, lost := false, launch := none }

/-- A TRAP that core 0 of the kernel executed in the cycle before (R126). -/
def trapReport : Report :=
  { rank := 1, late := true, die := 0, cluster := 0, core := 0, word := 0, cause := 0, detail := [0, 0, 0], pos := some 1, kernel := some 0 }

/-- A request for IDENTIFY that arrives in hub cycle 5. -/
def identifyRequest : Input :=
  { time := 5, unit_ := 0, event := .identify { session := 0, len := 0, rtag := 0, ctx := 0, queue := 0, reserved := 0 } [] }

/-- The boundary of hub cycle 5, at which the TRAP stops its kernel and firmware takes the request up; no request was taken up before. -/
def trapAtRequest : State :=
  { State.reset with
    cur := { Sys.reset with
      hub := 5
      dies := [(0, { Die.reset with run := .running, gnomon := 5 })]
      cores := [(0, { Core.reset with task := .running, kernel := some 0, ip := 1 })]
      kernels := [(0, trapKernel)] }
    todo := []
    faults := [trapReport]
    inputs := [identifyRequest]
    phase := 1 }

/-- R412: the request that is taken up leaves the time of its arrival. -/
theorem stamp_trapAtRequest : (advance trapAtRequest).cur.trust.stamp = 5 := rfl

/-- Refutes O47: firmware takes a request up at the boundary at which a TRAP stops its kernel, and keeps the time of its arrival (R412), so
the module differs from the one before in more than its cores, kernels and dies. -/
theorem not_takingAnException : ¬Obligations.TakingAnException := by
  intro ⟨_, trap⟩
  obtain ⟨t, step_eq, ⟨frame, _⟩, _, _⟩ :=
    trap trapAtRequest trapReport 0 trapKernel rfl rfl rfl rfl rfl rfl rfl rfl rfl rfl rfl (by decide) (by decide)
  have next : step trapAtRequest = .next (advance trapAtRequest) := rfl
  obtain rfl : advance trapAtRequest = t := Host.Outcome.next.inj (next.symm.trans step_eq)
  have before : trapAtRequest.cur.trust.stamp = 0 := rfl
  have kept : (advance trapAtRequest).cur.trust.stamp = trapAtRequest.cur.trust.stamp := by rw [frame]
  rw [stamp_trapAtRequest, before] at kept
  exact absurd kept (by decide)

end Sys2Proof.Machine
end
